-- ==== Sys2Proof/Word.lean ====
section
/-! DEFINITION. The word types of the Ruros block: bits, bytes and register words (R9, R10). -/
namespace Sys2Proof

/-- One byte; all multi-byte data are little-endian (R9). -/
abbrev Byte := BitVec 8
/-- A 32-bit register or handle half (R10). -/
abbrev W32 := BitVec 32
/-- A 64-bit register, scalar register, handle or address. -/
abbrev W64 := BitVec 64
/-- The tile number T of R19. -/
abbrev TileId := Fin 1024
/-- The fabric port number P of R18. -/
abbrev PortId := Fin 16
/-- The partition number. -/
abbrev PartId := Fin 16
/-- The DDR channel, and the L2 slice in front of it (R18). -/
abbrev ChanId := Fin 16

end Sys2Proof
end

