-- ==== Sys2Proof/Syntax.lean ====
section
/-! DEFINITION. The commands and events of the block: one constructor per row of the opcode table. -/
namespace Sys2Proof

/-- The fields common to VE instructions, from the most significant down (R114); the opcode is the constructor's. -/
structure VFields where
  ph : BitVec 2
  pos : BitVec 2
  fmt : BitVec 4
  vd : BitVec 6
  va : BitVec 6
  vb : BitVec 6
  vc : BitVec 6
  lm : BitVec 2
  mod : BitVec 24
  deriving DecidableEq, Repr

/-- A transport packet as it stands on a link: header unit 0, header unit 1 and payload bytes (R383). -/
structure Packet where
  u0 : BitVec 128
  u1 : BitVec 128
  payload : List Byte
  deriving DecidableEq, Repr

/-- Symbol errors of one codeword: (symbol position from the first data symbol, value added to it). -/
abbrev SymErrs := List (Nat × Byte)

/-- A flit as a port receives it: its 256 bytes, and the codewords that came with it in error, each with its physical lane and
the number of its wrong symbols (R345, R346). -/
structure Flit where
  bytes : List Byte
  words : List (Nat × Nat)
  deriving DecidableEq, Repr

/-- What STEP_REPLAY brings beside its packet: the mirror's record where it was read, and the places of the slaths' step control
blocks: tile, scratchpad address, partition address of the copy (R315, R435). -/
structure ReplayData where
  record : Option (List Byte)
  blocks : List (TileId × BitVec 21 × BitVec 48)
  deriving DecidableEq, Repr

/-- The end of ALIGN on a port: the width and the map of the transmit direction, which the peer chose (R343, R364). -/
structure AlignEnd where
  port : PortId
  txWidth : Fin 3
  txMap : BitVec 32
  deriving DecidableEq, Repr

/-- The marker of a lane map change on a port: of the transmit direction, or of the receive direction (R369). -/
structure MapMarker where
  port : PortId
  rx : Bool
  deriving DecidableEq, Repr

/-- A requester of registers: the host, the MP, or a device through space 4 (R13). -/
inductive Requester
  | host
  | mp
  | dev (id : BitVec 16)
  deriving DecidableEq, Repr

/-- The stores of a tile that the strong code protects and an access reads: scratchpad, GAB, accumulator file, slath buffer,
pattern table (R80, R142, R147, R177, R215). -/
inductive StrongStore
  | spad | gab
  | acc (m : Fin 4)
  | slath | pat
  deriving DecidableEq, Repr

/-- Where the access that met an error came from (R147). -/
inductive Reader
  | mac (m : Fin 4)
  | ve
  | se (c : Fin 8)
  | seq
  | drain (m : Fin 4)
  | window
  deriving DecidableEq, Repr

/-- Instructions of the JTAG port by name (R597); the spec gives them no codes. -/
inductive Jtag
  | bypass | idcode | samplePreload | extest | other
  deriving DecidableEq, Repr

/-- The commands and events of the block; each constructor is a row of the opcode table. -/
inductive Instr
  -- host interface
  | apertureWrite (offset : BitVec 26) (data : List Byte)
  | identify
  | getCert (dmaOk : Bool)
  | attest (dmaOk : Bool)
  | loadImageBegin
  | loadImageData (dma : Option (List Byte))
  | loadImageEnd
  | setRing
  | setLatencyTolerance
  | partitionCreate
  | partitionDestroy
  | partitionQuery
  | slathLoad (remote : Option (List Byte))
  | jobStart (remote : Option (List Byte))
  | jobStop
  | jobPreempt
  | jobResume
  | setTimeSlice
  | waleConfigure (dma : Option (List Byte))
  | waleNow
  | restore (dmaOk : Bool) (mirror : Option (List Byte))
  | stepReplay (mirror : ReplayData)
  | fabricPlan (dma : Option (List Byte))
  | bringUp
  | routeLoad (dma : Option (List Byte))
  | routeUpdate
  | groups (dma : Option (List Byte))
  | assumeId
  | counters (dmaOk : Bool)
  | trace
  | rimDump (dmaOk : Bool)
  | freezeAt
  | unfreeze
  | partitionReset
  | warmReset
  | debugChallenge
  | debugUnlock (dma : Option (List Byte))
  | memCopy (dma : Option (List Byte))
  | functionLevelReset
  | hifRingHeadWrite (head : BitVec 32)
  | eventRecordWrite
  | interruptCoalTimeout (vector : Fin 32)
  -- register accesses
  | registerWrite (req : Requester) (addr : BitVec 26) (wide : Bool) (data : BitVec 64)
  | veRngCtrWrite (req : Requester) (t : TileId) (k : Fin 16) (hi : Bool) (half : Option Bool) (data : BitVec 64)
  | ddrErrLogRead (req : Requester) (wide : Bool)
  | windowStatusRead (req : Requester) (t : TileId) (n : Fin 16)
  | lidRead (addr : BitVec 40)
  -- sequencer
  | sqStart (t : TileId)
  | sqStop (t : TileId)
  | sqResume (t : TileId)
  | sqRewind (t : TileId)
  | sqAbort (t : TileId)
  | sqAbortTakesEffect (t : TileId)
  | rampSlotReached (p : PartId) (j : Fin 256)
  | sequencerRelease (p : PartId)
  | rampDownStart (p : PartId)
  | rampDownSlotStop (p : PartId) (j : Fin 256)
  | slathFetchReturn (t : TileId) (block : Nat) (errs : List SymErrs) (remote : List Byte)
  | slathFetchFault (t : TileId) (block : Nat)
  | engine (t : TileId)
  | sync (t : TileId)
  | loop (t : TileId)
  | next (t : TileId)
  | param (t : TileId)
  | ld8DataReturn (t : TileId)
  | windowOpen (t : TileId)
  | windowClose (t : TileId)
  | mark (t : TileId)
  | end_ (t : TileId)
  | recoveryPointPass (t : TileId)
  | parityEventPost (t : TileId)
  | rewindRestore (t : TileId)
  | sequencerStopped (t : TileId)
  | waitRelease (t : TileId) (i : Nat)
  | windowCloseByCondition (t : TileId) (n : Fin 16)
  | syncOperation (i : Nat)
  | commandOverrun (t : TileId) (e : Fin 6) (c : Fin 8)
  | slipTimeout (t : TileId) (e : Option (Fin 6))
  | commandStart (t : TileId) (e : Fin 6)
  -- MAC arrays
  | macCommand (t : TileId) (m : Fin 4)
  | macComputeComplete (t : TileId) (m : Fin 4)
  | macDrainComplete (t : TileId) (m : Fin 4)
  | commandCompletion (t : TileId) (e : Fin 6) (c : Fin 8)
  | operandParityEvent (t : TileId) (m : Fin 4) (addr : BitVec 21) (stored : Bool)
  | ballastExpired (t : TileId) (m : Fin 4)
  -- vector engine
  | veRun (t : TileId)
  | kload (t : TileId)
  | nop (t : TileId) (i : VFields)
  | mov (t : TileId) (i : VFields)
  | movi (t : TileId) (i : VFields)
  | add (t : TileId) (i : VFields)
  | mul (t : TileId) (i : VFields)
  | fma (t : TileId) (i : VFields)
  | min (t : TileId) (i : VFields)
  | max (t : TileId) (i : VFields)
  | cmp (t : TileId) (i : VFields)
  | sel (t : TileId) (i : VFields)
  | log (t : TileId) (i : VFields)
  | exp2 (t : TileId) (i : VFields)
  | log2 (t : TileId) (i : VFields)
  | rcp (t : TileId) (i : VFields)
  | rsq (t : TileId) (i : VFields)
  | rsum (t : TileId) (i : VFields)
  | rmax (t : TileId) (i : VFields)
  | rmin (t : TileId) (i : VFields)
  | trn (t : TileId) (i : VFields)
  | cvt (t : TileId) (i : VFields)
  | cvtBlockQuantise (t : TileId) (i : VFields)
  | cvtDequantise (t : TileId) (i : VFields)
  | rndRaw (t : TileId) (i : VFields)
  | rndUniform (t : TileId) (i : VFields)
  | rndBernoulli (t : TileId) (i : VFields)
  | ld (t : TileId) (i : VFields)
  | st (t : TileId) (i : VFields)
  | rsta (t : TileId) (i : VFields)
  | rstf (t : TileId) (i : VFields)
  | rapp (t : TileId) (i : VFields)
  | veResultLanding (t : TileId) (i : Nat)
  | veParityStop (t : TileId) (addr : BitVec 21) (stored : Bool)
  -- stream engine
  | copy (t : TileId)
  | pload (t : TileId)
  | qpush (t : TileId)
  | farRequestIssue (t : TileId) (c : Fin 8)
  | farResponse (t : TileId) (c : Fin 8) (id : Nat)
  | contextHalt (t : TileId) (c : Fin 8)
  | seCtxResume (t : TileId) (c : Fin 8)
  | seCtxAbort (t : TileId) (c : Fin 8)
  | translationWalkComplete (t : TileId) (c : Fin 8) (uncorrectable : Bool)
  | seXlateInv (part : PartId) (all : Bool)
  | xlateInvComplete
  -- scratchpad, windows, arbiters
  | windowAccess (t : TileId) (id : Nat)
  | mergeWrite (t : TileId) (addr : BitVec 21) (gab : Bool)
  | correctedWriteBack (t : TileId) (store : StrongStore) (addr : BitVec 21) (errs : SymErrs)
  | uncorrectableRead (t : TileId) (reader : Reader) (store : StrongStore) (addr : BitVec 21) (errs : SymErrs)
  | arbiterWaitLimit (inst : Nat) (r : Fin 16)
  | arbiterSitOutEnd (inst : Nat) (r : Fin 16)
  -- memory agents, L2, DDR
  | slotGrant (id : Nat)
  | capWaitNotice (bank : Nat)
  | capReservationLapse (bank : Nat)
  | capRetryTimeout (t : TileId) (c : Fin 8)
  | l2Access (id : Nat) (errs : List SymErrs) (upset : Bool)
  | l2PinRelease (mask : BitVec 16)
  | l2PinReleaseComplete
  | ddrTrain
  | ddrTrainingComplete (failMask : BitVec 16) (ranks density : BitVec 2)
  | backgroundInitComplete
  | caparAlert (c : ChanId)
  | refreshDue (c : ChanId) (bank : Fin 128)
  | refreshManagement (c : ChanId) (bank : Fin 128)
  | patrolScrubRead (c : ChanId) (errs : List SymErrs)
  | ddrRetireGo (entry : Fin 512)
  | retirementCopyComplete
  -- links
  | receiverDetect (p : PortId)
  | linkTrainingComplete (p : PortId) (ok : Bool) (lanes : BitVec 9)
  | alignComplete (p : AlignEnd)
  | lnkCfgEnable (p : PortId) (enable : Bool)
  | dataFlitReceive (p : PortId) (flit : Flit)
  | idleFlitReceive (p : PortId) (flit : Flit)
  | ackTimeout (p : PortId)
  | idleTimeout (p : PortId)
  | credit (p : PortId) (flit : Flit)
  | initParam (p : PortId) (flit : Flit)
  | initDone (p : PortId) (flit : Flit)
  | echoReq (p : PortId) (flit : Flit)
  | echoResp (p : PortId) (flit : Flit)
  | laneMap (p : PortId) (flit : Flit)
  | laneMapApply (p : MapMarker)
  | laneAck (p : PortId) (flit : Flit)
  | retrainReq (p : PortId) (flit : Flit)
  | controlFlitResend (p : PortId)
  | retrainComplete (p : PortId)
  | retrainTimeout (p : PortId)
  | portDown (p : PortId) (reason : Fin 8)
  | laneFail (p : PortId) (lane : Fin 9) (lostLock : Bool)
  | peerHeldChange (p : PortId) (held : Bool)
  | lnkReauth (p : PortId)
  | lnkQuarantine (p : PortId)
  | lnkActivate (p : PortId)
  | lnkLaneRecover (p : PortId)
  | laneRecovered (p : PortId) (lane : Fin 9)
  | lnkRetrain (p : PortId)
  | portReset (p : PortId)
  -- authentication
  | hello (p : PortId) (msg : List Byte)
  | chain (p : PortId) (msg : List Byte)
  | proof (p : PortId) (msg : List Byte)
  | result (p : PortId) (msg : List Byte)
  | signatureJobComplete (p : PortId)
  | authTimeout (p : PortId)
  -- fabric network
  | explore (p : PortId) (pkt : Packet)
  | read (p : PortId) (pkt : Packet)
  | write (p : PortId) (pkt : Packet)
  | signal (p : PortId) (pkt : Packet)
  | set (p : PortId) (pkt : Packet)
  | resp (p : PortId) (pkt : Packet)
  | coll (p : PortId) (pkt : Packet)
  | time (p : PortId) (pkt : Packet)
  | tpTimeout (ctx : Nat)
  | fabIdWrite (req : Requester) (data : BitVec 32)
  | timeSend (p : PortId)
  | hoopHoldover
  | collectiveRunStart (p : PartId) (desc : Fin 1024)
  | collectiveRunComplete (p : PartId) (desc : Fin 1024)
  | collectiveRunFail (p : PartId) (desc : Fin 1024) (cause : Byte)
  -- wales and faults
  | stepBoundary (p : PartId)
  | waleCommitStallEnd (p : PartId)
  | waleCopyComplete (p : PartId)
  | waleMirrorComplete (p : PartId)
  | waleFault (p : PartId) (status : Byte)
  | containedFaultPost
  | fatalFault (cause : Byte)
  | mpWatchdogExpiry
  -- partitions
  | timeSliceExpiry (p : PartId)
  | preemptAllStopped (p : PartId)
  | preemptSaveComplete (p : PartId)
  | resumeRestoreComplete (p : PartId)
  -- clocks, reset, power
  | throttleFrameBoundary
  | vrHotChange (on : Bool)
  | thermalThrottleChange (on : Bool)
  | thermtrip
  | supplyDipWarning (rail : Fin 2)
  | supplyDipRecovery
  | dipHoldExpiry
  | dipRampStep
  | powerOnReset (source : Fin 3)
  | resetN
  | perstN
  | refclkStop
  | resetReleaseStep
  | bootVerify (otpRepairs : Nat)
  | tileGroupReset (groups : BitVec 16)
  | blockResetRelease
  | otpPulseEnd
  | powerStateEntry
  | powerStateEntryComplete
  | wakeEvent (cause : Fin 16)
  | powerStateExitComplete
  -- observation and freeze
  | cntClear (req : Requester) (data : BitVec 32)
  | freezeN (asserted : Bool)
  | freezeAtReached
  | heldPropagation (p : PortId)
  | breakReached
  | freezePinRelease
  | challengeExpiry
  | lowHalfReadCapture (req : Requester) (addr : BitVec 26)
  | mpReady
  | resetSourcesDeasserted
  | pcieDStateChange (d3hot : Bool)
  | bringUpPhaseComplete
  | waitAtStartPassed1024 (t : TileId) (e : Fin 6)
  | capWaitHeld1024 (t : TileId) (c : Fin 8)
  | commitStallOver1s (p : PartId)
  | moduleThermalSensorChange (c : ChanId) (hot : Bool)
  | jtagInstruction (ir : Jtag)
  deriving DecidableEq, Repr

end Sys2Proof
end

