-- ==== Sys2Proof/Decode.lean ====
section
/-! DEFINITION. Decoding: the opcode table gives none of its rows any bits, so no word spells a command. -/
namespace Sys2Proof

/-- The command that a word of the opcode table spells: no row of the table has bits, so none. -/
def decodeTableWord (_nbits _w : Nat) : Option Instr := none

end Sys2Proof
end

