-- ==== Sys2Proof/Machine/Bits.lean ====
section
/-! DEFINITION. Bit-field, byte-order and keyed-list helpers that every layer uses (R9, R12). -/
namespace Sys2Proof.Machine

/-- Bits [hi:lo] of a number, as R9 writes a bit range. -/
def bits (v hi lo : Nat) : Nat := (v >>> lo) % 2 ^ (hi + 1 - lo)

/-- Bit `i` of a number. -/
def bit (v i : Nat) : Bool := v.testBit i

/-- `v` with bits [hi:lo] replaced by `x`. -/
def setBits (v hi lo x : Nat) : Nat :=
  (v - (bits v hi lo) * 2 ^ lo) + (x % 2 ^ (hi + 1 - lo)) * 2 ^ lo

/-- 1 for true, 0 for false. -/
def b2n (b : Bool) : Nat := if b then 1 else 0

/-- The little-endian value of a byte list (R9). -/
def leVal : List Byte → Nat
  | [] => 0
  | b :: r => b.toNat + 256 * leVal r

/-- The `n` little-endian bytes of a value (R9). -/
def leBytes : Nat → Nat → List Byte
  | 0, _ => []
  | n + 1, v => BitVec.ofNat 8 v :: leBytes n (v / 256)

/-- The first n bytes of a list, filled with zeros. -/
def fit (n : Nat) (l : List Byte) : List Byte := (l ++ List.replicate n 0).take n

/-- The `n` elements of `w` bits each that a value packs from its low bits up (R45). -/
def unpackBits (w : Nat) : Nat → Nat → List Nat
  | 0, _ => []
  | n + 1, v => v % 2 ^ w :: unpackBits w n (v >>> w)

/-- The value whose `w`-bit elements, lowest first, are the list's (R45). -/
def packBits (w : Nat) : List Nat → Nat
  | [] => 0
  | x :: r => x % 2 ^ w + (packBits w r) <<< w

/-- Parity (exclusive or) of the low `n` bits. -/
def parityN : Nat → Nat → Bool
  | 0, _ => false
  | n + 1, v => xor (v % 2 == 1) (parityN n (v / 2))

/-- Signed reading of an `n`-bit number. -/
def signedOf (n v : Nat) : Int :=
  if bit v (n - 1) then (v % 2 ^ n : Nat) - (2 ^ n : Nat) else (v % 2 ^ n : Nat)

/-- The `n`-bit two's-complement code of an integer. -/
def unsignedOf (n : Nat) (i : Int) : Nat := (i % (2 ^ n : Nat)).toNat

/-- Wrap-safe comparison `a ≥ b` of two 32-bit counters (R190): the signed difference is not negative. -/
def wrapGe (a b : Nat) : Bool := (a + 2 ^ 32 - b % 2 ^ 32) % 2 ^ 32 < 2 ^ 31

/-! Keyed lists: the one canonical form of every sparse store. -/

/-- The value a canonical keyed list gives a key; an unlisted key has the default `d`. -/
def mapGet {α : Type} (d : α) : List (Nat × α) → Nat → α
  | [], _ => d
  | (k, v) :: r, x => if k = x then v else mapGet d r x

/-- Insert or replace one entry, keeping the keys strictly rising. -/
def mapIns {α : Type} : List (Nat × α) → Nat → α → List (Nat × α)
  | [], x, v => [(x, v)]
  | (k, w) :: r, x, v =>
    if k = x then (x, v) :: r else if x < k then (x, v) :: (k, w) :: r else (k, w) :: mapIns r x v

/-- Give a key a value: an entry, or for the default value no entry. -/
def mapPut {α : Type} [DecidableEq α] (d : α) (m : List (Nat × α)) (x : Nat) (v : α) : List (Nat × α) :=
  if v = d then m.filter (fun e => !(e.1 == x)) else mapIns m x v

/-- Drop every entry whose key satisfies the test: those keys go back to the default. -/
def mapDrop {α : Type} (p : Nat → Bool) (m : List (Nat × α)) : List (Nat × α) :=
  m.filter (fun e => !p e.1)

/-- The keys rise strictly from `lo` on and no value is the default of its key. -/
def mapWfFrom {α : Type} [DecidableEq α] (d : Nat → α) : Nat → List (Nat × α) → Bool
  | _, [] => true
  | lo, (k, v) :: r => decide (lo ≤ k) && decide (v ≠ d k) && mapWfFrom d (k + 1) r

/-- The canonical form of a keyed list. -/
def mapWf {α : Type} [DecidableEq α] (d : Nat → α) (m : List (Nat × α)) : Bool := mapWfFrom d 0 m

/-- The number at position `i` of a list of numbers, 0 beyond its end. -/
def nth (l : List Nat) (i : Nat) : Nat := l.getD i 0

/-- A list with position `i` replaced (unchanged beyond its end). -/
def setNth {α : Type} (l : List α) (i : Nat) (v : α) : List α := l.set i v

/-- The lowest index below `n` that satisfies a test. -/
def firstIdx (p : Nat → Bool) (n : Nat) : Option Nat := (List.range n).find? p

/-- How many indexes below `n` satisfy a test. -/
def countIdx (p : Nat → Bool) (n : Nat) : Nat := ((List.range n).filter p).length

end Sys2Proof.Machine
end

