-- ==== Sys2Proof/Machine/Regs.lean ====
section
/-! DEFINITION. The register map: every register's place, width, fields, field types and reset values
(R10, R12, R21, and the register tables of the chapters; the rule of each row stands beside it). -/
namespace Sys2Proof.Machine

/-- Field types of R12. -/
inductive FieldTy
  | ro | rw | w1c | w1s | wo | rc
  deriving DecidableEq, Repr

/-- One field of a register table: bits [hi:lo], type, reset value. Bits in no field are rsvd (R11). -/
structure FieldSpec where
  hi : Nat
  lo : Nat
  ty : FieldTy
  reset : Nat
  deriving DecidableEq, Repr

/-- One row of a register table: first address, two array dimensions (count, stride), width in bytes, fields. -/
structure RegSpec where
  base : Nat
  n1 : Nat
  s1 : Nat
  n2 : Nat
  s2 : Nat
  bytes : Nat
  fields : List FieldSpec
  deriving DecidableEq, Repr

/-- Registers of a tile block, by offset in the block (R21), part 1: TILE_CNT_EPOCH (R586), TILE_CNT_CTRL (R586), MAC_STATUS_m (R94), MAC_BALLAST_CTRL (R95), CNT_MAC_USEFUL_m (R98), CNT_MAC_BALLAST_m (R98), CNT_MAC_HELD_m (R98), VE_STATUS (R132), VE_FP_STATUS (R67), VE_RNG_KEY_s (R133), VE_RNG_CTR_LO_s (R133), VE_RNG_CTR_HI_s (R133), CNT_VE_ISSUE (R134), CNT_VE_HELD (R134), CNT_VE_BANK (R134), SE_CTX_STATUS_c (R292), SE_CTX_CTRL_c (R293), SE_CTX_STEP_c (R293), SE_CTX_FADDR_c (R293), SE_PF_CTRL (R294). -/
def tileRegs1 : List RegSpec := [
  ⟨0x0, 1, 0x8000000, 1, 0x8000000, 8, [⟨63, 0, .ro, 0⟩]⟩,
  ⟨0x8, 1, 0x8000000, 1, 0x8000000, 4, [⟨1, 1, .ro, 0⟩, ⟨0, 0, .ro, 0⟩]⟩,
  ⟨0x1000, 4, 0x10, 1, 0x8000000, 4, [⟨9, 5, .ro, 0⟩, ⟨4, 4, .ro, 0⟩, ⟨3, 3, .ro, 0⟩, ⟨2, 2, .ro, 0⟩, ⟨1, 1, .ro, 0⟩, ⟨0, 0, .ro, 0⟩]⟩,
  ⟨0x1100, 1, 0x8000000, 1, 0x8000000, 4, [⟨26, 16, .rw, 64⟩, ⟨1, 0, .rw, 1⟩]⟩,
  ⟨0x1200, 4, 0x20, 1, 0x8000000, 8, [⟨63, 0, .ro, 0⟩]⟩,
  ⟨0x1208, 4, 0x20, 1, 0x8000000, 8, [⟨63, 0, .ro, 0⟩]⟩,
  ⟨0x1210, 4, 0x20, 1, 0x8000000, 8, [⟨63, 0, .ro, 0⟩]⟩,
  ⟨0x2000, 1, 0x8000000, 1, 0x8000000, 4, [⟨9, 5, .ro, 0⟩, ⟨2, 2, .ro, 0⟩, ⟨1, 1, .ro, 0⟩, ⟨0, 0, .ro, 0⟩]⟩,
  ⟨0x2040, 1, 0x8000000, 1, 0x8000000, 4, [⟨6, 6, .w1c, 0⟩, ⟨5, 5, .w1c, 0⟩, ⟨4, 4, .w1c, 0⟩, ⟨3, 3, .w1c, 0⟩, ⟨2, 2, .w1c, 0⟩, ⟨1, 1, .w1c, 0⟩, ⟨0, 0, .w1c, 0⟩]⟩,
  ⟨0x2100, 16, 0x20, 1, 0x8000000, 8, [⟨63, 0, .rw, 0⟩]⟩,
  ⟨0x2108, 16, 0x20, 1, 0x8000000, 8, [⟨63, 0, .rw, 0⟩]⟩,
  ⟨0x2110, 16, 0x20, 1, 0x8000000, 8, [⟨63, 0, .rw, 0⟩]⟩,
  ⟨0x2300, 1, 0x8000000, 1, 0x8000000, 8, [⟨63, 0, .ro, 0⟩]⟩,
  ⟨0x2308, 1, 0x8000000, 1, 0x8000000, 8, [⟨63, 0, .ro, 0⟩]⟩,
  ⟨0x2310, 1, 0x8000000, 1, 0x8000000, 8, [⟨63, 0, .ro, 0⟩]⟩,
  ⟨0x2800, 8, 0x40, 1, 0x8000000, 4, [⟨11, 4, .ro, 0⟩, ⟨1, 0, .ro, 0⟩]⟩,
  ⟨0x2804, 8, 0x40, 1, 0x8000000, 4, [⟨1, 1, .wo, 0⟩, ⟨0, 0, .wo, 0⟩]⟩,
  ⟨0x2808, 8, 0x40, 1, 0x8000000, 8, [⟨47, 0, .ro, 0⟩]⟩,
  ⟨0x2810, 8, 0x40, 1, 0x8000000, 8, [⟨63, 0, .ro, 0⟩]⟩,
  ⟨0x2A00, 1, 0x8000000, 1, 0x8000000, 4, [⟨7, 4, .rw, 4⟩, ⟨0, 0, .rw, 1⟩]⟩]

/-- Registers of a tile block, by offset in the block (R21), part 2: CNT_SE_RD_BYTES (R297), CNT_SE_WR_BYTES (R297), CNT_SE_FAR_WAIT (R297), CNT_SE_CAP_WAIT (R297), CNT_SE_POISON (R297), SPAD_BANK_OWNER (R167), SPAD_ERR_STATUS (R168), SPAD_ERR_ADDR (R168), CNT_SPAD_CORR (R171), CNT_SPAD_PARITY (R171), CNT_SPAD_UNCORR (R171), CNT_SPAD_CONFLICT (R171), CNT_SPAD_RD_BYTES (R171), CNT_SPAD_WR_BYTES (R171), SPAD_WIN_RANGE_n (R155), SPAD_WIN_WRITERS_n (R156), SPAD_WIN_CLOSE_n (R157), SPAD_WIN_STATUS_n (R158), CNT_WIN_REFUSED (R171), GAB_REGION_n (R169). -/
def tileRegs2 : List RegSpec := [
  ⟨0x2A08, 1, 0x8000000, 1, 0x8000000, 8, [⟨63, 0, .ro, 0⟩]⟩,
  ⟨0x2A10, 1, 0x8000000, 1, 0x8000000, 8, [⟨63, 0, .ro, 0⟩]⟩,
  ⟨0x2A18, 1, 0x8000000, 1, 0x8000000, 8, [⟨63, 0, .ro, 0⟩]⟩,
  ⟨0x2A20, 1, 0x8000000, 1, 0x8000000, 8, [⟨63, 0, .ro, 0⟩]⟩,
  ⟨0x2A28, 1, 0x8000000, 1, 0x8000000, 8, [⟨63, 0, .ro, 0⟩]⟩,
  ⟨0x3000, 1, 0x8000000, 1, 0x8000000, 8, [⟨63, 0, .rw, 0⟩]⟩,
  ⟨0x3008, 1, 0x8000000, 1, 0x8000000, 4, [⟨9, 6, .ro, 0⟩, ⟨5, 5, .ro, 0⟩, ⟨4, 4, .w1c, 0⟩, ⟨3, 3, .w1c, 0⟩, ⟨2, 2, .w1c, 0⟩, ⟨1, 1, .w1c, 0⟩]⟩,
  ⟨0x3010, 1, 0x8000000, 1, 0x8000000, 8, [⟨20, 0, .ro, 0⟩]⟩,
  ⟨0x3100, 1, 0x8000000, 1, 0x8000000, 8, [⟨63, 0, .ro, 0⟩]⟩,
  ⟨0x3108, 1, 0x8000000, 1, 0x8000000, 8, [⟨63, 0, .ro, 0⟩]⟩,
  ⟨0x3110, 1, 0x8000000, 1, 0x8000000, 8, [⟨63, 0, .ro, 0⟩]⟩,
  ⟨0x3118, 1, 0x8000000, 1, 0x8000000, 8, [⟨63, 0, .ro, 0⟩]⟩,
  ⟨0x3120, 1, 0x8000000, 1, 0x8000000, 8, [⟨63, 0, .ro, 0⟩]⟩,
  ⟨0x3128, 1, 0x8000000, 1, 0x8000000, 8, [⟨63, 0, .ro, 0⟩]⟩,
  ⟨0x3400, 16, 0x20, 1, 0x8000000, 8, [⟨62, 62, .rw, 0⟩, ⟨61, 61, .rw, 0⟩, ⟨53, 32, .rw, 0⟩, ⟨20, 0, .rw, 0⟩]⟩,
  ⟨0x3408, 16, 0x20, 1, 0x8000000, 8, [⟨63, 48, .rw, 0⟩, ⟨47, 32, .rw, 0⟩, ⟨16, 16, .rw, 0⟩, ⟨15, 0, .rw, 0⟩]⟩,
  ⟨0x3410, 16, 0x20, 1, 0x8000000, 8, [⟨63, 32, .rw, 0⟩, ⟨31, 31, .rw, 0⟩, ⟨13, 0, .rw, 0⟩]⟩,
  ⟨0x3418, 16, 0x20, 1, 0x8000000, 4, [⟨17, 2, .rc, 0⟩, ⟨1, 1, .ro, 0⟩, ⟨0, 0, .ro, 0⟩]⟩,
  ⟨0x3600, 1, 0x8000000, 1, 0x8000000, 8, [⟨63, 0, .ro, 0⟩]⟩,
  ⟨0x3800, 32, 0x8, 1, 0x8000000, 8, [⟨63, 63, .rw, 0⟩, ⟨62, 62, .rw, 0⟩, ⟨61, 60, .rw, 0⟩, ⟨50, 32, .rw, 0⟩, ⟨17, 0, .rw, 0⟩]⟩]

/-- Registers of a tile block, by offset in the block (R21), part 3: GAB_STATUS (R170), CNT_GAB_RD_BYTES (R171), CNT_GAB_WR_BYTES (R171), CNT_GAB_ADD_BYTES (R171), SPAD_ARB_CTRL (R257), SPAD_PORT_ARB_CTRL (R257), SQ_CTRL (R205), SQ_STATUS (R206), SQ_FAULT (R207), SQ_PC (R208), SQ_RP (R208), SQ_SLATH_BASE (R208), SQ_LOOP_POS_n (R208), SQ_LOOP_CNT_n (R208), SQ_SREG_n (R208), CNT_SQ_ENTRIES (R209), CNT_SQ_SYNC (R209), CNT_SQ_QFULL (R209), CNT_SQ_FETCH (R209), CNT_SQ_DRAIN (R209). -/
def tileRegs3 : List RegSpec := [
  ⟨0x3900, 1, 0x8000000, 1, 0x8000000, 4, [⟨7, 3, .ro, 0⟩, ⟨2, 1, .ro, 0⟩, ⟨0, 0, .w1c, 0⟩]⟩,
  ⟨0x3908, 1, 0x8000000, 1, 0x8000000, 8, [⟨63, 0, .ro, 0⟩]⟩,
  ⟨0x3910, 1, 0x8000000, 1, 0x8000000, 8, [⟨63, 0, .ro, 0⟩]⟩,
  ⟨0x3918, 1, 0x8000000, 1, 0x8000000, 8, [⟨63, 0, .ro, 0⟩]⟩,
  ⟨0x3A00, 1, 0x8000000, 1, 0x8000000, 4, [⟨27, 20, .rw, 0⟩, ⟨19, 16, .rw, 0⟩, ⟨15, 0, .rw, 64⟩]⟩,
  ⟨0x3A04, 1, 0x8000000, 1, 0x8000000, 4, [⟨27, 20, .rw, 0⟩, ⟨19, 16, .rw, 0⟩, ⟨15, 0, .rw, 16⟩]⟩,
  ⟨0x4000, 1, 0x8000000, 1, 0x8000000, 4, [⟨4, 4, .wo, 0⟩, ⟨3, 3, .wo, 0⟩, ⟨2, 2, .wo, 0⟩, ⟨1, 1, .wo, 0⟩, ⟨0, 0, .wo, 0⟩]⟩,
  ⟨0x4004, 1, 0x8000000, 1, 0x8000000, 4, [⟨11, 11, .ro, 0⟩, ⟨10, 10, .ro, 0⟩, ⟨9, 7, .ro, 0⟩, ⟨6, 4, .ro, 0⟩, ⟨3, 0, .ro, 0⟩]⟩,
  ⟨0x4008, 1, 0x8000000, 1, 0x8000000, 4, [⟨28, 28, .w1c, 0⟩, ⟨27, 8, .ro, 0⟩, ⟨7, 0, .ro, 0⟩]⟩,
  ⟨0x400C, 1, 0x8000000, 1, 0x8000000, 4, [⟨19, 0, .rw, 0⟩]⟩,
  ⟨0x4010, 1, 0x8000000, 1, 0x8000000, 4, [⟨19, 0, .ro, 0⟩]⟩,
  ⟨0x4018, 1, 0x8000000, 1, 0x8000000, 8, [⟨47, 10, .rw, 0⟩]⟩,
  ⟨0x4020, 4, 0x10, 1, 0x8000000, 8, [⟨63, 63, .rw, 0⟩, ⟨62, 58, .rw, 0⟩, ⟨39, 20, .rw, 0⟩, ⟨19, 0, .rw, 0⟩]⟩,
  ⟨0x4028, 4, 0x10, 1, 0x8000000, 8, [⟨52, 32, .rw, 0⟩, ⟨20, 0, .rw, 0⟩]⟩,
  ⟨0x4100, 32, 0x8, 1, 0x8000000, 8, [⟨63, 0, .rw, 0⟩]⟩,
  ⟨0x4200, 1, 0x8000000, 1, 0x8000000, 8, [⟨63, 0, .ro, 0⟩]⟩,
  ⟨0x4208, 1, 0x8000000, 1, 0x8000000, 8, [⟨63, 0, .ro, 0⟩]⟩,
  ⟨0x4210, 1, 0x8000000, 1, 0x8000000, 8, [⟨63, 0, .ro, 0⟩]⟩,
  ⟨0x4218, 1, 0x8000000, 1, 0x8000000, 8, [⟨63, 0, .ro, 0⟩]⟩,
  ⟨0x4220, 1, 0x8000000, 1, 0x8000000, 8, [⟨63, 0, .ro, 0⟩]⟩]

/-- Registers of a tile block, by offset in the block (R21), part 4: CNT_SQ_REWIND (R209), CNT_SQ_REFETCH (R209), TILE_WQ_STATUS_q (R242), TILE_SLIP_LIMIT (R245), TILE_SLIP_STATUS (R246), CNT_SLIP_e (R247), CNT_STALL_e_k (R562), CNT_TILE_ACLK (R560), CNT_SE_BUSY (R560), TILE_WQ_HANDLE_q_i (R243), TILE_PAT_p_w (R244). -/
def tileRegs4 : List RegSpec := [
  ⟨0x4228, 1, 0x8000000, 1, 0x8000000, 8, [⟨63, 0, .ro, 0⟩]⟩,
  ⟨0x4230, 1, 0x8000000, 1, 0x8000000, 8, [⟨63, 0, .ro, 0⟩]⟩,
  ⟨0x4800, 16, 0x4, 1, 0x8000000, 4, [⟨19, 14, .ro, 0⟩, ⟨13, 8, .ro, 0⟩, ⟨4, 0, .ro, 0⟩]⟩,
  ⟨0x4900, 1, 0x8000000, 1, 0x8000000, 4, [⟨31, 0, .rw, 16777216⟩]⟩,
  ⟨0x4904, 1, 0x8000000, 1, 0x8000000, 4, [⟨27, 8, .ro, 0⟩, ⟨7, 5, .ro, 0⟩, ⟨4, 2, .ro, 0⟩, ⟨0, 0, .w1c, 0⟩]⟩,
  ⟨0x4980, 6, 0x8, 1, 0x8000000, 8, [⟨63, 0, .ro, 0⟩]⟩,
  ⟨0x4A00, 6, 0x40, 8, 0x8, 8, [⟨63, 0, .ro, 0⟩]⟩,
  ⟨0x4C00, 1, 0x8000000, 1, 0x8000000, 8, [⟨63, 0, .ro, 0⟩]⟩,
  ⟨0x4C08, 1, 0x8000000, 1, 0x8000000, 8, [⟨63, 0, .ro, 0⟩]⟩,
  ⟨0x5000, 16, 0x100, 32, 0x8, 8, [⟨63, 0, .rw, 0⟩]⟩,
  ⟨0x6000, 128, 0x40, 8, 0x8, 8, [⟨63, 21, .rw, 0⟩, ⟨20, 0, .rw, 1⟩]⟩]

/-- Registers of a tile block, by offset in the block (R21). -/
def tileRegs : List RegSpec := tileRegs1 ++ tileRegs2 ++ tileRegs3 ++ tileRegs4

/-- Registers of the hub blocks, by BAR0 offset, part 1: HIF_ID (R471), HIF_STATUS (R471), HIF_RING_BASE (R472), HIF_RING_CTRL (R472), HIF_RING_HEAD (R472), HIF_RING_TAIL (R472), HIF_PEND (R472), CNT_HIF_PACKETS (R473), CNT_HIF_REPLIES (R473), CNT_HIF_EVENTS (R473), CNT_HIF_BAD_WRITE (R473), CNT_HIF_BAD_ACCESS (R473), CNT_HIF_EVENT_LOST (R473), CNT_HIF_CREDIT_HOLD (R473), MP_PART_STATUS_p (R490), MP_PART_SLICE_p (R490), CNT_PART_PREEMPT_p (R491), CNT_PART_SAVE_HCLK_p (R491), SYNC_ARB_PRIO_q (R257), SYNC_ARB_CTRL_q (R257). -/
def hubRegs1 : List RegSpec := [
  ⟨0x0, 1, 0x8000000, 1, 0x8000000, 4, [⟨23, 16, .ro, 66⟩, ⟨7, 0, .ro, 0⟩]⟩,
  ⟨0x4, 1, 0x8000000, 1, 0x8000000, 4, [⟨28, 18, .ro, 0⟩, ⟨8, 8, .w1c, 0⟩, ⟨7, 7, .w1c, 0⟩, ⟨6, 6, .ro, 0⟩, ⟨2, 0, .ro, 0⟩]⟩,
  ⟨0x8, 1, 0x8000000, 1, 0x8000000, 8, [⟨63, 12, .ro, 0⟩]⟩,
  ⟨0x10, 1, 0x8000000, 1, 0x8000000, 4, [⟨31, 16, .ro, 0⟩, ⟨15, 8, .ro, 0⟩, ⟨7, 7, .ro, 0⟩, ⟨4, 0, .ro, 0⟩]⟩,
  ⟨0x18, 1, 0x8000000, 1, 0x8000000, 4, [⟨31, 0, .rw, 0⟩]⟩,
  ⟨0x1C, 1, 0x8000000, 1, 0x8000000, 4, [⟨31, 0, .ro, 0⟩]⟩,
  ⟨0x20, 1, 0x8000000, 1, 0x8000000, 4, [⟨24, 16, .ro, 0⟩, ⟨10, 0, .ro, 0⟩]⟩,
  ⟨0x100, 1, 0x8000000, 1, 0x8000000, 8, [⟨63, 0, .ro, 0⟩]⟩,
  ⟨0x108, 1, 0x8000000, 1, 0x8000000, 8, [⟨63, 0, .ro, 0⟩]⟩,
  ⟨0x110, 1, 0x8000000, 1, 0x8000000, 8, [⟨63, 0, .ro, 0⟩]⟩,
  ⟨0x118, 1, 0x8000000, 1, 0x8000000, 8, [⟨63, 0, .ro, 0⟩]⟩,
  ⟨0x120, 1, 0x8000000, 1, 0x8000000, 8, [⟨63, 0, .ro, 0⟩]⟩,
  ⟨0x128, 1, 0x8000000, 1, 0x8000000, 8, [⟨63, 0, .ro, 0⟩]⟩,
  ⟨0x130, 1, 0x8000000, 1, 0x8000000, 8, [⟨63, 0, .ro, 0⟩]⟩,
  ⟨0x100000, 16, 0x40, 1, 0x8000000, 4, [⟨31, 31, .ro, 0⟩, ⟨30, 30, .ro, 0⟩, ⟨29, 29, .ro, 0⟩, ⟨19, 16, .ro, 0⟩, ⟨15, 0, .ro, 0⟩]⟩,
  ⟨0x100004, 16, 0x40, 1, 0x8000000, 4, [⟨31, 0, .rw, 0⟩]⟩,
  ⟨0x100008, 16, 0x40, 1, 0x8000000, 8, [⟨63, 0, .ro, 0⟩]⟩,
  ⟨0x100010, 16, 0x40, 1, 0x8000000, 8, [⟨63, 0, .ro, 0⟩]⟩,
  ⟨0x110100, 4, 0x10, 1, 0x8000000, 4, [⟨31, 0, .rw, 0⟩]⟩,
  ⟨0x110104, 4, 0x10, 1, 0x8000000, 4, [⟨27, 20, .rw, 0⟩, ⟨19, 16, .rw, 0⟩, ⟨15, 0, .rw, 32⟩]⟩]

/-- Registers of the hub blocks, by BAR0 offset, part 2: SEC_STATUS (R551), SEC_BOOT_STATUS (R551), SEC_AUTH_p (R551), SEC_MEAS_n_w (R552), CNT_SEC_OTP_REPAIR (R553), CNT_SEC_AUTH_FAIL (R553), CNT_SEC_UNLOCK_FAIL (R553), CNT_SEC_QUOTES (R553), CLK_STATUS (R523), CLK_THROTTLE (R523), PWR_CTRL (R524), PWR_TOL (R524), PWR_STATUS (R524), PWR_DOZE_BASE (R524), PWR_DIP_STATUS (R524), RST_CAUSE (R525), RST_GROUP (R525), RST_PORT (R525), RST_STICKY_n (R525), CNT_PWR_DIP (R526). -/
def hubRegs2 : List RegSpec := [
  ⟨0x120000, 1, 0x8000000, 1, 0x8000000, 4, [⟨31, 24, .ro, 0⟩, ⟨19, 18, .ro, 0⟩, ⟨17, 11, .ro, 0⟩, ⟨10, 7, .ro, 0⟩, ⟨6, 6, .ro, 0⟩]⟩,
  ⟨0x120004, 1, 0x8000000, 1, 0x8000000, 4, [⟨31, 24, .ro, 0⟩, ⟨19, 16, .ro, 0⟩, ⟨15, 0, .ro, 0⟩]⟩,
  ⟨0x120100, 16, 0x4, 1, 0x8000000, 4, [⟨15, 8, .ro, 0⟩, ⟨7, 0, .ro, 0⟩]⟩,
  ⟨0x120200, 4, 0x40, 8, 0x8, 8, [⟨63, 0, .ro, 0⟩]⟩,
  ⟨0x120400, 1, 0x8000000, 1, 0x8000000, 8, [⟨63, 0, .ro, 0⟩]⟩,
  ⟨0x120408, 1, 0x8000000, 1, 0x8000000, 8, [⟨63, 0, .ro, 0⟩]⟩,
  ⟨0x120410, 1, 0x8000000, 1, 0x8000000, 8, [⟨63, 0, .ro, 0⟩]⟩,
  ⟨0x120418, 1, 0x8000000, 1, 0x8000000, 8, [⟨63, 0, .ro, 0⟩]⟩,
  ⟨0x130000, 1, 0x8000000, 1, 0x8000000, 4, [⟨31, 31, .ro, 0⟩, ⟨26, 26, .ro, 0⟩, ⟨25, 25, .ro, 0⟩, ⟨24, 24, .ro, 0⟩, ⟨14, 8, .ro, 64⟩, ⟨6, 0, .ro, 64⟩]⟩,
  ⟨0x130004, 1, 0x8000000, 1, 0x8000000, 4, [⟨22, 16, .rw, 48⟩, ⟨14, 8, .rw, 32⟩, ⟨6, 0, .rw, 64⟩]⟩,
  ⟨0x130010, 1, 0x8000000, 1, 0x8000000, 4, [⟨15, 0, .rw, 100⟩]⟩,
  ⟨0x130014, 1, 0x8000000, 1, 0x8000000, 4, [⟨31, 0, .ro, 0⟩]⟩,
  ⟨0x130018, 1, 0x8000000, 1, 0x8000000, 4, [⟨15, 12, .ro, 0⟩, ⟨11, 11, .ro, 0⟩, ⟨10, 8, .ro, 0⟩, ⟨2, 0, .ro, 0⟩]⟩,
  ⟨0x130020, 1, 0x8000000, 1, 0x8000000, 8, [⟨41, 32, .rw, 0⟩, ⟨0, 0, .rw, 0⟩]⟩,
  ⟨0x130028, 1, 0x8000000, 1, 0x8000000, 4, [⟨2, 2, .ro, 0⟩, ⟨1, 1, .ro, 0⟩, ⟨0, 0, .ro, 0⟩]⟩,
  ⟨0x130030, 1, 0x8000000, 1, 0x8000000, 4, [⟨7, 0, .ro, 0⟩]⟩,
  ⟨0x130034, 1, 0x8000000, 1, 0x8000000, 4, [⟨15, 0, .wo, 0⟩]⟩,
  ⟨0x130038, 1, 0x8000000, 1, 0x8000000, 4, [⟨15, 0, .wo, 0⟩]⟩,
  ⟨0x130100, 16, 0x8, 1, 0x8000000, 8, [⟨63, 63, .w1c, 0⟩, ⟨55, 48, .ro, 0⟩, ⟨47, 0, .ro, 0⟩]⟩,
  ⟨0x130200, 1, 0x8000000, 1, 0x8000000, 8, [⟨63, 0, .ro, 0⟩]⟩]

/-- Registers of the hub blocks, by BAR0 offset, part 3: CNT_CLK_THROTTLE (R526), CNT_PWR_WAKE (R526), CNT_PWR_OFF_ACCESS (R526), CNT_PWR_STATE_n (R526), MAC_RAMP_CTRL (R96), MAC_RAMP_STATUS (R97), SE_XLATE_BASE_p (R295), SE_XLATE_INV (R295), L2C_SLOT_CAP_q (R296), L2C_PIN_CTRL (R296), L2C_PIN_RELEASE (R296), CNT_CAP_WAIT_q (R297), L2C_ARB_PRIO_q (R257), L2C_ARB_CTRL_q (R257), CNT_L2_HIT_BYTES_s (R297), CNT_L2_MISS_BYTES_s (R297), CNT_L2_WB_BYTES_s (R297), CNT_L2_PF_s (R297), DDR_CH_ERASE_c (R339), CNT_DDR_CORR_c (R342). -/
def hubRegs3 : List RegSpec := [
  ⟨0x130208, 1, 0x8000000, 1, 0x8000000, 8, [⟨63, 0, .ro, 0⟩]⟩,
  ⟨0x130210, 1, 0x8000000, 1, 0x8000000, 8, [⟨63, 0, .ro, 0⟩]⟩,
  ⟨0x130218, 1, 0x8000000, 1, 0x8000000, 8, [⟨63, 0, .ro, 0⟩]⟩,
  ⟨0x130220, 4, 0x8, 1, 0x8000000, 8, [⟨63, 0, .ro, 0⟩]⟩,
  ⟨0x140000, 1, 0x8000000, 1, 0x8000000, 4, [⟨31, 16, .rw, 64⟩, ⟨15, 8, .rw, 64⟩, ⟨0, 0, .rw, 1⟩]⟩,
  ⟨0x140004, 1, 0x8000000, 1, 0x8000000, 4, [⟨31, 16, .ro, 0⟩, ⟨15, 0, .ro, 0⟩]⟩,
  ⟨0x150000, 16, 0x8, 1, 0x8000000, 8, [⟨41, 21, .rw, 0⟩, ⟨0, 0, .rw, 0⟩]⟩,
  ⟨0x150080, 1, 0x8000000, 1, 0x8000000, 4, [⟨31, 31, .ro, 0⟩, ⟨4, 4, .wo, 0⟩, ⟨3, 0, .wo, 0⟩]⟩,
  ⟨0x160000, 4, 0x10, 1, 0x8000000, 4, [⟨31, 16, .rw, 16384⟩, ⟨7, 0, .rw, 32⟩]⟩,
  ⟨0x160040, 1, 0x8000000, 1, 0x8000000, 4, [⟨4, 0, .rw, 12⟩]⟩,
  ⟨0x160044, 1, 0x8000000, 1, 0x8000000, 4, [⟨16, 16, .ro, 0⟩, ⟨15, 0, .wo, 0⟩]⟩,
  ⟨0x160048, 4, 0x8, 1, 0x8000000, 8, [⟨63, 0, .ro, 0⟩]⟩,
  ⟨0x160100, 4, 0x10, 1, 0x8000000, 8, [⟨63, 0, .rw, 0⟩]⟩,
  ⟨0x160108, 4, 0x10, 1, 0x8000000, 4, [⟨27, 20, .rw, 16⟩, ⟨19, 16, .rw, 1⟩, ⟨15, 0, .rw, 256⟩]⟩,
  ⟨0x160200, 16, 0x20, 1, 0x8000000, 8, [⟨63, 0, .ro, 0⟩]⟩,
  ⟨0x160208, 16, 0x20, 1, 0x8000000, 8, [⟨63, 0, .ro, 0⟩]⟩,
  ⟨0x160210, 16, 0x20, 1, 0x8000000, 8, [⟨63, 0, .ro, 0⟩]⟩,
  ⟨0x160218, 16, 0x20, 1, 0x8000000, 8, [⟨63, 0, .ro, 0⟩]⟩,
  ⟨0x170000, 16, 0x800, 1, 0x8000000, 4, [⟨13, 13, .rw, 0⟩, ⟨12, 8, .rw, 0⟩, ⟨5, 5, .rw, 0⟩, ⟨4, 0, .rw, 0⟩]⟩,
  ⟨0x170100, 16, 0x800, 1, 0x8000000, 8, [⟨63, 0, .ro, 0⟩]⟩]

/-- Registers of the hub blocks, by BAR0 offset, part 4: CNT_DDR_UNCORR_c (R342), CNT_DDR_POISON_c (R342), CNT_DDR_CAPAR_c (R342), CNT_DDR_RD_BYTES_c (R342), CNT_DDR_WR_BYTES_c (R342), DDR_CFG (R338), DDR_CTRL (R338), DDR_STATUS (R338), DDR_SCRUB_CTRL (R339), DDR_ERR_LOG (R340), CNT_DDR_ERR_LOST (R340), DDR_RETIRE_CTRL (R341), DDR_INIT_PTR_c (R339), DDR_REMAP_n (R341), LNK_EGR_PRIO_p (R257), LNK_EGR_ARB_CTRL_p (R257), LNK_CFG_p (R374), LNK_CTRL_p (R375), LNK_STATUS_p (R376), LNK_TIMER_p (R376). -/
def hubRegs4 : List RegSpec := [
  ⟨0x170108, 16, 0x800, 1, 0x8000000, 8, [⟨63, 0, .ro, 0⟩]⟩,
  ⟨0x170110, 16, 0x800, 1, 0x8000000, 8, [⟨63, 0, .ro, 0⟩]⟩,
  ⟨0x170118, 16, 0x800, 1, 0x8000000, 8, [⟨63, 0, .ro, 0⟩]⟩,
  ⟨0x170120, 16, 0x800, 1, 0x8000000, 8, [⟨63, 0, .ro, 0⟩]⟩,
  ⟨0x170128, 16, 0x800, 1, 0x8000000, 8, [⟨63, 0, .ro, 0⟩]⟩,
  ⟨0x178000, 1, 0x8000000, 1, 0x8000000, 4, [⟨1, 1, .rw, 0⟩, ⟨0, 0, .rw, 1⟩]⟩,
  ⟨0x178004, 1, 0x8000000, 1, 0x8000000, 4, [⟨0, 0, .wo, 0⟩]⟩,
  ⟨0x178008, 1, 0x8000000, 1, 0x8000000, 4, [⟨31, 16, .ro, 0⟩, ⟨7, 7, .ro, 0⟩, ⟨6, 6, .ro, 0⟩, ⟨5, 4, .ro, 0⟩, ⟨3, 2, .ro, 0⟩, ⟨1, 0, .ro, 0⟩]⟩,
  ⟨0x17800C, 1, 0x8000000, 1, 0x8000000, 4, [⟨15, 8, .rw, 24⟩, ⟨0, 0, .rw, 1⟩]⟩,
  ⟨0x178018, 1, 0x8000000, 1, 0x8000000, 8, [⟨63, 63, .rc, 0⟩, ⟨62, 61, .rc, 0⟩, ⟨60, 60, .rc, 0⟩, ⟨59, 56, .rc, 0⟩, ⟨55, 51, .rc, 0⟩, ⟨50, 50, .rc, 0⟩, ⟨41, 0, .rc, 0⟩]⟩,
  ⟨0x178020, 1, 0x8000000, 1, 0x8000000, 8, [⟨63, 0, .ro, 0⟩]⟩,
  ⟨0x178028, 1, 0x8000000, 1, 0x8000000, 4, [⟨31, 31, .ro, 0⟩, ⟨9, 9, .wo, 0⟩, ⟨8, 0, .rw, 0⟩]⟩,
  ⟨0x178100, 16, 0x8, 1, 0x8000000, 8, [⟨63, 0, .ro, 0⟩]⟩,
  ⟨0x179000, 512, 0x8, 1, 0x8000000, 8, [⟨63, 63, .ro, 0⟩, ⟨62, 42, .rw, 0⟩, ⟨41, 21, .rw, 0⟩]⟩,
  ⟨0x180200, 16, 0x10, 1, 0x8000000, 4, [⟨31, 0, .rw, 122758723⟩]⟩,
  ⟨0x180204, 16, 0x10, 1, 0x8000000, 4, [⟨27, 20, .rw, 8⟩, ⟨19, 16, .rw, 1⟩, ⟨15, 0, .rw, 1024⟩]⟩,
  ⟨0x181000, 16, 0x400, 1, 0x8000000, 4, [⟨23, 16, .rw, 64⟩, ⟨12, 12, .rw, 0⟩, ⟨11, 10, .rw, 0⟩, ⟨9, 9, .rw, 1⟩, ⟨8, 8, .rw, 1⟩, ⟨0, 0, .rw, 0⟩]⟩,
  ⟨0x181004, 16, 0x400, 1, 0x8000000, 4, [⟨4, 4, .wo, 0⟩, ⟨3, 3, .wo, 0⟩, ⟨2, 2, .wo, 0⟩, ⟨1, 1, .wo, 0⟩, ⟨0, 0, .wo, 0⟩]⟩,
  ⟨0x181008, 16, 0x400, 1, 0x8000000, 4, [⟨11, 8, .ro, 0⟩, ⟨7, 6, .ro, 0⟩, ⟨5, 4, .ro, 0⟩, ⟨3, 3, .ro, 0⟩, ⟨2, 2, .ro, 0⟩, ⟨0, 0, .w1c, 0⟩]⟩,
  ⟨0x18100C, 16, 0x400, 1, 0x8000000, 4, [⟨31, 16, .rw, 300⟩, ⟨15, 0, .rw, 2400⟩]⟩]

/-- Registers of the hub blocks, by BAR0 offset, part 5: LNK_RTT_p (R376), LNK_LANE_FAIL_p (R376), LNK_LANES_p (R377), LNK_RX_VC_p_v (R377), LNK_TX_CREDIT_p_v (R377), LNK_TX_SHARED_p (R377), CNT_LNK_TX_BYTES_p (R378), CNT_LNK_RX_BYTES_p (R378), CNT_LNK_FEC_CORR_p (R378), CNT_LNK_FEC_UNCORR_p (R378), CNT_LNK_CRC_p (R378), CNT_LNK_REPLAY_p (R378), CNT_LNK_RETRAIN_p (R378), CNT_LNK_DISCARD_p (R378), CNT_LNK_PROTO_p (R378), CNT_LNK_LANE_SYM_p_l (R378), CNT_LNK_VC_WAIT_p_v (R378), FAB_ID (R419), FAB_CFG (R419), FAB_STATUS (R419). -/
def hubRegs5 : List RegSpec := [
  ⟨0x181010, 16, 0x400, 1, 0x8000000, 4, [⟨31, 0, .ro, 0⟩]⟩,
  ⟨0x181014, 16, 0x400, 1, 0x8000000, 4, [⟨24, 16, .ro, 0⟩, ⟨8, 0, .ro, 0⟩]⟩,
  ⟨0x181018, 16, 0x400, 1, 0x8000000, 8, [⟨63, 32, .ro, 1985229328⟩, ⟨31, 0, .ro, 1985229328⟩]⟩,
  ⟨0x181040, 16, 0x400, 8, 0x4, 4, [⟨28, 16, .rw, 0⟩, ⟨12, 0, .rw, 0⟩]⟩,
  ⟨0x181060, 16, 0x400, 8, 0x4, 4, [⟨12, 0, .ro, 0⟩]⟩,
  ⟨0x181080, 16, 0x400, 1, 0x8000000, 4, [⟨12, 0, .ro, 0⟩]⟩,
  ⟨0x181100, 16, 0x400, 1, 0x8000000, 8, [⟨63, 0, .ro, 0⟩]⟩,
  ⟨0x181108, 16, 0x400, 1, 0x8000000, 8, [⟨63, 0, .ro, 0⟩]⟩,
  ⟨0x181110, 16, 0x400, 1, 0x8000000, 8, [⟨63, 0, .ro, 0⟩]⟩,
  ⟨0x181118, 16, 0x400, 1, 0x8000000, 8, [⟨63, 0, .ro, 0⟩]⟩,
  ⟨0x181120, 16, 0x400, 1, 0x8000000, 8, [⟨63, 0, .ro, 0⟩]⟩,
  ⟨0x181128, 16, 0x400, 1, 0x8000000, 8, [⟨63, 0, .ro, 0⟩]⟩,
  ⟨0x181130, 16, 0x400, 1, 0x8000000, 8, [⟨63, 0, .ro, 0⟩]⟩,
  ⟨0x181138, 16, 0x400, 1, 0x8000000, 8, [⟨63, 0, .ro, 0⟩]⟩,
  ⟨0x181140, 16, 0x400, 1, 0x8000000, 8, [⟨63, 0, .ro, 0⟩]⟩,
  ⟨0x181180, 16, 0x400, 9, 0x8, 8, [⟨63, 0, .ro, 0⟩]⟩,
  ⟨0x181200, 16, 0x400, 8, 0x8, 8, [⟨63, 0, .ro, 0⟩]⟩,
  ⟨0x190000, 1, 0x8000000, 1, 0x8000000, 4, [⟨31, 31, .rw, 0⟩, ⟨15, 0, .rw, 0⟩]⟩,
  ⟨0x190004, 1, 0x8000000, 1, 0x8000000, 4, [⟨31, 24, .rw, 10⟩, ⟨23, 20, .rw, 3⟩, ⟨19, 16, .rw, 4⟩, ⟨15, 0, .rw, 100⟩]⟩,
  ⟨0x190008, 1, 0x8000000, 1, 0x8000000, 4, [⟨31, 31, .ro, 0⟩, ⟨30, 28, .ro, 0⟩, ⟨27, 27, .ro, 0⟩, ⟨15, 0, .ro, 0⟩]⟩]

/-- Registers of the hub blocks, by BAR0 offset, part 6: FAB_CTX_INUSE (R419), FAB_ROUTE_REGION_i (R420), FAB_ROUTE_LOCAL_i (R420), FAB_DDR_ACCEPT_n (R421), FAB_SYNC_ACCEPT_p (R421), FAB_MGMT_ACCEPT (R421), CNT_FAB_FWD_BYTES (R424), CNT_FAB_RETX (R424), CNT_FAB_TIMEOUT (R424), CNT_FAB_STALE (R424), CNT_FAB_BUSY (R424), CNT_FAB_HOPLIMIT (R424), CNT_FAB_NOROUTE (R424), CNT_FAB_CTX_WAIT (R424), CE_OP_BASE_p (R422), CE_OP_COUNT_p (R422), CE_STATUS (R422), CNT_CE_BYTES (R424), CNT_CE_RUNS (R424), CE_GROUP_g_0 (R422). -/
def hubRegs6 : List RegSpec := [
  ⟨0x19000C, 1, 0x8000000, 1, 0x8000000, 4, [⟨13, 0, .ro, 0⟩]⟩,
  ⟨0x191000, 256, 0x4, 1, 0x8000000, 4, [⟨21, 20, .rw, 0⟩, ⟨19, 0, .rw, 0⟩]⟩,
  ⟨0x191400, 256, 0x4, 1, 0x8000000, 4, [⟨21, 20, .rw, 0⟩, ⟨19, 0, .rw, 0⟩]⟩,
  ⟨0x192000, 16, 0x8, 1, 0x8000000, 8, [⟨63, 48, .rw, 0⟩, ⟨47, 32, .rw, 0⟩, ⟨31, 31, .rw, 0⟩, ⟨30, 30, .rw, 0⟩, ⟨23, 12, .rw, 0⟩, ⟨11, 0, .rw, 0⟩]⟩,
  ⟨0x192100, 16, 0x8, 1, 0x8000000, 8, [⟨63, 48, .rw, 0⟩, ⟨47, 32, .rw, 0⟩, ⟨31, 31, .rw, 0⟩]⟩,
  ⟨0x192180, 1, 0x8000000, 1, 0x8000000, 8, [⟨63, 48, .rw, 0⟩, ⟨47, 32, .rw, 0⟩, ⟨31, 31, .rw, 0⟩]⟩,
  ⟨0x193000, 1, 0x8000000, 1, 0x8000000, 8, [⟨63, 0, .ro, 0⟩]⟩,
  ⟨0x193008, 1, 0x8000000, 1, 0x8000000, 8, [⟨63, 0, .ro, 0⟩]⟩,
  ⟨0x193010, 1, 0x8000000, 1, 0x8000000, 8, [⟨63, 0, .ro, 0⟩]⟩,
  ⟨0x193018, 1, 0x8000000, 1, 0x8000000, 8, [⟨63, 0, .ro, 0⟩]⟩,
  ⟨0x193020, 1, 0x8000000, 1, 0x8000000, 8, [⟨63, 0, .ro, 0⟩]⟩,
  ⟨0x193028, 1, 0x8000000, 1, 0x8000000, 8, [⟨63, 0, .ro, 0⟩]⟩,
  ⟨0x193030, 1, 0x8000000, 1, 0x8000000, 8, [⟨63, 0, .ro, 0⟩]⟩,
  ⟨0x193038, 1, 0x8000000, 1, 0x8000000, 8, [⟨63, 0, .ro, 0⟩]⟩,
  ⟨0x1A0000, 16, 0x10, 1, 0x8000000, 8, [⟨47, 6, .rw, 0⟩]⟩,
  ⟨0x1A0008, 16, 0x10, 1, 0x8000000, 4, [⟨10, 0, .rw, 0⟩]⟩,
  ⟨0x1A0100, 1, 0x8000000, 1, 0x8000000, 4, [⟨31, 31, .w1c, 0⟩, ⟨30, 27, .ro, 0⟩, ⟨26, 16, .ro, 0⟩, ⟨15, 8, .ro, 0⟩]⟩,
  ⟨0x1A0108, 1, 0x8000000, 1, 0x8000000, 8, [⟨63, 0, .ro, 0⟩]⟩,
  ⟨0x1A0110, 1, 0x8000000, 1, 0x8000000, 8, [⟨63, 0, .ro, 0⟩]⟩,
  ⟨0x1A8000, 1024, 0x20, 1, 0x8000000, 8, [⟨63, 63, .rw, 0⟩, ⟨62, 61, .rw, 0⟩, ⟨60, 45, .rw, 0⟩, ⟨44, 29, .rw, 0⟩]⟩]

/-- Registers of the hub blocks, by BAR0 offset, part 7: CE_GROUP_g_1 (R422), CE_GROUP_g_2 (R422), CE_GROUP_g_3 (R422), HOOP_NOW (R423), HOOP_CTRL (R423), HOOP_STATUS (R423), MP_WALE_CFG_p (R446), MP_WALE_STATUS_p (R446), MP_WALE_OBJ_p (R446), MP_WALE_AREA_p (R446), MP_WALE_BUDDY_p (R446), MP_WALE_STEP_p (R447), MP_WALE_LOCAL_p (R447), MP_WALE_MIRROR_p (R447), CNT_WALE_STALL_p (R447), CNT_WALE_COPY_BYTES_p (R447), CNT_WALE_MIRROR_BYTES_p (R447), CNT_CLEAR (R586), CNT_EPOCH_PORT_k (R586), CNT_EPOCH_CH_k (R586). -/
def hubRegs7 : List RegSpec := [
  ⟨0x1A8008, 1024, 0x20, 1, 0x8000000, 8, [⟨63, 32, .rw, 0⟩, ⟨31, 16, .rw, 0⟩, ⟨15, 0, .rw, 0⟩]⟩,
  ⟨0x1A8010, 1024, 0x20, 1, 0x8000000, 8, [⟨63, 48, .rw, 0⟩, ⟨47, 32, .rw, 0⟩, ⟨31, 16, .rw, 0⟩, ⟨1, 0, .rw, 0⟩]⟩,
  ⟨0x1A8018, 1024, 0x20, 1, 0x8000000, 8, []⟩,
  ⟨0x1B0000, 1, 0x8000000, 1, 0x8000000, 8, [⟨63, 0, .ro, 0⟩]⟩,
  ⟨0x1B0008, 1, 0x8000000, 1, 0x8000000, 4, [⟨31, 16, .rw, 100⟩, ⟨9, 9, .rw, 0⟩, ⟨8, 8, .rw, 0⟩, ⟨7, 4, .rw, 0⟩, ⟨3, 0, .rw, 0⟩]⟩,
  ⟨0x1B000C, 1, 0x8000000, 1, 0x8000000, 4, [⟨31, 31, .ro, 0⟩, ⟨30, 30, .ro, 0⟩, ⟨29, 29, .ro, 0⟩, ⟨28, 22, .ro, 0⟩, ⟨15, 0, .ro, 0⟩]⟩,
  ⟨0x1C0000, 16, 0x100, 1, 0x8000000, 4, [⟨31, 16, .rw, 0⟩, ⟨15, 8, .rw, 25⟩, ⟨0, 0, .rw, 0⟩]⟩,
  ⟨0x1C0004, 16, 0x100, 1, 0x8000000, 4, [⟨31, 30, .ro, 0⟩, ⟨29, 29, .w1c, 0⟩, ⟨28, 28, .ro, 0⟩, ⟨27, 0, .ro, 0⟩]⟩,
  ⟨0x1C0008, 16, 0x100, 1, 0x8000000, 8, [⟨61, 48, .rw, 0⟩, ⟨45, 32, .rw, 0⟩, ⟨29, 16, .rw, 0⟩, ⟨13, 0, .rw, 0⟩]⟩,
  ⟨0x1C0010, 16, 0x100, 1, 0x8000000, 8, [⟨41, 21, .rw, 0⟩]⟩,
  ⟨0x1C0018, 16, 0x100, 1, 0x8000000, 8, [⟨63, 48, .rw, 0⟩, ⟨41, 21, .rw, 0⟩, ⟨0, 0, .rw, 0⟩]⟩,
  ⟨0x1C0020, 16, 0x100, 1, 0x8000000, 8, [⟨63, 0, .ro, 0⟩]⟩,
  ⟨0x1C0028, 16, 0x100, 1, 0x8000000, 8, [⟨63, 0, .ro, 0⟩]⟩,
  ⟨0x1C0030, 16, 0x100, 1, 0x8000000, 8, [⟨63, 0, .ro, 0⟩]⟩,
  ⟨0x1C0040, 16, 0x100, 1, 0x8000000, 8, [⟨63, 0, .ro, 0⟩]⟩,
  ⟨0x1C0048, 16, 0x100, 1, 0x8000000, 8, [⟨63, 0, .ro, 0⟩]⟩,
  ⟨0x1C0050, 16, 0x100, 1, 0x8000000, 8, [⟨63, 0, .ro, 0⟩]⟩,
  ⟨0x1D0000, 1, 0x8000000, 1, 0x8000000, 4, [⟨31, 31, .ro, 0⟩, ⟨30, 30, .rw, 0⟩, ⟨29, 28, .rw, 0⟩, ⟨27, 18, .rw, 0⟩, ⟨17, 10, .rw, 0⟩, ⟨0, 0, .wo, 0⟩]⟩,
  ⟨0x1D0008, 2, 0x8, 1, 0x8000000, 8, [⟨63, 0, .ro, 0⟩]⟩,
  ⟨0x1D0018, 2, 0x8, 1, 0x8000000, 8, [⟨63, 0, .ro, 0⟩]⟩]

/-- Registers of the hub blocks, by BAR0 offset, part 8: CNT_EPOCH_HUB (R586), DBG_FREEZE_CTRL (R587), DBG_FREEZE_STATUS (R587), DBG_FREEZE_HOOP (R587), DBG_FREEZE_AT (R587), DBG_BREAK (R587), CNT_DBG_FREEZE (R587), CNT_DBG_FROZEN (R587). -/
def hubRegs8 : List RegSpec := [
  ⟨0x1D0028, 1, 0x8000000, 1, 0x8000000, 8, [⟨63, 0, .ro, 0⟩]⟩,
  ⟨0x1E0000, 1, 0x8000000, 1, 0x8000000, 4, [⟨7, 7, .rw, 0⟩, ⟨6, 6, .rw, 0⟩, ⟨5, 5, .rw, 0⟩, ⟨4, 4, .rw, 0⟩, ⟨3, 3, .rw, 0⟩, ⟨2, 2, .rw, 1⟩]⟩,
  ⟨0x1E0004, 1, 0x8000000, 1, 0x8000000, 4, [⟨12, 12, .w1c, 0⟩, ⟨11, 11, .w1c, 0⟩, ⟨10, 10, .ro, 0⟩, ⟨9, 9, .ro, 0⟩, ⟨8, 4, .ro, 0⟩, ⟨3, 0, .ro, 0⟩]⟩,
  ⟨0x1E0008, 1, 0x8000000, 1, 0x8000000, 8, [⟨63, 0, .ro, 0⟩]⟩,
  ⟨0x1E0010, 1, 0x8000000, 1, 0x8000000, 8, [⟨63, 0, .ro, 0⟩]⟩,
  ⟨0x1E0018, 1, 0x8000000, 1, 0x8000000, 8, [⟨63, 54, .rw, 0⟩, ⟨53, 34, .rw, 0⟩, ⟨33, 10, .rw, 1⟩]⟩,
  ⟨0x1E0100, 1, 0x8000000, 1, 0x8000000, 8, [⟨63, 0, .ro, 0⟩]⟩,
  ⟨0x1E0108, 1, 0x8000000, 1, 0x8000000, 8, [⟨63, 0, .ro, 0⟩]⟩]

/-- Registers of the hub blocks, by BAR0 offset. -/
def hubRegs : List RegSpec := hubRegs1 ++ hubRegs2 ++ hubRegs3 ++ hubRegs4 ++ hubRegs5 ++ hubRegs6 ++ hubRegs7 ++ hubRegs8

/-! Register addresses by name. -/

/-- Base of tile T's register block (R21). -/
def tileBase (t : Nat) : Nat := 0x2000000 + t * 0x8000

/-- Address of TILE_CNT_EPOCH (R586). -/
def aTileCntEpoch (t : Nat) : Nat := tileBase t + 0x0
/-- Address of TILE_CNT_CTRL (R586). -/
def aTileCntCtrl (t : Nat) : Nat := tileBase t + 0x8
/-- Address of MAC_STATUS_m (R94). -/
def aMacStatus (t i : Nat) : Nat := tileBase t + 0x1000 + 0x10 * i
/-- Address of MAC_BALLAST_CTRL (R95). -/
def aMacBallastCtrl (t : Nat) : Nat := tileBase t + 0x1100
/-- Address of CNT_MAC_USEFUL_m (R98). -/
def aCntMacUseful (t i : Nat) : Nat := tileBase t + 0x1200 + 0x20 * i
/-- Address of CNT_MAC_BALLAST_m (R98). -/
def aCntMacBallast (t i : Nat) : Nat := tileBase t + 0x1208 + 0x20 * i
/-- Address of CNT_MAC_HELD_m (R98). -/
def aCntMacHeld (t i : Nat) : Nat := tileBase t + 0x1210 + 0x20 * i
/-- Address of VE_STATUS (R132). -/
def aVeStatus (t : Nat) : Nat := tileBase t + 0x2000
/-- Address of VE_FP_STATUS (R67). -/
def aVeFpStatus (t : Nat) : Nat := tileBase t + 0x2040
/-- Address of VE_RNG_KEY_s (R133). -/
def aVeRngKey (t i : Nat) : Nat := tileBase t + 0x2100 + 0x20 * i
/-- Address of VE_RNG_CTR_LO_s (R133). -/
def aVeRngCtrLo (t i : Nat) : Nat := tileBase t + 0x2108 + 0x20 * i
/-- Address of VE_RNG_CTR_HI_s (R133). -/
def aVeRngCtrHi (t i : Nat) : Nat := tileBase t + 0x2110 + 0x20 * i
/-- Address of CNT_VE_ISSUE (R134). -/
def aCntVeIssue (t : Nat) : Nat := tileBase t + 0x2300
/-- Address of CNT_VE_HELD (R134). -/
def aCntVeHeld (t : Nat) : Nat := tileBase t + 0x2308
/-- Address of CNT_VE_BANK (R134). -/
def aCntVeBank (t : Nat) : Nat := tileBase t + 0x2310
/-- Address of SE_CTX_STATUS_c (R292). -/
def aSeCtxStatus (t i : Nat) : Nat := tileBase t + 0x2800 + 0x40 * i
/-- Address of SE_CTX_CTRL_c (R293). -/
def aSeCtxCtrl (t i : Nat) : Nat := tileBase t + 0x2804 + 0x40 * i
/-- Address of SE_CTX_STEP_c (R293). -/
def aSeCtxStep (t i : Nat) : Nat := tileBase t + 0x2808 + 0x40 * i
/-- Address of SE_CTX_FADDR_c (R293). -/
def aSeCtxFaddr (t i : Nat) : Nat := tileBase t + 0x2810 + 0x40 * i
/-- Address of SE_PF_CTRL (R294). -/
def aSePfCtrl (t : Nat) : Nat := tileBase t + 0x2A00
/-- Address of CNT_SE_RD_BYTES (R297). -/
def aCntSeRdBytes (t : Nat) : Nat := tileBase t + 0x2A08
/-- Address of CNT_SE_WR_BYTES (R297). -/
def aCntSeWrBytes (t : Nat) : Nat := tileBase t + 0x2A10
/-- Address of CNT_SE_FAR_WAIT (R297). -/
def aCntSeFarWait (t : Nat) : Nat := tileBase t + 0x2A18
/-- Address of CNT_SE_CAP_WAIT (R297). -/
def aCntSeCapWait (t : Nat) : Nat := tileBase t + 0x2A20
/-- Address of CNT_SE_POISON (R297). -/
def aCntSePoison (t : Nat) : Nat := tileBase t + 0x2A28
/-- Address of SPAD_BANK_OWNER (R167). -/
def aSpadBankOwner (t : Nat) : Nat := tileBase t + 0x3000
/-- Address of SPAD_ERR_STATUS (R168). -/
def aSpadErrStatus (t : Nat) : Nat := tileBase t + 0x3008
/-- Address of SPAD_ERR_ADDR (R168). -/
def aSpadErrAddr (t : Nat) : Nat := tileBase t + 0x3010
/-- Address of CNT_SPAD_CORR (R171). -/
def aCntSpadCorr (t : Nat) : Nat := tileBase t + 0x3100
/-- Address of CNT_SPAD_PARITY (R171). -/
def aCntSpadParity (t : Nat) : Nat := tileBase t + 0x3108
/-- Address of CNT_SPAD_UNCORR (R171). -/
def aCntSpadUncorr (t : Nat) : Nat := tileBase t + 0x3110
/-- Address of CNT_SPAD_CONFLICT (R171). -/
def aCntSpadConflict (t : Nat) : Nat := tileBase t + 0x3118
/-- Address of CNT_SPAD_RD_BYTES (R171). -/
def aCntSpadRdBytes (t : Nat) : Nat := tileBase t + 0x3120
/-- Address of CNT_SPAD_WR_BYTES (R171). -/
def aCntSpadWrBytes (t : Nat) : Nat := tileBase t + 0x3128
/-- Address of SPAD_WIN_RANGE_n (R155). -/
def aSpadWinRange (t i : Nat) : Nat := tileBase t + 0x3400 + 0x20 * i
/-- Address of SPAD_WIN_WRITERS_n (R156). -/
def aSpadWinWriters (t i : Nat) : Nat := tileBase t + 0x3408 + 0x20 * i
/-- Address of SPAD_WIN_CLOSE_n (R157). -/
def aSpadWinClose (t i : Nat) : Nat := tileBase t + 0x3410 + 0x20 * i
/-- Address of SPAD_WIN_STATUS_n (R158). -/
def aSpadWinStatus (t i : Nat) : Nat := tileBase t + 0x3418 + 0x20 * i
/-- Address of CNT_WIN_REFUSED (R171). -/
def aCntWinRefused (t : Nat) : Nat := tileBase t + 0x3600
/-- Address of GAB_REGION_n (R169). -/
def aGabRegion (t i : Nat) : Nat := tileBase t + 0x3800 + 0x8 * i
/-- Address of GAB_STATUS (R170). -/
def aGabStatus (t : Nat) : Nat := tileBase t + 0x3900
/-- Address of CNT_GAB_RD_BYTES (R171). -/
def aCntGabRdBytes (t : Nat) : Nat := tileBase t + 0x3908
/-- Address of CNT_GAB_WR_BYTES (R171). -/
def aCntGabWrBytes (t : Nat) : Nat := tileBase t + 0x3910
/-- Address of CNT_GAB_ADD_BYTES (R171). -/
def aCntGabAddBytes (t : Nat) : Nat := tileBase t + 0x3918
/-- Address of SPAD_ARB_CTRL (R257). -/
def aSpadArbCtrl (t : Nat) : Nat := tileBase t + 0x3A00
/-- Address of SPAD_PORT_ARB_CTRL (R257). -/
def aSpadPortArbCtrl (t : Nat) : Nat := tileBase t + 0x3A04
/-- Address of SQ_CTRL (R205). -/
def aSqCtrl (t : Nat) : Nat := tileBase t + 0x4000
/-- Address of SQ_STATUS (R206). -/
def aSqStatus (t : Nat) : Nat := tileBase t + 0x4004
/-- Address of SQ_FAULT (R207). -/
def aSqFault (t : Nat) : Nat := tileBase t + 0x4008
/-- Address of SQ_PC (R208). -/
def aSqPc (t : Nat) : Nat := tileBase t + 0x400C
/-- Address of SQ_RP (R208). -/
def aSqRp (t : Nat) : Nat := tileBase t + 0x4010
/-- Address of SQ_SLATH_BASE (R208). -/
def aSqSlathBase (t : Nat) : Nat := tileBase t + 0x4018
/-- Address of SQ_LOOP_POS_n (R208). -/
def aSqLoopPos (t i : Nat) : Nat := tileBase t + 0x4020 + 0x10 * i
/-- Address of SQ_LOOP_CNT_n (R208). -/
def aSqLoopCnt (t i : Nat) : Nat := tileBase t + 0x4028 + 0x10 * i
/-- Address of SQ_SREG_n (R208). -/
def aSqSreg (t i : Nat) : Nat := tileBase t + 0x4100 + 0x8 * i
/-- Address of CNT_SQ_ENTRIES (R209). -/
def aCntSqEntries (t : Nat) : Nat := tileBase t + 0x4200
/-- Address of CNT_SQ_SYNC (R209). -/
def aCntSqSync (t : Nat) : Nat := tileBase t + 0x4208
/-- Address of CNT_SQ_QFULL (R209). -/
def aCntSqQfull (t : Nat) : Nat := tileBase t + 0x4210
/-- Address of CNT_SQ_FETCH (R209). -/
def aCntSqFetch (t : Nat) : Nat := tileBase t + 0x4218
/-- Address of CNT_SQ_DRAIN (R209). -/
def aCntSqDrain (t : Nat) : Nat := tileBase t + 0x4220
/-- Address of CNT_SQ_REWIND (R209). -/
def aCntSqRewind (t : Nat) : Nat := tileBase t + 0x4228
/-- Address of CNT_SQ_REFETCH (R209). -/
def aCntSqRefetch (t : Nat) : Nat := tileBase t + 0x4230
/-- Address of TILE_WQ_STATUS_q (R242). -/
def aTileWqStatus (t i : Nat) : Nat := tileBase t + 0x4800 + 0x4 * i
/-- Address of TILE_SLIP_LIMIT (R245). -/
def aTileSlipLimit (t : Nat) : Nat := tileBase t + 0x4900
/-- Address of TILE_SLIP_STATUS (R246). -/
def aTileSlipStatus (t : Nat) : Nat := tileBase t + 0x4904
/-- Address of CNT_SLIP_e (R247). -/
def aCntSlip (t i : Nat) : Nat := tileBase t + 0x4980 + 0x8 * i
/-- Address of CNT_STALL_e_k (R562). -/
def aCntStall (t i j : Nat) : Nat := tileBase t + 0x4A00 + 0x40 * i + 0x8 * j
/-- Address of CNT_TILE_ACLK (R560). -/
def aCntTileAclk (t : Nat) : Nat := tileBase t + 0x4C00
/-- Address of CNT_SE_BUSY (R560). -/
def aCntSeBusy (t : Nat) : Nat := tileBase t + 0x4C08
/-- Address of TILE_WQ_HANDLE_q_i (R243). -/
def aTileWqHandle (t i j : Nat) : Nat := tileBase t + 0x5000 + 0x100 * i + 0x8 * j
/-- Address of TILE_PAT_p_w (R244). -/
def aTilePat (t i j : Nat) : Nat := tileBase t + 0x6000 + 0x40 * i + 0x8 * j
/-- Address of HIF_ID (R471). -/
def aHifId : Nat := 0x0
/-- Address of HIF_STATUS (R471). -/
def aHifStatus : Nat := 0x4
/-- Address of HIF_RING_BASE (R472). -/
def aHifRingBase : Nat := 0x8
/-- Address of HIF_RING_CTRL (R472). -/
def aHifRingCtrl : Nat := 0x10
/-- Address of HIF_RING_HEAD (R472). -/
def aHifRingHead : Nat := 0x18
/-- Address of HIF_RING_TAIL (R472). -/
def aHifRingTail : Nat := 0x1C
/-- Address of HIF_PEND (R472). -/
def aHifPend : Nat := 0x20
/-- Address of CNT_HIF_PACKETS (R473). -/
def aCntHifPackets : Nat := 0x100
/-- Address of CNT_HIF_REPLIES (R473). -/
def aCntHifReplies : Nat := 0x108
/-- Address of CNT_HIF_EVENTS (R473). -/
def aCntHifEvents : Nat := 0x110
/-- Address of CNT_HIF_BAD_WRITE (R473). -/
def aCntHifBadWrite : Nat := 0x118
/-- Address of CNT_HIF_BAD_ACCESS (R473). -/
def aCntHifBadAccess : Nat := 0x120
/-- Address of CNT_HIF_EVENT_LOST (R473). -/
def aCntHifEventLost : Nat := 0x128
/-- Address of CNT_HIF_CREDIT_HOLD (R473). -/
def aCntHifCreditHold : Nat := 0x130
/-- Address of MP_PART_STATUS_p (R490). -/
def aMpPartStatus (i : Nat) : Nat := 0x100000 + 0x40 * i
/-- Address of MP_PART_SLICE_p (R490). -/
def aMpPartSlice (i : Nat) : Nat := 0x100004 + 0x40 * i
/-- Address of CNT_PART_PREEMPT_p (R491). -/
def aCntPartPreempt (i : Nat) : Nat := 0x100008 + 0x40 * i
/-- Address of CNT_PART_SAVE_HCLK_p (R491). -/
def aCntPartSaveHclk (i : Nat) : Nat := 0x100010 + 0x40 * i
/-- Address of SYNC_ARB_PRIO_q (R257). -/
def aSyncArbPrio (i : Nat) : Nat := 0x110100 + 0x10 * i
/-- Address of SYNC_ARB_CTRL_q (R257). -/
def aSyncArbCtrl (i : Nat) : Nat := 0x110104 + 0x10 * i
/-- Address of SEC_STATUS (R551). -/
def aSecStatus : Nat := 0x120000
/-- Address of SEC_BOOT_STATUS (R551). -/
def aSecBootStatus : Nat := 0x120004
/-- Address of SEC_AUTH_p (R551). -/
def aSecAuth (i : Nat) : Nat := 0x120100 + 0x4 * i
/-- Address of SEC_MEAS_n_w (R552). -/
def aSecMeas (i j : Nat) : Nat := 0x120200 + 0x40 * i + 0x8 * j
/-- Address of CNT_SEC_OTP_REPAIR (R553). -/
def aCntSecOtpRepair : Nat := 0x120400
/-- Address of CNT_SEC_AUTH_FAIL (R553). -/
def aCntSecAuthFail : Nat := 0x120408
/-- Address of CNT_SEC_UNLOCK_FAIL (R553). -/
def aCntSecUnlockFail : Nat := 0x120410
/-- Address of CNT_SEC_QUOTES (R553). -/
def aCntSecQuotes : Nat := 0x120418
/-- Address of CLK_STATUS (R523). -/
def aClkStatus : Nat := 0x130000
/-- Address of CLK_THROTTLE (R523). -/
def aClkThrottle : Nat := 0x130004
/-- Address of PWR_CTRL (R524). -/
def aPwrCtrl : Nat := 0x130010
/-- Address of PWR_TOL (R524). -/
def aPwrTol : Nat := 0x130014
/-- Address of PWR_STATUS (R524). -/
def aPwrStatus : Nat := 0x130018
/-- Address of PWR_DOZE_BASE (R524). -/
def aPwrDozeBase : Nat := 0x130020
/-- Address of PWR_DIP_STATUS (R524). -/
def aPwrDipStatus : Nat := 0x130028
/-- Address of RST_CAUSE (R525). -/
def aRstCause : Nat := 0x130030
/-- Address of RST_GROUP (R525). -/
def aRstGroup : Nat := 0x130034
/-- Address of RST_PORT (R525). -/
def aRstPort : Nat := 0x130038
/-- Address of RST_STICKY_n (R525). -/
def aRstSticky (i : Nat) : Nat := 0x130100 + 0x8 * i
/-- Address of CNT_PWR_DIP (R526). -/
def aCntPwrDip : Nat := 0x130200
/-- Address of CNT_CLK_THROTTLE (R526). -/
def aCntClkThrottle : Nat := 0x130208
/-- Address of CNT_PWR_WAKE (R526). -/
def aCntPwrWake : Nat := 0x130210
/-- Address of CNT_PWR_OFF_ACCESS (R526). -/
def aCntPwrOffAccess : Nat := 0x130218
/-- Address of CNT_PWR_STATE_n (R526). -/
def aCntPwrState (i : Nat) : Nat := 0x130220 + 0x8 * i
/-- Address of MAC_RAMP_CTRL (R96). -/
def aMacRampCtrl : Nat := 0x140000
/-- Address of MAC_RAMP_STATUS (R97). -/
def aMacRampStatus : Nat := 0x140004
/-- Address of SE_XLATE_BASE_p (R295). -/
def aSeXlateBase (i : Nat) : Nat := 0x150000 + 0x8 * i
/-- Address of SE_XLATE_INV (R295). -/
def aSeXlateInv : Nat := 0x150080
/-- Address of L2C_SLOT_CAP_q (R296). -/
def aL2cSlotCap (i : Nat) : Nat := 0x160000 + 0x10 * i
/-- Address of L2C_PIN_CTRL (R296). -/
def aL2cPinCtrl : Nat := 0x160040
/-- Address of L2C_PIN_RELEASE (R296). -/
def aL2cPinRelease : Nat := 0x160044
/-- Address of CNT_CAP_WAIT_q (R297). -/
def aCntCapWait (i : Nat) : Nat := 0x160048 + 0x8 * i
/-- Address of L2C_ARB_PRIO_q (R257). -/
def aL2cArbPrio (i : Nat) : Nat := 0x160100 + 0x10 * i
/-- Address of L2C_ARB_CTRL_q (R257). -/
def aL2cArbCtrl (i : Nat) : Nat := 0x160108 + 0x10 * i
/-- Address of CNT_L2_HIT_BYTES_s (R297). -/
def aCntL2HitBytes (i : Nat) : Nat := 0x160200 + 0x20 * i
/-- Address of CNT_L2_MISS_BYTES_s (R297). -/
def aCntL2MissBytes (i : Nat) : Nat := 0x160208 + 0x20 * i
/-- Address of CNT_L2_WB_BYTES_s (R297). -/
def aCntL2WbBytes (i : Nat) : Nat := 0x160210 + 0x20 * i
/-- Address of CNT_L2_PF_s (R297). -/
def aCntL2Pf (i : Nat) : Nat := 0x160218 + 0x20 * i
/-- Address of DDR_CH_ERASE_c (R339). -/
def aDdrChErase (i : Nat) : Nat := 0x170000 + 0x800 * i
/-- Address of CNT_DDR_CORR_c (R342). -/
def aCntDdrCorr (i : Nat) : Nat := 0x170100 + 0x800 * i
/-- Address of CNT_DDR_UNCORR_c (R342). -/
def aCntDdrUncorr (i : Nat) : Nat := 0x170108 + 0x800 * i
/-- Address of CNT_DDR_POISON_c (R342). -/
def aCntDdrPoison (i : Nat) : Nat := 0x170110 + 0x800 * i
/-- Address of CNT_DDR_CAPAR_c (R342). -/
def aCntDdrCapar (i : Nat) : Nat := 0x170118 + 0x800 * i
/-- Address of CNT_DDR_RD_BYTES_c (R342). -/
def aCntDdrRdBytes (i : Nat) : Nat := 0x170120 + 0x800 * i
/-- Address of CNT_DDR_WR_BYTES_c (R342). -/
def aCntDdrWrBytes (i : Nat) : Nat := 0x170128 + 0x800 * i
/-- Address of DDR_CFG (R338). -/
def aDdrCfg : Nat := 0x178000
/-- Address of DDR_CTRL (R338). -/
def aDdrCtrl : Nat := 0x178004
/-- Address of DDR_STATUS (R338). -/
def aDdrStatus : Nat := 0x178008
/-- Address of DDR_SCRUB_CTRL (R339). -/
def aDdrScrubCtrl : Nat := 0x17800C
/-- Address of DDR_ERR_LOG (R340). -/
def aDdrErrLog : Nat := 0x178018
/-- Address of CNT_DDR_ERR_LOST (R340). -/
def aCntDdrErrLost : Nat := 0x178020
/-- Address of DDR_RETIRE_CTRL (R341). -/
def aDdrRetireCtrl : Nat := 0x178028
/-- Address of DDR_INIT_PTR_c (R339). -/
def aDdrInitPtr (i : Nat) : Nat := 0x178100 + 0x8 * i
/-- Address of DDR_REMAP_n (R341). -/
def aDdrRemap (i : Nat) : Nat := 0x179000 + 0x8 * i
/-- Address of LNK_EGR_PRIO_p (R257). -/
def aLnkEgrPrio (i : Nat) : Nat := 0x180200 + 0x10 * i
/-- Address of LNK_EGR_ARB_CTRL_p (R257). -/
def aLnkEgrArbCtrl (i : Nat) : Nat := 0x180204 + 0x10 * i
/-- Address of LNK_CFG_p (R374). -/
def aLnkCfg (i : Nat) : Nat := 0x181000 + 0x400 * i
/-- Address of LNK_CTRL_p (R375). -/
def aLnkCtrl (i : Nat) : Nat := 0x181004 + 0x400 * i
/-- Address of LNK_STATUS_p (R376). -/
def aLnkStatus (i : Nat) : Nat := 0x181008 + 0x400 * i
/-- Address of LNK_TIMER_p (R376). -/
def aLnkTimer (i : Nat) : Nat := 0x18100C + 0x400 * i
/-- Address of LNK_RTT_p (R376). -/
def aLnkRtt (i : Nat) : Nat := 0x181010 + 0x400 * i
/-- Address of LNK_LANE_FAIL_p (R376). -/
def aLnkLaneFail (i : Nat) : Nat := 0x181014 + 0x400 * i
/-- Address of LNK_LANES_p (R377). -/
def aLnkLanes (i : Nat) : Nat := 0x181018 + 0x400 * i
/-- Address of LNK_RX_VC_p_v (R377). -/
def aLnkRxVc (i j : Nat) : Nat := 0x181040 + 0x400 * i + 0x4 * j
/-- Address of LNK_TX_CREDIT_p_v (R377). -/
def aLnkTxCredit (i j : Nat) : Nat := 0x181060 + 0x400 * i + 0x4 * j
/-- Address of LNK_TX_SHARED_p (R377). -/
def aLnkTxShared (i : Nat) : Nat := 0x181080 + 0x400 * i
/-- Address of CNT_LNK_TX_BYTES_p (R378). -/
def aCntLnkTxBytes (i : Nat) : Nat := 0x181100 + 0x400 * i
/-- Address of CNT_LNK_RX_BYTES_p (R378). -/
def aCntLnkRxBytes (i : Nat) : Nat := 0x181108 + 0x400 * i
/-- Address of CNT_LNK_FEC_CORR_p (R378). -/
def aCntLnkFecCorr (i : Nat) : Nat := 0x181110 + 0x400 * i
/-- Address of CNT_LNK_FEC_UNCORR_p (R378). -/
def aCntLnkFecUncorr (i : Nat) : Nat := 0x181118 + 0x400 * i
/-- Address of CNT_LNK_CRC_p (R378). -/
def aCntLnkCrc (i : Nat) : Nat := 0x181120 + 0x400 * i
/-- Address of CNT_LNK_REPLAY_p (R378). -/
def aCntLnkReplay (i : Nat) : Nat := 0x181128 + 0x400 * i
/-- Address of CNT_LNK_RETRAIN_p (R378). -/
def aCntLnkRetrain (i : Nat) : Nat := 0x181130 + 0x400 * i
/-- Address of CNT_LNK_DISCARD_p (R378). -/
def aCntLnkDiscard (i : Nat) : Nat := 0x181138 + 0x400 * i
/-- Address of CNT_LNK_PROTO_p (R378). -/
def aCntLnkProto (i : Nat) : Nat := 0x181140 + 0x400 * i
/-- Address of CNT_LNK_LANE_SYM_p_l (R378). -/
def aCntLnkLaneSym (i j : Nat) : Nat := 0x181180 + 0x400 * i + 0x8 * j
/-- Address of CNT_LNK_VC_WAIT_p_v (R378). -/
def aCntLnkVcWait (i j : Nat) : Nat := 0x181200 + 0x400 * i + 0x8 * j
/-- Address of FAB_ID (R419). -/
def aFabId : Nat := 0x190000
/-- Address of FAB_CFG (R419). -/
def aFabCfg : Nat := 0x190004
/-- Address of FAB_STATUS (R419). -/
def aFabStatus : Nat := 0x190008
/-- Address of FAB_CTX_INUSE (R419). -/
def aFabCtxInuse : Nat := 0x19000C
/-- Address of FAB_ROUTE_REGION_i (R420). -/
def aFabRouteRegion (i : Nat) : Nat := 0x191000 + 0x4 * i
/-- Address of FAB_ROUTE_LOCAL_i (R420). -/
def aFabRouteLocal (i : Nat) : Nat := 0x191400 + 0x4 * i
/-- Address of FAB_DDR_ACCEPT_n (R421). -/
def aFabDdrAccept (i : Nat) : Nat := 0x192000 + 0x8 * i
/-- Address of FAB_SYNC_ACCEPT_p (R421). -/
def aFabSyncAccept (i : Nat) : Nat := 0x192100 + 0x8 * i
/-- Address of FAB_MGMT_ACCEPT (R421). -/
def aFabMgmtAccept : Nat := 0x192180
/-- Address of CNT_FAB_FWD_BYTES (R424). -/
def aCntFabFwdBytes : Nat := 0x193000
/-- Address of CNT_FAB_RETX (R424). -/
def aCntFabRetx : Nat := 0x193008
/-- Address of CNT_FAB_TIMEOUT (R424). -/
def aCntFabTimeout : Nat := 0x193010
/-- Address of CNT_FAB_STALE (R424). -/
def aCntFabStale : Nat := 0x193018
/-- Address of CNT_FAB_BUSY (R424). -/
def aCntFabBusy : Nat := 0x193020
/-- Address of CNT_FAB_HOPLIMIT (R424). -/
def aCntFabHoplimit : Nat := 0x193028
/-- Address of CNT_FAB_NOROUTE (R424). -/
def aCntFabNoroute : Nat := 0x193030
/-- Address of CNT_FAB_CTX_WAIT (R424). -/
def aCntFabCtxWait : Nat := 0x193038
/-- Address of CE_OP_BASE_p (R422). -/
def aCeOpBase (i : Nat) : Nat := 0x1A0000 + 0x10 * i
/-- Address of CE_OP_COUNT_p (R422). -/
def aCeOpCount (i : Nat) : Nat := 0x1A0008 + 0x10 * i
/-- Address of CE_STATUS (R422). -/
def aCeStatus : Nat := 0x1A0100
/-- Address of CNT_CE_BYTES (R424). -/
def aCntCeBytes : Nat := 0x1A0108
/-- Address of CNT_CE_RUNS (R424). -/
def aCntCeRuns : Nat := 0x1A0110
/-- Address of CE_GROUP_g_0 (R422). -/
def aCeGroupG0 (i : Nat) : Nat := 0x1A8000 + 0x20 * i
/-- Address of CE_GROUP_g_1 (R422). -/
def aCeGroupG1 (i : Nat) : Nat := 0x1A8008 + 0x20 * i
/-- Address of CE_GROUP_g_2 (R422). -/
def aCeGroupG2 (i : Nat) : Nat := 0x1A8010 + 0x20 * i
/-- Address of CE_GROUP_g_3 (R422). -/
def aCeGroupG3 (i : Nat) : Nat := 0x1A8018 + 0x20 * i
/-- Address of HOOP_NOW (R423). -/
def aHoopNow : Nat := 0x1B0000
/-- Address of HOOP_CTRL (R423). -/
def aHoopCtrl : Nat := 0x1B0008
/-- Address of HOOP_STATUS (R423). -/
def aHoopStatus : Nat := 0x1B000C
/-- Address of MP_WALE_CFG_p (R446). -/
def aMpWaleCfg (i : Nat) : Nat := 0x1C0000 + 0x100 * i
/-- Address of MP_WALE_STATUS_p (R446). -/
def aMpWaleStatus (i : Nat) : Nat := 0x1C0004 + 0x100 * i
/-- Address of MP_WALE_OBJ_p (R446). -/
def aMpWaleObj (i : Nat) : Nat := 0x1C0008 + 0x100 * i
/-- Address of MP_WALE_AREA_p (R446). -/
def aMpWaleArea (i : Nat) : Nat := 0x1C0010 + 0x100 * i
/-- Address of MP_WALE_BUDDY_p (R446). -/
def aMpWaleBuddy (i : Nat) : Nat := 0x1C0018 + 0x100 * i
/-- Address of MP_WALE_STEP_p (R447). -/
def aMpWaleStep (i : Nat) : Nat := 0x1C0020 + 0x100 * i
/-- Address of MP_WALE_LOCAL_p (R447). -/
def aMpWaleLocal (i : Nat) : Nat := 0x1C0028 + 0x100 * i
/-- Address of MP_WALE_MIRROR_p (R447). -/
def aMpWaleMirror (i : Nat) : Nat := 0x1C0030 + 0x100 * i
/-- Address of CNT_WALE_STALL_p (R447). -/
def aCntWaleStall (i : Nat) : Nat := 0x1C0040 + 0x100 * i
/-- Address of CNT_WALE_COPY_BYTES_p (R447). -/
def aCntWaleCopyBytes (i : Nat) : Nat := 0x1C0048 + 0x100 * i
/-- Address of CNT_WALE_MIRROR_BYTES_p (R447). -/
def aCntWaleMirrorBytes (i : Nat) : Nat := 0x1C0050 + 0x100 * i
/-- Address of CNT_CLEAR (R586). -/
def aCntClear : Nat := 0x1D0000
/-- Address of CNT_EPOCH_PORT_k (R586). -/
def aCntEpochPort (i : Nat) : Nat := 0x1D0008 + 0x8 * i
/-- Address of CNT_EPOCH_CH_k (R586). -/
def aCntEpochCh (i : Nat) : Nat := 0x1D0018 + 0x8 * i
/-- Address of CNT_EPOCH_HUB (R586). -/
def aCntEpochHub : Nat := 0x1D0028
/-- Address of DBG_FREEZE_CTRL (R587). -/
def aDbgFreezeCtrl : Nat := 0x1E0000
/-- Address of DBG_FREEZE_STATUS (R587). -/
def aDbgFreezeStatus : Nat := 0x1E0004
/-- Address of DBG_FREEZE_HOOP (R587). -/
def aDbgFreezeHoop : Nat := 0x1E0008
/-- Address of DBG_FREEZE_AT (R587). -/
def aDbgFreezeAt : Nat := 0x1E0010
/-- Address of DBG_BREAK (R587). -/
def aDbgBreak : Nat := 0x1E0018
/-- Address of CNT_DBG_FREEZE (R587). -/
def aCntDbgFreeze : Nat := 0x1E0100
/-- Address of CNT_DBG_FROZEN (R587). -/
def aCntDbgFrozen : Nat := 0x1E0108

end Sys2Proof.Machine
end

