-- ==== Sys2Proof/Machine/State.lean ====
section
/-! DEFINITION. The state of the block: everything the spec gives the device, as plain data. Every register of a register
table lives in `State.regs` by its BAR0 offset, at its reset value while unlisted; what the spec gives besides registers
lives in the typed records below. -/
namespace Sys2Proof.Machine

/-! ### Tiles -/

/-- One level of an address pattern: signed stride and count (R215). -/
structure Level where
  stride : Int
  count : Nat
  deriving DecidableEq, Repr

/-- A signal of an entry with its registers already read (R182). -/
structure Sig where
  set : Bool
  remote : Bool
  dev : Nat
  obj : Nat
  val : Nat
  deriving DecidableEq, Repr

/-- An engine command in a queue: its payload with base sums and the register values latched at issue (R183, R211, R214). -/
structure Cmd where
  entry : Nat
  issue : Nat
  target : Nat
  payload : Nat
  bh : Bool
  guardVal : Nat
  origin : Nat
  dev : Nat
  sigs : List Sig
  started : Bool
  waited : Nat
  ran : Nat
  deriving DecidableEq, Repr

/-- What a popped operand carries: its handle, and the slots it pushed or reserved (R235). -/
structure OpHandle where
  operand : Nat
  handle : Option W64
  hen : Bool
  hq : Nat
  slot : Nat
  role : Bool
  qfill : Bool
  deriving DecidableEq, Repr

/-- The patterns and bases that a MAC command latched at commit (R214, R221). -/
structure MacOps where
  payload : Nat := 0
  pat0 : List Level := []
  pat1 : List Level := []
  pat3 : List Level := []
  base0 : Nat := 0
  base1 : Nat := 0
  base2 : Nat := 0
  base3 : Nat := 0
  deriving DecidableEq, Repr

/-- The stage of a MAC command: its compute part held for rows that an earlier drain still reads, running; its drain part;
both done (R84). -/
inductive MacStage
  | held | compute | drain | done
  deriving DecidableEq, Repr

/-- A committed MAC command (R212, R220). `parity` holds the failing address once a parity event met it (R85). -/
structure MacRun where
  cmd : Cmd
  ops : MacOps := {}
  stage : MacStage
  handles : List OpHandle
  zero : Option Nat
  parity : Option Nat
  reported : Bool
  deriving DecidableEq, Repr

/-- One MAC array: its stationary registers, corner-turn buffer, stager, accumulator file and ballast generator
(R68, R72, R74, R76, R79, R90). -/
structure ArrayState where
  /-- Active stationary registers, cell 32k + n (R68). -/
  active : List (Nat × W64) := []
  /-- Shadow stationary registers (R68, R72). -/
  shadow : List (Nat × W64) := []
  /-- Serial stager: the two serial rows last staged, element 32r + k (R74). -/
  stager : List (Nat × W64) := []
  /-- Corner-turn buffer: two 32 × 32 blocks, element 1024h + 32i + j (R76). -/
  corner : List (Nat × W64) := []
  /-- Accumulator file as 32-bit words at byte offset ÷ 4 (R79). -/
  acc : List (Nat × W32) := []
  /-- Accumulator words that decode as uncorrectable, by byte offset ÷ 32 (R80, R87). -/
  accBad : List (Nat × Bool) := []
  /-- Committed commands in queue order (R84). -/
  runs : List MacRun := []
  /-- Format code of the last compute part, which ballast uses; BF16 before the first (R90). -/
  lastFmt : Nat := 3
  /-- The ballast generator; none while it stands at the seed that reset gives it (R90). -/
  lfsr : Option (BitVec 31) := none
  /-- The ballast under way is one that BALLAST_GAP does not bound: it began in a ramp, at END or in the ramp after a supply
  dip (R90–R92). -/
  rampBallast : Bool := false
  deriving DecidableEq, Repr

/-- A result on its way to its destination, of the command with issue number `owner` (R111). -/
structure Flight where
  owner : Nat
  regs : List (Nat × BitVec 1024)
  masks : List (Nat × BitVec 128)
  rsta : Bool
  deriving DecidableEq, Repr

/-- A committed VE RUN (R108, R224, R225); `issued` counts the iterations whose first instruction has issued (R135). -/
structure VeRun where
  cmd : Cmd
  handles : List OpHandle
  zero : Option Nat
  nest : List Level
  pats : List (List Level)
  bases : List Nat
  group : Nat
  slot : Nat
  window : Nat
  iters : Nat
  issued : Nat
  parity : Option Nat
  stopped : Bool
  originDue : Bool
  deriving DecidableEq, Repr

/-- The vector engine: registers V0–V63, LM1–LM3 of each window, kernel memory, and the running command (R103, R105, R107). -/
structure VeState where
  regs : List (Nat × BitVec 1024) := []
  masks : List (Nat × BitVec 128) := []
  kmem : List (Nat × W64) := []
  flight : List Flight := []
  run : Option VeRun := none
  /-- Earlier RUNs that have issued their last instruction and are not completed, oldest first (R108). -/
  ending : List VeRun := []
  /-- The KLOAD that runs, with the address of its parity event (R226), and whether the event has been posted. -/
  kload : Option (Cmd × Option Nat) := none
  kloadPosted : Bool := false
  /-- Kernel memory as it stood before the KLOAD that runs: a parity event stops the copy at its chunk (R226). -/
  kmemOld : List (Nat × W64) := []
  deriving DecidableEq, Repr

/-- State codes of a stream context (R292). -/
inductive CtxState
  | idle | running | halted | draining
  deriving DecidableEq, Repr

/-- A stream context (R261–R279). A unit of work is one step, or the E steps of one transposed block (R271). -/
structure SeCtx where
  state : CtxState := .idle
  cmd : Option Cmd := none
  handles : List OpHandle := []
  zero : Option Nat := none
  srcPat : List Level := []
  dstPat : List Level := []
  srcBase : Nat := 0
  dstBase : Nat := 0
  /-- Units of the command. -/
  units : Nat := 0
  /-- Unit being issued, its first row, and requests of it issued so far (R263, R278). -/
  unit : Nat := 0
  row0 : Nat := 0
  sub : Nat := 0
  /-- Read requests of the unit that have been answered. -/
  arrived : Nat := 0
  /-- Response and transpose buffer of the unit, by byte (R264, R271), and the poison of its 32 B words (R270). -/
  buf : List Host.Cell := []
  bufBad : List (Nat × Bool) := []
  /-- Steps below this have been prefetched (R289). -/
  prefetched : Nat := 0
  /-- Address whose translation is being walked for (R275). -/
  walk : Option Nat := none
  /-- Smallest step that met a fault, with the first fault's cause and address (R277). -/
  fault : Option (Nat × Nat × Nat) := none
  /-- Error completion under way: cause and status; cause 0 after a contained fault that is already posted (R268). -/
  err : Option (Nat × Nat) := none
  /-- Parity completion under way: failing address (R147). -/
  parity : Option Nat := none
  deriving DecidableEq, Repr

/-- A snapshot of a recovery point (R195). -/
structure Snapshot where
  entry : Nat
  loops : List (W64 × W64)
  sregs : List W64
  queues : List (W64 × List W64)
  ctrs : List (W64 × W64)
  deriving DecidableEq, Repr

/-- The parts of a sequencer that are not registers (R195–R205, R241). -/
structure SeqState where
  snapshot : Option Snapshot := none
  /-- Fired map of the segment, by issue number (R197). -/
  fired : List (Nat × Bool) := []
  /-- Entries issued since the recovery point (R197). -/
  issueCount : Nat := 0
  /-- Commands completed since start (event 0x71). -/
  completed : Nat := 0
  /-- Commands committed since release, by target code (tag of R234). -/
  commits : List (Nat × Nat) := []
  /-- Some issued command of the segment completed with a parity event (R195, R196). -/
  parityDone : Bool := false
  /-- A parity event waits to be posted: the failing entry (R200), and the address that failed last (R172). -/
  parityDue : Option Nat := none
  parityAddr : Nat := 0
  /-- The rewind under way: the failing entry, and the address that failed (R172, R200). -/
  rewind : Option Nat := none
  rewindAddr : Nat := 0
  /-- The rewind under way was asked for by the MP and is no parity event (R200). -/
  mpRewind : Bool := false
  /-- A rewind has already taken place in the segment (R148). -/
  rewound : Bool := false
  /-- A rewind has ended at step 4 of R200 in a stop: the failing entry, for step 5 at the release (R202, R205). -/
  replayDue : Option Nat := none
  /-- Waits of the current entry have been registered. -/
  registered : Bool := false
  /-- The recovery point before the current entry has been passed. -/
  rpPassed : Bool := false
  /-- A stop asked for, with its cause: 1 MP stop, 2 pre-emption (R202). -/
  stopReq : Option Nat := none
  /-- An abort written in FAULTED that waits for its commands (R205). -/
  abortDue : Bool := false
  /-- Withdrawn commands, in queue order (R241). -/
  withdrawn : List Cmd := []
  /-- A PARAM in progress: operations done (R187). -/
  paramOp : Nat := 0
  /-- An LD8 waiting for its data: destination register and address. -/
  ld8 : Option (Nat × Nat) := none
  /-- ACLK of the present sync wait (R240). -/
  waited : Nat := 0
  /-- Entry count and naming mode of the loaded slath (R174). -/
  entryCount : Nat := 0
  queueMode : Bool := false
  /-- sreg_init of the loaded slath (R174, R175). -/
  sregInit : List W64 := []
  /-- Partition-relative indexes bound to this tile, made absolute (R192). -/
  bound : List Nat := []
  /-- Objects that the loaded slath waits on, made absolute (R192). -/
  waitsOn : List Nat := []
  deriving DecidableEq, Repr

/-- A translation cache entry (R275). -/
structure XlEntry where
  part : Nat
  page : Nat
  big : Bool
  dev : Nat
  space : Nat
  base : Nat
  wr : Bool
  deriving DecidableEq, Repr

/-- A tile (R22). -/
structure Tile where
  /-- Scratchpad bytes by address (R136). -/
  spad : List Host.Cell := []
  /-- 8 B groups of light-class banks whose parity mismatches, and words of strong-class banks that decode as
  uncorrectable (at their first group), by address ÷ 8 (R145, R143). -/
  spadBad : List (Nat × Bool) := []
  /-- Units whose merge has been read and not yet written back, by address ÷ 8, and GAB granules after them (R141). -/
  merges : List (Nat × Bool) := []
  gabMerges : List (Nat × Bool) := []
  /-- GAB entries (R159). -/
  gab : List (Nat × W32) := []
  /-- GAB granules that decode as uncorrectable (R159). -/
  gabBad : List (Nat × Bool) := []
  arrays : List (Nat × ArrayState) := []
  ve : VeState := {}
  /-- Engine command queues, by target code; head first, uncommitted commands (R211). -/
  queues : List (Nat × List Cmd) := []
  ctxs : List (Nat × SeCtx) := []
  /-- The PLOAD or QPUSH that runs on the SE port, and whether its read met a parity event (R147, R231). -/
  seAux : Option (Cmd × Bool) := none
  /-- Context that issued the last far request (R264). -/
  lastCtx : Nat := 7
  xl : List XlEntry := []
  seq : SeqState := {}
  /-- Slath buffer: slot ↦ entry index and entry (R176). -/
  slath : List (Nat × (Nat × Nat)) := []
  /-- Pattern table words that decode as uncorrectable, by 2 × slot + half (R215). -/
  patBad : List (Nat × Bool) := []
  /-- Blocks of 16 entries being fetched (R176). -/
  fetches : List Nat := []
  /-- Handles popped from each withy queue since reset: the model's own count, which names the place of a push. -/
  pops : List (Nat × Nat) := []
  /-- Units whose counter clear is armed (R558). -/
  armed : List Nat := []
  deriving DecidableEq, Repr

/-! ### Sync unit -/

/-- An operation on its way to a sync object (R191). `src` is the tile, 1,024 + port for the fabric, 2,048 for the MP,
2,049 for the collective engine, 2,050 for the wale engine. -/
structure SyncOp where
  src : Nat
  obj : Nat
  set : Bool
  val : Nat
  /-- For a fabric operation: the request to answer once applied (R401). -/
  reply : Option Nat
  deriving DecidableEq, Repr

/-- What waits on a sync object. -/
inductive Waiter
  | entry (slot : Nat)
  | guard (engine : Nat)
  | window (n : Nat)
  deriving DecidableEq, Repr

/-- A pending wait, guard or window close condition in the holder's records (R191). -/
structure WaitRec where
  tile : Nat
  who : Waiter
  obj : Nat
  val : Nat
  released : Bool
  delivered : Bool
  deriving DecidableEq, Repr

/-- The sync unit: object values, operations in flight, wait records (R190–R192). -/
structure SyncUnit where
  objs : List (Nat × W32) := []
  ops : List SyncOp := []
  waits : List WaitRec := []
  deriving DecidableEq, Repr

/-! ### Memory agents, L2 and DDR -/

/-- Where a request came from: a stream context, or the fabric, by the place of its record there. -/
inductive Origin
  | ctx (tile ctx : Nat)
  | fabric (ref : Nat)
  deriving DecidableEq, Repr

/-- Stage of a request: at its memory-edge lane, turned away with CAP_WAIT (with the retry flag; free to come again),
holding a slot, on its way to a window, on its way to another device, answered. -/
inductive ReqStage
  | lane
  | capWait (retry ready : Bool)
  | slot
  | window
  | remote
  | answered
  deriving DecidableEq, Repr

/-- A request to DDR, to a window or to another device (R263, R280, R289). `va` is the address that the context
generated, `pos` the byte place in its step, `part` the partition a pin counts for. -/
structure Req where
  id : Nat
  origin : Origin
  step : Nat
  pos : Nat
  va : Nat
  write : Bool
  prefetch : Bool
  dev : Nat
  space : Nat
  off : Nat
  len : Nat
  data : List Byte
  poison : Nat
  cls : Nat
  reuse : Nat
  part : Nat
  lane : Nat
  stage : ReqStage
  /-- Bank key, while a slot is held (R281). -/
  bank : Option Nat
  status : Nat
  win : Option Nat
  deriving DecidableEq, Repr

/-- A waiter of a bank at its cap: its request, and whether a slot is reserved for it (R281, R282). -/
structure CapWaiter where
  id : Nat
  bank : Nat
  reserved : Bool
  deriving DecidableEq, Repr

/-- Wait counter, loss count and sit-out count of one requester (R251). -/
structure ArbReq where
  wait : Nat := 0
  loss : Nat := 0
  out : Nat := 0
  deriving DecidableEq, Repr

/-- One arbiter: its last winner and its requesters (R251). -/
structure Arbiter where
  last : Nat := 15
  reqs : List (Nat × ArbReq) := []
  deriving DecidableEq, Repr

/-- An L2 line (R284): data and poison per 32 B word. -/
structure L2Line where
  tag : Nat
  valid0 : Bool
  valid1 : Bool
  dirty0 : Bool
  dirty1 : Bool
  remaining : Nat
  pin : Option Nat
  used : Nat
  data : List Host.Cell
  poison : Nat
  deriving DecidableEq, Repr

/-- A corrected codeword as firmware's policy counts it: hoop value, 2 MiB page, channel, device, bank key and row (R333). -/
structure DdrSeen where
  hoop : Nat
  page : Nat
  chan : Nat
  dev : Nat
  bank : Nat
  row : Nat
  deriving DecidableEq, Repr

/-- The persistent log of the MP in flash (R333, R596): retired pages with their pool pages, in the order of their remap
entries; rows queued for hard repair, by channel, bank key, row and device; erased devices, by channel; whether the device has
been reported degraded. -/
structure DdrLog where
  retired : List (Nat × Nat) := []
  repairs : List (Nat × Nat × Nat × Nat) := []
  erased : List (Nat × Nat) := []
  degraded : Bool := false
  deriving DecidableEq, Repr

/-- The memory system beside its registers. -/
structure MemSys where
  /-- DRAM bytes by space 0 offset after remapping (R328, R331). -/
  ddr : List Host.Cell := []
  /-- Poisoned 32 B words, by offset ÷ 32 (R324). -/
  ddrPoison : List (Nat × Bool) := []
  /-- L2 lines by 65,536 × slice + 16 × set + way (R284). -/
  l2 : List (Nat × Option L2Line) := []
  /-- Use clock of the L2 order of use. -/
  clock : Nat := 0
  reqs : List Req := []
  nextId : Nat := 0
  waiters : List CapWaiter := []
  /-- Fabric requests that the router core holds under the retry flag, and the HCLK left until it re-issues each; 0 after that,
  until the request has its slot (R282, R399). -/
  retries : List (Nat × Option Nat) := []
  /-- Arbiters by instance number: 32 × tile + bank (GAB banks from 16), 32,768 + tile for an SE port, 33,792 + quadrant
  for slot grants, 33,796 + quadrant for sync slices, 33,800 + port for fabric egress (R257). -/
  arbs : List (Nat × Arbiter) := []
  /-- Partitions whose translations are being dropped (R276). -/
  xlInv : Nat := 0
  /-- Partitions whose pins are being released (R296). -/
  pinRel : Nat := 0
  /-- DDR error records, oldest first (R340). -/
  errLog : List W64 := []
  /-- Consecutive command parity errors by channel (R325). -/
  caparRun : List (Nat × Nat) := []
  /-- Activates counted by bank key (R327). -/
  activates : List (Nat × Nat) := []
  /-- Patrol scrub position by channel, local address (R330); hoop value at which the scrub schedule began, and the accesses
  that each channel has scrubbed since. -/
  scrubAt : List (Nat × Nat) := []
  scrubStart : Nat := 0
  scrubDone : List (Nat × Nat) := []
  /-- Refreshes issued by bank key (R326). -/
  refreshes : List (Nat × Nat) := []
  /-- Modules whose sensor reads above 85 °C (R326). -/
  hot : List (Nat × Bool) := []
  /-- The remap entry whose page is being retired (R332). -/
  retiring : Option Nat := none
  /-- Pages whose retirement firmware has yet to start (R332, R333). -/
  retireQ : List Nat := []
  /-- Corrected codewords that firmware has read from the error log within 24 hours (R333). -/
  seen : List DdrSeen := []
  /-- DDR_CFG.fallback as it stood when the training under way began (R338). -/
  fallback : Bool := false
  /-- Modules in self-refresh (R337). -/
  selfRefresh : Bool := false
  deriving DecidableEq, Repr

/-- A rim: posted count and its entries, oldest first (R566–R568). -/
structure Rim where
  posted : Nat := 0
  entries : List (BitVec 128) := []
  deriving DecidableEq, Repr
/-! ### Fabric requests -/

/-- Who gets the answer of a request that a unit of the device sent (R397). -/
inductive Asker
  | ctx (tile ctx step : Nat)
  | signal (tile : Nat)
  | ce (part desc : Nat)
  | copy (part : Nat)
  | wale (part : Nat)
  | mp
  deriving DecidableEq, Repr

/-- A request that a unit of the device sends to another device (R383, R384). `id` is the request number. -/
structure OutReq where
  id : Nat
  asker : Asker
  hub : Bool
  unit : Nat
  dev : Nat
  ptype : Nat
  addr : Nat
  operand : Nat
  data : List Byte
  poison : Nat
  cls : Nat
  reuse : Nat
  deriving DecidableEq, Repr

/-! ### Links (R343–R370) and the authentication of neighbours (R541–R545) -/

/-- A data flit in a retry buffer (R347, R351). -/
structure TxFlit where
  seq : Nat
  vc : Nat
  sh : Bool
  first : Nat
  payload : List Byte
  deriving DecidableEq, Repr

/-- What the peer's INIT_PARAM told (R361, R362). -/
structure PeerParam where
  lowlat : Bool
  width : Nat
  mins : List Nat
  shared : List Nat
  window : Nat
  deriving DecidableEq, Repr

/-- A change of one direction's lane map (R369). -/
structure LaneChange where
  version : Nat
  width : Nat
  map : Nat
  deriving DecidableEq, Repr

/-- The authentication exchange of a port in AUTH (R541–R545). -/
structure Auth where
  hello : List Byte := []
  proof : List Byte := []
  peerHello : Option (List Byte) := none
  peerChain : Option (List Byte) := none
  peerProof : Option (List Byte) := none
  peerResult : Option (List Byte) := none
  /-- Fragments of messages under way, by 16 × kind + fragment index. -/
  frags : List (Nat × List Byte) := []
  /-- Signature jobs done for the port since it entered AUTH: its own PROOF, CA, device certificate, statement, PROOF. -/
  jobs : Nat := 0
  /-- The code of R544 once it is fixed. -/
  code : Option Nat := none
  deriving DecidableEq, Repr

/-- A port beside its registers. -/
structure Port where
  /-- Receiver: the sequence number expected, nak state, totals freed by channel (8 is the shared pool) (R352, R358). -/
  expect : Nat := 0
  nak : Bool := false
  freed : List (Nat × Nat) := []
  /-- Bytes of the unfinished packet of each channel (R349). -/
  part : List (Nat × List Byte) := []
  /-- Transmitter: next sequence number, retry buffer oldest first, the peer's window and shared limits (R351, R357, R362). -/
  next : Nat := 0
  retry : List TxFlit := []
  window : Nat := 2047
  peerShared : List Nat := []
  /-- Last totals heard, and the channels whose flits hold a shared credit, oldest first (R357, R358). -/
  totals : List (Nat × Nat) := []
  inUse : List Nat := []
  /-- The last replay: its first number, the hoop value at its start, and replays from that number without ack progress
  (R353, R354). -/
  replayFrom : Nat := 0
  replayAt : Option Nat := none
  replays : Nat := 0
  /-- The next ack heard starts a replay: a retrain or a freeze has ended (R365, R367). -/
  resync : Bool := false
  /-- Packets that wait for egress, by channel, and the channels whose first packet is partly sent (R349, R387). -/
  waiting : List (Nat × List (List Byte)) := []
  mid : List (Nat × Bool) := []
  /-- Totals that have changed, in the order in which headers carry them (R358). -/
  due : List Nat := []
  /-- Control flits sent and not yet answered: payload bytes from byte 8 (R361). -/
  unanswered : List (List Byte) := []
  /-- Flits put on the lanes, oldest first, each as its 256 bytes: the model's record of what is sent. -/
  wire : List (List Byte) := []
  /-- Data flits sent since the last flit of another type, and the part of a flit slot that has passed (R345, R350). -/
  run : Nat := 0
  slot : Nat := 0
  /-- LNK_CFG and the eight LNK_RX_VC as they stood at the last initialisation (R360, R374). -/
  cfg : Nat := 0
  limits : List Nat := []
  /-- State that RETRAIN and FROZEN return to (R364). -/
  saved : Nat := 0
  thawed : Nat := 0
  /-- Cause of the retrain under way, its start, and a retrain condition that arose in FROZEN (R365, R367). -/
  retrainCause : Nat := 0
  retrainAt : Nat := 0
  retrainDue : Option Nat := none
  /-- INIT: the peer's parameters, echo samples, and a received INIT_DONE (R361, R363, R364). -/
  param : Option PeerParam := none
  echoes : Nat := 0
  peerDone : Bool := false
  /-- Lane maps: last versions, the change the peer asked for, and the change asked of the peer (R369). -/
  txVersion : Nat := 0
  rxVersion : Nat := 0
  txChange : Option LaneChange := none
  rxChange : Option LaneChange := none
  /-- Corrected symbols by physical lane in the present window, and the window's number (R368). -/
  syms : List (Nat × Nat) := []
  symWindow : Nat := 0
  /-- Lanes under background retraining (R370). -/
  recovering : Bool := false
  /-- Device ID of the neighbour as its link-local packets told it. -/
  neighbour : Nat := 0
  /-- Hoop value at which the port last became ACTIVE (R410). -/
  activeAt : Nat := 0
  auth : Auth := {}
  deriving DecidableEq, Repr

/-! ### The transport (R391–R395, R398–R402) -/

/-- An outstanding request of a send half: its sequence number, and whether it was the first of its epoch (R392, R394). -/
structure Outstanding where
  seq : Nat
  syn : Bool
  req : OutReq
  sent : Nat
  tries : Nat := 0
  /-- A BUSY answer has come since the last send (R395). -/
  busy : Bool := false
  deriving DecidableEq, Repr

/-- The receive half of a peer context: epoch, highest number, and the applied numbers with the status once known
(R393). -/
structure RxHalf where
  epoch : Nat
  high : Nat
  recs : List (Nat × Option Nat) := []
  deriving DecidableEq, Repr

/-- A peer context in use (R391). -/
structure PeerCtx where
  peer : Nat := 0
  isOpen : Bool := false
  epoch : Nat := 0
  next : Nat := 0
  outs : List Outstanding := []
  busies : Nat := 0
  rx : Option RxHalf := none
  used : Nat := 0
  deriving DecidableEq, Repr

/-- A request from a port that has been handed to its destination unit and is not yet answered: its context, header and
channel (R393, R398–R402). -/
structure InReq where
  ref : Nat
  ctx : Nat
  u0 : Nat
  u1 : Nat
  vc : Nat
  deriving DecidableEq, Repr

/-- The transport and hoop synchronisation beside their registers. -/
structure Fabric where
  /-- Peer contexts in use, by number 0–8,191. -/
  ctxs : List (Nat × Option PeerCtx) := []
  /-- The device-wide epoch counter (R392). -/
  epoch : Nat := 0
  /-- Requests that wait at their issuer for a context or a window (R391, R392). -/
  outbox : List OutReq := []
  inreqs : List InReq := []
  /-- Offsets taken since the last step or retrim, newest last (R410, R411). -/
  offsets : List Int := []
  /-- Ticks still to be slewed (R411). -/
  slew : Int := 0
  /-- HCLK since the last mark at which a tick could be added or withheld (R411). -/
  phase : Nat := 0
  /-- Ticks for which the counter is still held: an offset beyond 65,536 ticks the hoop is ahead by (R412). -/
  hold : Nat := 0
  /-- The secondary time port is in use (R412). -/
  secondary : Bool := false
  /-- Explore mode: serials and IDs known here, the port of discovery, and the next ID at the anchor (R418). -/
  explored : List (Nat × Nat) := []
  parentPort : Option Nat := none
  /-- Explore mode: serial hashes of devices that answered, with the port their answer came from, and ports whose
  neighbour is known (R418). -/
  found : List (Nat × Nat) := []
  known : List Nat := []
  /-- Body of the stored plan (R414, R547). -/
  plan : List Byte := []
  nextId : Nat := 0
  deriving DecidableEq, Repr

/-! ### The collective engine (R403–R408) -/

/-- A chunk received: run, group, sender, segment position, chunk, payload (R384, R407). -/
structure CeChunk where
  run : Nat
  group : Nat
  src : Nat
  seg : Nat
  chunk : Nat
  data : List Byte
  deriving DecidableEq, Repr

/-- A run in progress (R404–R407): the bytes of the own contribution, reads of it under way by request number and place,
segment lengths, requests sent and not answered, pieces sent, chunks taken from the received ones, and whether the
result has been written. A piece is a phase (0 reduce or up, 1 gather or down), a segment and a chunk. -/
structure CeRun where
  /-- The run still reads its segment table, and raw is that table. -/
  table : Bool := false
  raw : List Byte
  reads : List (Nat × Nat) := []
  lens : List Nat
  open_ : List Nat := []
  sent : List (Nat × Nat × Nat) := []
  rx : List CeChunk := []
  written : Bool := false
  deriving DecidableEq, Repr

/-- An armed descriptor (R404). -/
structure CeOp where
  group : Nat
  op : Nat
  fmt : Nat
  count : Nat
  src : Nat
  dst : Nat
  trig : Nat
  done : Nat
  trigInc : Nat
  trigBase : Nat
  doneAmt : Nat
  segTable : Nat
  runs : Nat := 0
  run : Option CeRun := none
  /-- A run has failed (R408). -/
  failed : Bool := false
  deriving DecidableEq, Repr

/-! ### Partitions and the MP -/

/-- Wale engine context of a partition beside its registers (R426–R432). -/
structure Wale where
  regions : List (Nat × Nat) := []
  cursorTable : Nat := 0
  cursors : Nat := 0
  /-- Boundaries since start (R428). -/
  k : Nat := 0
  /-- Wales started since start (R428). -/
  q : Nat := 0
  /-- A WALE_NOW makes the next boundary due. -/
  due : Bool := false
  /-- Step, slot and hoop value of the wale under way. -/
  step : Nat := 0
  slot : Nat := 0
  hoop : Nat := 0
  /-- Random streams of the partition's tiles as they stood at the boundary, as the record lays them out (R430, R433). -/
  streams : List Byte := []
  /-- Step of the complete wale in each slot. -/
  slots : List (Nat × Option Nat) := []
  /-- The mirror under way: its step and slot (R429). -/
  mirror : Option (Nat × Nat) := none
  deriving DecidableEq, Repr

/-- A MEM_COPY that waits for other devices: the bytes read so far, requests under way by number and place, the bus
address, and whether it copies to the host (R462). -/
structure CopyJob where
  raw : List Byte
  open_ : List (Nat × Nat)
  host : Nat
  toHost : Bool
  deriving DecidableEq, Repr

/-- A step replay under way (R315, R585): its stop step, whether it captures, and the trace mask to return to. -/
structure Replay where
  stopStep : Nat
  capture : Bool
  trace : Nat
  deriving DecidableEq, Repr

/-- What a pre-emption saved of one tile: the tile and its register block, by offset in the block (R486). -/
structure SavedTile where
  tile : Tile
  regs : List (Nat × W64)
  deriving DecidableEq, Repr

/-- An accepted SLATH_LOAD: image address, first tile index, count, and the configuration block as it was read (R435). -/
structure SlathKept where
  image : Nat
  first : Nat
  count : Nat
  cfg : List Byte
  /-- Objects that the slath waits on, made absolute (R192). -/
  waits : List Nat := []
  deriving DecidableEq, Repr

/-- The resources of a partition, and what the MP keeps of it beside its registers (R426, R435, R445, R475–R489). -/
structure Part where
  ddrBase : Nat := 0
  ddrLen : Nat := 0
  syncBase : Nat := 0
  syncCount : Nat := 0
  groupBase : Nat := 0
  groupCount : Nat := 0
  saveArea : Nat := 0
  /-- MAC_RAMP_CTRL as it stood at the last ramp start (R96). -/
  ramp : Nat := 0
  /-- A ramp-down has started since the last release (R92). -/
  rampedDown : Bool := false
  /-- Accepted SLATH_LOADs since the last reset, oldest first (R435). -/
  loads : List SlathKept := []
  /-- Contained faults since the last restore, with the first's detail words; contained faults before a step completes
  after a restore (R445). -/
  faults : Nat := 0
  detail : Option (Nat × Nat) := none
  strikes : Nat := 0
  /-- The pre-emption under way or in force: its cause, 1 slice or 2 JOB_PREEMPT, and the hoop value it began at (R485). -/
  preempt : Option (Nat × Nat) := none
  /-- The save is under way (R485 step 5). -/
  saving : Bool := false
  /-- The restore is under way, since this hoop value (R488). -/
  resuming : Option Nat := none
  saved : List (Nat × SavedTile) := []
  /-- Detailed-counter and trace mask for the partition's tiles (R561). -/
  trace : Nat := 0
  replay : Option Replay := none
  wale : Wale := {}
  /-- Armed collective descriptors, by index (R404). -/
  ce : List (Nat × Option CeOp) := []
  copy : Option CopyJob := none
  deriving DecidableEq, Repr

/-! ### The host interface -/

/-- A command taken and not yet replied: its packet and the hoop value at which it was taken (R459, R463). -/
structure Run where
  pkt : List Byte
  hoop : Nat
  /-- Its reply is to be discarded: a function-level reset came after it was taken (R450). -/
  mute : Bool := false
  deriving DecidableEq, Repr

/-- The image under load: its length, the bytes received, and the ranges that they came in, start and end (R462). -/
structure Load where
  len : Nat
  data : List Host.Cell := []
  got : List (Nat × Nat) := []
  deriving DecidableEq, Repr

/-- A half of a split 64-bit access that is held: requester key, register address, value (R13). -/
structure HeldHalf where
  req : Nat
  addr : Nat
  val : W64
  deriving DecidableEq, Repr

/-- The host interface beside its registers (R454–R470). -/
structure HostIf where
  /-- Packet FIFO, oldest first (R455). -/
  fifo : List (List Byte) := []
  running : List Run := []
  /-- Replies that wait for the ring, oldest first (R456). -/
  replyQ : List (List Byte) := []
  /-- Event records that wait for the ring (R466), and events dropped since the last EVENTS_LOST. -/
  eventQ : List (List Byte) := []
  lost : Nat := 0
  /-- Numbers of the event records in the ring that the host driver has not consumed. -/
  evRecs : List Nat := []
  /-- Host memory as the device has written it. -/
  mem : List Host.Cell := []
  /-- Vectors that the host has unmasked, pending bits of masked ones, records since the last message, messages sent
  (R468). -/
  unmasked : List (Nat × Bool) := []
  pend : List (Nat × Bool) := []
  since : List (Nat × Nat) := []
  messages : List (Nat × Nat) := []
  /-- Held low halves of split writes and captured high halves of split reads (R13). -/
  lows : List HeldHalf := []
  highs : List HeldHalf := []
  /-- Held VE_RNG_CTR_LO_s writes and captured counter bits [127:64] (R133). -/
  rngLows : List HeldHalf := []
  rngCaps : List HeldHalf := []
  /-- The PCI Express function is in D3hot (R449). -/
  d3 : Bool := false
  load : Option Load := none
  deriving DecidableEq, Repr

/-! ### Security, power, reset -/

/-- An operator key slot of OTP (R528). -/
structure OpSlot where
  hash : List Byte := []
  roles : Nat := 0
  revoked : Bool := false
  deriving DecidableEq, Repr

/-- OTP and flash: kept through every reset (R521, R528). -/
structure Store where
  /-- Hashes of the vendor key slots, and their revoke bits. -/
  vendor0 : List Byte := []
  vendor1 : List Byte := []
  revoke0 : Bool := false
  revoke1 : Bool := false
  rootHash : List Byte := []
  ops : List (Nat × OpSlot) := []
  arb : Nat := 0
  /-- Fuse map: the faulty physical array of each tile, 4 for none (R100, R101). -/
  fuse : List (Nat × Nat) := []
  flash : List Host.Cell := []
  ddrLog : DdrLog := {}
  deriving DecidableEq, Repr

/-- A reset that an OTP pulse holds back: kind 2 cold, 3 warm, 4 partition, 5 tile groups; its partition, mask or cause;
the hoop value it arrived at (R511). -/
structure HeldReset where
  kind : Nat
  arg : Nat
  hoop : Nat
  deriving DecidableEq, Repr

/-- The security block beside its registers (R536–R550). -/
structure Sec where
  /-- Extends of kinds 0x04, 0x05 and 0x06. -/
  ext4 : Nat := 0
  ext5 : Nat := 0
  ext6 : Nat := 0
  /-- The challenge outstanding and the hoop value it was given at (R548). -/
  challenge : Option (List Byte × Nat) := none
  /-- Digest and version of the running image; none before the hand-over and in recovery. -/
  image : Option (List Byte × Nat) := none
  /-- An OTP programming pulse is under way, and the resets it holds back (R511). -/
  pulse : Bool := false
  held : List HeldReset := []
  deriving DecidableEq, Repr

/-- Clocks, power and reset beside their registers (R493–R520). -/
structure Pwr where
  /-- Steps of the cold release done, 0–8; a warm release repeats steps 2, 3 and 5–8 (R505, R506). -/
  released : Nat := 0
  warm : Bool := false
  /-- Every reset source has deasserted since the last cold or power-on reset (R505). -/
  deasserted : Bool := false
  /-- Hoop value of the last dip warning and its rail (R500, R527). -/
  dipAt : Nat := 0
  dipRail : Nat := 0
  /-- Hoop value at which the power state entry began. -/
  entryAt : Nat := 0
  /-- The device is on its way back to P0 (R516, R518). -/
  waking : Bool := false
  /-- Block resets asserted: 1 tile group, 2 port, 3 partition, with mask or number (R508). -/
  blocks : List (Nat × Nat) := []
  /-- THERMTRIP_N and ALERT_N asserted (R445, R601). -/
  thermtrip : Bool := false
  alert : Bool := false
  /-- Straps: BOOT_MODE and ANCHOR_STRAP as sampled (R595). -/
  bootMode : Nat := 0
  /-- The fuse map that the boot ROM has applied: the physical array of each tile that is fused off on the smaller grade, 4
  for none found faulty (R101). -/
  fused : List (Nat × Nat) := []
  anchorStrap : Bool := false
  /-- Divider period of the throttle frame, 0–63, and surviving pulse of the dip pattern, 0–63 (R495, R579). -/
  period : Nat := 0
  pulse : Nat := 0
  deriving DecidableEq, Repr

/-- A contained fault on its way to the MP (R445). -/
structure FaultPost where
  part : Nat
  tile : Option Nat
  cause : Nat
  entry : Nat
  /-- Reporting unit and address or status, as the fault detail of R463 has them. -/
  source : Nat
  addr : Nat
  /-- Its freeze has been taken (R573). -/
  froze : Bool := false
  deriving DecidableEq, Repr

/-- The debug domain beside its registers (R572–R584). -/
structure Dbg where
  /-- Times the break's entry has executed since DBG_BREAK was written (R584). -/
  breakSeen : Nat := 0
  /-- The break is reached and its freeze is due (R584). -/
  breakDue : Bool := false
  /-- The device drives FREEZE_N low (R574). -/
  driving : Bool := false
  /-- HIF_STATUS.mode before the freeze. -/
  mode : Nat := 0
  deriving DecidableEq, Repr

/-- The JTAG port: the instruction in force, and what its data register captured (R597). -/
structure JtagPort where
  ir : Jtag := .idcode
  dr : W32 := 0
  deriving DecidableEq, Repr

/-- The whole state. -/
structure State where
  /-- Every register of the register tables, by BAR0 offset (R10, R21). -/
  regs : List (Nat × W64) := []
  tiles : List (Nat × Tile) := []
  /-- Rims: 16 × tile + unit for tiles, 16,384 + port for ports, 16,400 for the MP (R566). -/
  rims : List (Nat × Rim) := []
  sync : SyncUnit := {}
  mem : MemSys := {}
  parts : List (Nat × Part) := []
  faults : List FaultPost := []
  ports : List (Nat × Port) := []
  fab : Fabric := {}
  /-- Chunks received and not yet used (R407). -/
  coll : List CeChunk := []
  dbg : Dbg := {}
  host : HostIf := {}
  otp : Store := {}
  sec : Sec := {}
  pwr : Pwr := {}
  jtag : JtagPort := {}
  /-- Partitions that wait for their groups, in arrival order (R482). -/
  ready : List Nat := []
  /-- Hoop time counter (R409). -/
  hoop : Nat := 0
  /-- Draws made from the free values: the model's own field. -/
  free : Nat := 0
  pending : List Instr := []
  deriving DecidableEq, Repr

/-- Why a step stops with a fault: no step of this block does, so this type has no inhabitants. -/
inductive Fault
  deriving DecidableEq, Repr

/-- Why a step is refused. -/
inductive Refusal
  /-- Raised by an arm of `exec` whose command has no meaning yet; safe. -/
  | notModelled (mnemonic : String)
  /-- Raised by JTAG_INSTRUCTION for a private instruction while unlocked: the spec names no effect (R597); safe. -/
  | privateJtagInstruction
  deriving DecidableEq, Repr

/-- Hash of the one public key that reset's OTP holds: test key 1 of RFC 8032, section 7.4 (DESIGN CHOICE). -/
def resetKeyHash : List Byte :=
  [0x2A, 0x49, 0xD2, 0x72, 0x93, 0xC6, 0x80, 0x02, 0xA9, 0xAF, 0xF1, 0x99, 0x8D, 0x07, 0xB0, 0xA8, 0x87, 0x3D,
   0xD5, 0x42, 0x04, 0x44, 0xC6, 0x23, 0xFC, 0x84, 0x40, 0xB6, 0x55, 0x00, 0xC3, 0x11]

/-- The state after reset: every register at its reset value, every store empty; OTP as final test leaves it, with one
key in vendor slot 0 and in operator slot 0 with every role (DESIGN CHOICE, unsafe: the spec gives no keys). -/
def State.reset : State :=
  { otp := { vendor0 := resetKeyHash, rootHash := resetKeyHash, ops := [(0, { hash := resetKeyHash, roles := 7 })] } }

end Sys2Proof.Machine
end

