-- ==== Sys2Proof/Machine/Ops.lean ====
section
/-! DEFINITION. Named operations over the state: registers, counters, rims, tiles, partitions and fault posts. -/
namespace Sys2Proof.Machine

/-! ### Registers -/

/-- The first address of the register of one table row that covers an address. -/
def RegSpec.hit (r : RegSpec) (a : Nat) : Option Nat :=
  if a < r.base then none
  else
    let d := a - r.base
    let i := d / r.s1
    let j := d % r.s1 / r.s2
    let x := d % r.s1 % r.s2
    if i < r.n1 ∧ j < r.n2 ∧ x < r.bytes then some (r.base + r.s1 * i + r.s2 * j) else none

/-- Find the row and the register that cover an address in a table. -/
def findIn : List RegSpec → Nat → Option (RegSpec × Nat)
  | [], _ => none
  | r :: l, a => match r.hit a with
    | some b => some (r, b)
    | none => findIn l a

/-- The register that covers a BAR0 offset: its row and its first address (R21). -/
def findReg (a : Nat) : Option (RegSpec × Nat) :=
  if 0x2000000 ≤ a ∧ a < 0x4000000 then
    let t := (a - 0x2000000) / 0x8000
    match findIn tileRegs ((a - 0x2000000) % 0x8000) with
    | some (r, b) => some (r, tileBase t + b)
    | none => none
  else findIn hubRegs a

/-- The reset value that a row's fields give. -/
def RegSpec.resetVal (r : RegSpec) : Nat := r.fields.foldl (fun v f => v + f.reset * 2 ^ f.lo) 0

/-- Reset values of LNK_RX_VC_p_v (R360). -/
def rxVcReset (v : Nat) : Nat := nth [134217984, 193986816, 16777280, 134217984, 134217984, 4194336, 1048592, 0] v

/-- The reset value of the register at an address; the arrays whose rows differ are listed first (R244, R360). -/
def regDefault (a : Nat) : W64 :=
  if 0x2000000 ≤ a ∧ a < 0x4000000 ∧ 0x6000 ≤ a % 0x8000 then
    (if a / 8 % 8 < 6 then 1 else 0)
  else if 0x181000 ≤ a ∧ a < 0x185000 ∧ 0x40 ≤ a % 0x400 ∧ a % 0x400 < 0x60 then
    BitVec.ofNat 64 (rxVcReset (a % 0x400 / 4 % 8))
  else match findReg a with
    | some (r, _) => BitVec.ofNat 64 r.resetVal
    | none => 0

/-- Value of the register whose first address is `a`. -/
def State.rd (s : State) (a : Nat) : W64 := mapGet (regDefault a) s.regs a

/-- Hardware update of a register. -/
def State.wr (s : State) (a : Nat) (v : W64) : State := { s with regs := mapPut (regDefault a) s.regs a v }

/-- Value as a number. -/
def State.rdN (s : State) (a : Nat) : Nat := (s.rd a).toNat

/-- Update with a number. -/
def State.wrN (s : State) (a v : Nat) : State := s.wr a (BitVec.ofNat 64 v)

/-- Field [hi:lo] of a register. -/
def State.getF (s : State) (a hi lo : Nat) : Nat := bits (s.rdN a) hi lo

/-- Set field [hi:lo] of a register. -/
def State.setF (s : State) (a hi lo x : Nat) : State := s.wrN a (setBits (s.rdN a) hi lo x)

/-- Add to a counter, modulo 2^64 (R555). -/
def State.cnt (s : State) (a : Nat) (n : Nat := 1) : State := s.wr a (s.rd a + BitVec.ofNat 64 n)

/-- Drop every register in an address range to its reset value. -/
def State.resetRegs (s : State) (lo hi : Nat) : State :=
  { s with regs := mapDrop (fun a => decide (lo ≤ a ∧ a < hi)) s.regs }

/-! ### Rims (R566–R568) -/

/-- Rim number of a tile's rim unit. -/
def rimTile (t u : Nat) : Nat := 16 * t + u
/-- Rim number of a port. -/
def rimPort (p : Nat) : Nat := 16384 + p
/-- Rim number of the MP. -/
def rimMp : Nat := 16400

/-- A rim entry (R567). -/
def rimEntry (hoop code entry addr : Nat) : BitVec 128 :=
  BitVec.ofNat 128 (hoop % 2 ^ 48 + (code % 256) * 2 ^ 48 + (entry % 2 ^ 24) * 2 ^ 56 + (addr % 2 ^ 48) * 2 ^ 80)

/-- A rim with one event more: the posted count wraps, the oldest of 256 entries is overwritten (R568). -/
def Rim.push (r : Rim) (e : BitVec 128) : Rim :=
  { posted := (r.posted + 1) % 2 ^ 32,
    entries := (if r.entries.length < 256 then r.entries else r.entries.drop 1) ++ [e] }

/-- Post an event to a rim, stamped with the hoop (R568). -/
def State.post (s : State) (k code entry addr : Nat) : State :=
  { s with rims := mapPut {} s.rims k ((mapGet {} s.rims k).push (rimEntry s.hoop code entry addr)) }

/-- Post to the MP's rim. -/
def State.postMp (s : State) (code entry addr : Nat) : State := s.post rimMp code entry addr

/-! ### Tiles -/

/-- Tile t. -/
def State.tile (s : State) (t : Nat) : Tile := mapGet {} s.tiles t

/-- Replace tile t. -/
def State.setTile (s : State) (t : Nat) (x : Tile) : State := { s with tiles := mapPut {} s.tiles t x }

/-- Update tile t. -/
def State.onTile (s : State) (t : Nat) (f : Tile → Tile) : State := s.setTile t (f (s.tile t))

/-- Update the sequencer of tile t. -/
def State.onSeq (s : State) (t : Nat) (f : SeqState → SeqState) : State :=
  s.onTile t (fun x => { x with seq := f x.seq })

/-- Array m of a tile. -/
def Tile.array (x : Tile) (m : Nat) : ArrayState := mapGet {} x.arrays m

/-- Update array m of tile t. -/
def State.onArray (s : State) (t m : Nat) (f : ArrayState → ArrayState) : State :=
  s.onTile t (fun x => { x with arrays := mapPut {} x.arrays m (f (x.array m)) })

/-- Update the VE of tile t. -/
def State.onVe (s : State) (t : Nat) (f : VeState → VeState) : State := s.onTile t (fun x => { x with ve := f x.ve })

/-- Context c of a tile. -/
def Tile.ctx (x : Tile) (c : Nat) : SeCtx := mapGet {} x.ctxs c

/-- Replace context c of tile t and show its state and cause in SE_CTX_STATUS_c (R292). -/
def State.setCtx (s : State) (t c : Nat) (k : SeCtx) : State :=
  let s := s.onTile t (fun x => { x with ctxs := mapPut {} x.ctxs c k })
  s.setF (aSeCtxStatus t c) 1 0
    (match k.state with | .idle => 0 | .running => 1 | .halted => 2 | .draining => 3)

/-- Engine queue e of a tile. -/
def Tile.queue (x : Tile) (e : Nat) : List Cmd := mapGet [] x.queues e

/-- Replace engine queue e of tile t, and show its depth in MAC_STATUS or VE_STATUS (R94, R132). -/
def State.setQueue (s : State) (t e : Nat) (q : List Cmd) : State :=
  let s := s.onTile t (fun x => { x with queues := mapPut [] x.queues e q })
  if e < 4 then s.setF (aMacStatus t e) 9 5 q.length
  else if e = 4 then s.setF (aVeStatus t) 9 5 q.length else s

/-- State codes of a sequencer (R206). -/
def sqIdle : Nat := 0
def sqLoaded : Nat := 1
def sqRamp : Nat := 2
def sqRun : Nat := 3
def sqBlocked : Nat := 4
def sqRewind : Nat := 5
def sqStopping : Nat := 6
def sqStopped : Nat := 7
def sqDone : Nat := 8
def sqFaulted : Nat := 9

/-- Sequencer state of tile t (R206). -/
def State.sq (s : State) (t : Nat) : Nat := s.getF (aSqStatus t) 3 0

/-- Put a sequencer into a state with a BLOCKED cause (R206). -/
def State.setSq (s : State) (t st cause : Nat) : State := (s.setF (aSqStatus t) 3 0 st).setF (aSqStatus t) 6 4 cause

/-- Scalar register n of tile t; s0 reads zero (R175). -/
def State.sreg (s : State) (t n : Nat) : Nat := if n = 0 then 0 else s.rdN (aSqSreg t n)

/-- Write a scalar register; writes to s0 are ignored (R175). -/
def State.setSreg (s : State) (t n v : Nat) : State := if n = 0 then s else s.wrN (aSqSreg t n) (v % 2 ^ 64)

/-! ### Grade, device ID, partitions -/

/-- Grade code of HIF_ID: 0 QKD4096-B, 1 QKD3072-B (R471, R3, R4). -/
def State.grade (s : State) : Nat := s.getF aHifId 7 0

/-- Enabled arrays per tile (R3, R4). -/
def State.arraysPerTile (s : State) : Nat := if s.grade = 0 then 4 else 3

/-- The own device ID (R382). -/
def State.devId (s : State) : Nat := s.getF aFabId 15 0

/-- Resources of partition p. -/
def State.part (s : State) (p : Nat) : Part := mapGet {} s.parts p

/-- Update the resources of partition p. -/
def State.onPart (s : State) (p : Nat) (f : Part → Part) : State :=
  { s with parts := mapPut {} s.parts p (f (s.part p)) }

/-- Does partition p exist (R490)? -/
def State.partExists (s : State) (p : Nat) : Bool := s.getF (aMpPartStatus p) 31 31 == 1

/-- Is partition p resident (R477, R490)? -/
def State.partResident (s : State) (p : Nat) : Bool := s.getF (aMpPartStatus p) 30 30 == 1

/-- Home tile groups of partition p, as a mask (R476, R490). -/
def State.partHome (s : State) (p : Nat) : Nat := s.getF (aMpPartStatus p) 15 0

/-- The partition resident on tile t (R477). -/
def State.tilePart (s : State) (t : Nat) : Option Nat :=
  firstIdx (fun p => s.partExists p && s.partResident p && bit (s.partHome p) (t / 64)) 16

/-- The partition resident on tile t, 0 where there is none. -/
def State.tilePartD (s : State) (t : Nat) : Nat := (s.tilePart t).getD 0

/-- Tiles of a group mask, ascending (R20). -/
def groupTiles (mask : Nat) : List Nat :=
  ((List.range 16).filter (bit mask ·)).flatMap (fun g => (List.range 64).map (64 * g + ·))

/-- Tiles of partition p, ascending (R476). -/
def State.partTiles (s : State) (p : Nat) : List Nat := groupTiles (s.partHome p)

/-- Index of a tile within its partition's mask, counted in ascending tile number (R175). -/
def tileIndex (mask t : Nat) : Nat := 64 * countIdx (bit mask ·) (t / 64) + t % 64

/-- Apply a change to every tile of a list. -/
def forTiles (ts : List Nat) (f : State → Nat → State) (s : State) : State := ts.foldl f s

/-- Is the tile group of tile t, port p or partition p held in a block reset (R508)? -/
def State.isolatedTile (s : State) (t : Nat) : Bool := s.pwr.blocks.any (fun b => b.1 == 1 && bit b.2 (t / 64))

/-- Power state in force (R524). -/
def State.powerState (s : State) : Nat := s.getF aPwrStatus 2 0

/-- A wake event: recorded and counted; it abandons an entry or starts the return to P0 (R518). -/
def State.wake (s : State) (cause : Nat) : State :=
  if (s.powerState = 0 ∧ s.getF aPwrStatus 11 11 = 0) ∨ s.pwr.waking then s
  else
    let s := (s.setF aPwrStatus 15 12 cause).cnt aCntPwrWake
    let s := if s.powerState = 0 then { s with pwr := { s.pwr with entryAt := s.hoop } } else s
    ({ s with pwr := { s.pwr with waking := true } }).setF aPwrStatus 11 11 0

/-! ### Fault posts -/

/-- Post a contained fault of tile t with the unit and the address or status that it names: SQ_FAULT records the last
fault, the sequencer enters FAULTED, rim event 0x75, and the fault goes to the MP (R186, R207, R210, R445, R463). -/
def State.containedBy (s : State) (t cause entry source addr : Nat) : State :=
  let s := s.wrN (aSqFault t) (cause % 256 + (entry % 2 ^ 20) * 256 + 2 ^ 28)
  let s := s.setSq t sqFaulted 0
  let s := s.post (rimTile t 0) 0x75 entry cause
  { s with faults := s.faults ++ [{ part := s.tilePartD t, tile := some t, cause, entry, source, addr }] }

/-- A contained fault of tile t; the address is that of its last scratchpad or GAB error where the cause is one. -/
def State.contained (s : State) (t cause entry : Nat) : State :=
  s.containedBy t cause entry 1 (if cause = 2 ∨ cause = 4 ∨ cause = 9 then s.rdN (aSpadErrAddr t) else 0)

/-- Current entry of tile t's sequencer (R208). -/
def State.pc (s : State) (t : Nat) : Nat := s.getF (aSqPc t) 19 0

/-- Record a scratchpad or GAB error in SPAD_ERR_STATUS and SPAD_ERR_ADDR, its counter, and rim event 0x64 or 0x65
(R168, R171, R172): kind 0 corrected, 1 parity, 2 uncorrectable. -/
def State.spadErr (s : State) (t kind : Nat) (gab : Bool) (entry addr : Nat) : State :=
  let st := s.rdN (aSpadErrStatus t)
  let any := bits st 3 1 ≠ 0
  let bank := if gab then addr / 32 % 16 else bits addr 20 17
  let st := setBits (setBits st 9 6 bank) 5 5 (b2n gab)
  let st := st ||| (2 ^ (kind + 1)) ||| (if any then 16 else 0)
  let s := (s.wrN (aSpadErrStatus t) st).wrN (aSpadErrAddr t) addr
  match kind with
  | 0 => s.cnt (aCntSpadCorr t)
  | 1 => (s.cnt (aCntSpadParity t)).post (rimTile t 0) 0x65 entry addr
  | _ => (s.cnt (aCntSpadUncorr t)).post (rimTile t 0) 0x64 entry addr

/-- Do the detailed counters of tile t run (R561, R562)? -/
def State.detail (s : State) (t : Nat) : Bool := s.getF (aTileCntCtrl t) 0 0 == 1

/-- Count n cycles, one by default, under a detailed stall cause of engine e (R562). -/
def State.stall (s : State) (t e k : Nat) (n : Nat := 1) : State := if s.detail t then s.cnt (aCntStall t e k) n else s

/-- A free value of w bits: the model's opaque constant applied to its counter, which advances. -/
def State.draw (s : State) (f : Nat → Nat) : Nat × State := (f s.free, { s with free := s.free + 1 })

end Sys2Proof.Machine
end

