-- ==== Sys2Proof/Machine/Arb.lean ====
section
/-! DEFINITION. The shared-resource arbiter: priorities, forced wins, losses and sit-outs (R249–R257). -/
namespace Sys2Proof.Machine

/-! ### Arbiters (R251, R252, R255, R257) -/

/-- Arbiter number inst. -/
def State.arb (s : State) (inst : Nat) : Arbiter := mapGet {} s.mem.arbs inst
def State.setArb (s : State) (inst : Nat) (a : Arbiter) : State :=
  { s with mem := { s.mem with arbs := mapPut {} s.mem.arbs inst a } }
/-- Requester r of an arbiter. -/
def Arbiter.req (a : Arbiter) (r : Nat) : ArbReq := mapGet {} a.reqs r
def Arbiter.put (a : Arbiter) (r : Nat) (q : ArbReq) : Arbiter := { a with reqs := mapPut {} a.reqs r q }

/-- Control register of an instance (R257). -/
def arbCtrl (inst : Nat) : Nat :=
  if inst < 32768 then aSpadArbCtrl (inst / 32)
  else if inst < 33792 then aSpadPortArbCtrl (inst - 32768)
  else if inst < 33796 then aL2cArbCtrl (inst - 33792)
  else if inst < 33800 then aSyncArbCtrl (inst - 33796)
  else aLnkEgrArbCtrl (inst - 33800)

/-- Priority of requester r (R256, R257): a scratchpad bank favours its owner. -/
def State.arbPrio (s : State) (inst r : Nat) : Nat :=
  if inst < 32768 then
    (if inst % 32 < 16 then b2n (decide (bits (s.rdN (aSpadBankOwner (inst / 32))) (4 * (inst % 32) + 3) (4 * (inst % 32)) = r))
     else 0)
  else if inst < 33792 then 0
  else if inst < 33796 then bits (s.rdN (aL2cArbPrio (inst - 33792))) (4 * r + 3) (4 * r)
  else if inst < 33800 then bits (s.rdN (aSyncArbPrio (inst - 33796))) (4 * r + 3) (4 * r)
  else bits (s.rdN (aLnkEgrPrio (inst - 33800))) (4 * r + 3) (4 * r)

/-- wait_limit of an instance; 0 means 65,536 (R255). -/
def State.waitLimit (s : State) (inst : Nat) : Nat :=
  let w := s.getF (arbCtrl inst) 15 0
  if w = 0 then 65536 else w

/-- Best of some requesters by priority, then by the given second measure, then round-robin after the last winner. -/
def State.arbBest (s : State) (inst : Nat) (second : Nat → Nat) (rs : List Nat) : Option Nat :=
  let last := (s.arb inst).last
  let rank (r : Nat) : Nat := (r + 31 - last) % 16
  rs.foldl (fun b r => match b with
    | none => some r
    | some x =>
      if s.arbPrio inst x < s.arbPrio inst r then some r
      else if s.arbPrio inst r < s.arbPrio inst x then some x
      else if second x < second r then some r
      else if second r < second x then some x
      else if rank r < rank x then some r else some x) none

/-- The requesters that are forced and those that are eligible among the live ones. -/
def State.arbForced (s : State) (inst : Nat) (live : List Nat) : List Nat :=
  live.filter (fun r => decide (s.waitLimit inst ≤ ((s.arb inst).req r).wait))
def State.arbEligible (s : State) (inst : Nat) (live : List Nat) : List Nat :=
  live.filter (fun r => ((s.arb inst).req r).out == 0 || decide (s.waitLimit inst ≤ ((s.arb inst).req r).wait))

/-- The winner that R251 gives. -/
def State.arbWinner (s : State) (inst : Nat) (live : List Nat) : Option Nat :=
  let f := s.arbForced inst live
  if f.isEmpty then s.arbBest inst (fun _ => 0) (s.arbEligible inst live)
  else s.arbBest inst (fun r => ((s.arb inst).req r).wait) f

/-- Book one decision (R251, R254): every eligible loser has a loss and a new sit-out; every other sit-out runs down by one;
live requesters that are not served wait on. The winner that is served is cleared; one whose grant lapses waits on. -/
def State.arbBook (s : State) (inst : Nat) (live : List Nat) (w : Option Nat) (served : Bool) : State :=
  let c := s.rdN (arbCtrl inst)
  let base := bits c 19 16
  let ceiling := if bits c 27 20 = 0 then 1 else bits c 27 20
  let el := s.arbEligible inst live
  let a := (List.range 16).foldl (fun (a : Arbiter) r =>
    let q := a.req r
    if served && w == some r then a.put r {}
    else
      let lost := el.contains r && w != some r
      let loss := if lost then q.loss + 1 else q.loss
      let out := if lost then (if base = 0 then 0 else min (base * 2 ^ (loss - 1)) ceiling) else q.out - 1
      a.put r { wait := if live.contains r then min (q.wait + 1) 65536 else q.wait, loss, out }) (s.arb inst)
  s.setArb inst { a with last := w.getD a.last }

/-- Book a decision whose winner is served. -/
def State.arbServe (s : State) (inst : Nat) (live : List Nat) (w : Nat) : State := s.arbBook inst live (some w) true

/-- A requester withdraws: it leaves no state behind (R254). -/
def State.arbWithdraw (s : State) (inst r : Nat) : State := s.setArb inst ((s.arb inst).put r {})

end Sys2Proof.Machine
end

