-- ==== Sys2Proof/Machine/HostCore.lean ====
section
/-! DEFINITION. Records, the reply ring, events, interrupts, sticky records and the fatal state (R445, R463–R468, R504). -/
namespace Sys2Proof.Machine

/-! ### Records (R463) -/

/-- Replace the host interface. -/
def State.onHost (s : State) (f : HostIf → HostIf) : State := { s with host := f s.host }

/-- HOOP_NOW as a record shows it: during a freeze, the value at which the freeze took effect (R463). -/
def State.recordHoop (s : State) : Nat :=
  if s.getF aDbgFreezeStatus 10 10 = 1 then s.rdN aDbgFreezeHoop else s.hoop

/-- A record of 32 bytes with phase 0; the ring sets its phase and its hoop value when it is written. -/
def State.record (s : State) (tag code status part d0 d1 : Nat) (event : Bool) : List Byte :=
  leBytes 2 tag ++ leBytes 2 code ++ leBytes 1 status ++ leBytes 1 (if event then 2 else 0) ++ leBytes 1 part
    ++ leBytes 1 0 ++ leBytes 8 d0 ++ leBytes 8 d1 ++ leBytes 8 s.recordHoop

/-- Write bytes into host memory. -/
def HostIf.put (h : HostIf) (addr : Nat) (data : List Byte) : HostIf :=
  { h with mem := (data.zip (List.range data.length)).foldl (fun m x => mapPut 0 m ((addr + x.2) % 2 ^ 64) x.1) h.mem }

/-! ### Interrupts (R468, R469) -/

/-- Send one message of a vector, or set its pending bit while it is masked. -/
def State.sendMsi (s : State) (v : Nat) : State :=
  let s := s.onHost (fun h => { h with since := mapPut 0 h.since v 0 })
  if s.getF aHifStatus 2 0 = 2 ∧ 1 < v then s
  else if mapGet false s.host.unmasked v then
    s.onHost (fun h => { h with messages := mapPut 0 h.messages v (mapGet 0 h.messages v + 1) })
  else s.onHost (fun h => { h with pend := mapPut false h.pend v true })

/-- Vector of a record by its partition field and, for an event, its code. -/
def recordVector (part code : Nat) (event : Bool) : Nat :=
  if part = 255 then (if event ∧ (code = 4 ∨ code = 10) then 1 else 0) else 2 + part

/-- A record of a vector has been written: coalesce, or send at once. -/
def State.notify (s : State) (v : Nat) : State :=
  let n := mapGet 0 s.host.since v + 1
  let c := s.getF aHifRingCtrl 15 8
  if v = 1 ∨ c ≤ 1 ∨ c ≤ n then s.sendMsi v else s.onHost (fun h => { h with since := mapPut 0 h.since v n })

/-! ### The ring (R465, R466) -/

/-- Entries of the ring. -/
def State.ringSize (s : State) : Nat := 2 ^ s.getF aHifRingCtrl 4 0

/-- Is the ring in use? -/
def State.ringOn (s : State) : Bool := s.getF aHifRingCtrl 7 7 == 1

/-- Records written and not consumed. -/
def State.ringUsed (s : State) : Nat := (s.rdN aHifRingTail + 2 ^ 32 - s.rdN aHifRingHead) % 2 ^ 32

/-- May a record be written? -/
def State.ringRoom (s : State) : Bool := s.ringOn && decide (s.ringUsed < s.ringSize)

/-- Byte i of a record as a number. -/
def recByte (r : List Byte) (i : Nat) : Nat := (r.getD i 0).toNat

/-- Write a record into the ring: at index c mod N with phase (c div N + 1) mod 2, and its interrupt (R465, R468). -/
def State.ringWrite (s : State) (r : List Byte) : State :=
  let c := s.rdN aHifRingTail
  let n := s.ringSize
  let phase := (c / n + 1) % 2
  let flags := recByte r 5
  let r := r.take 24 ++ leBytes 8 s.recordHoop
  let r := r.set 5 (BitVec.ofNat 8 (flags / 2 * 2 + phase))
  let base := bits (s.rdN aHifRingBase) 63 12 * 4096
  let event := bit flags 1
  let s := s.onHost (fun h => { h.put (base + 32 * (c % n)) r with
    evRecs := if event then h.evRecs ++ [c] else h.evRecs })
  let s := s.wrN aHifRingTail ((c + 1) % 2 ^ 32)
  let s := s.cnt (if event then aCntHifEvents else aCntHifReplies)
  s.notify (recordVector (recByte r 6) (leVal ((r.drop 2).take 2)) event)

/-- Show the queues in HIF_PEND and HIF_STATUS (R471, R472). -/
def State.hifShow (s : State) : State :=
  let s := s.setF aHifPend 24 16 s.host.replyQ.length
  let s := s.setF aHifPend 10 0 s.host.running.length
  s.setF aHifStatus 28 18 s.host.fifo.length

/-- Write waiting replies while the ring has room (R456, R466). -/
def State.drainReplies : Nat → State → State
  | 0, s => s.hifShow
  | n + 1, s =>
    match s.host.replyQ with
    | [] => s.hifShow
    | r :: rest =>
      if s.ringRoom then drainReplies n ((s.onHost (fun h => { h with replyQ := rest })).ringWrite r) else s.hifShow

/-- Write a reply, or queue it; a ring that is full sets ring_full with event 0xD1 (R456, R466, R474). -/
def State.pushReply (s : State) (r : List Byte) : State :=
  if s.host.replyQ.isEmpty && s.ringRoom then (s.ringWrite r).hifShow
  else
    let s := if s.ringOn then
        (s.setF aHifStatus 8 8 1).postMp 0xD1 s.host.running.length (s.rdN aHifRingTail)
      else s
    (s.onHost (fun h => { h with replyQ := h.replyQ ++ [r] })).hifShow

/-- Queue an event record of up to 64; beyond, it is dropped and counted, but for FATAL (R466, R467). -/
def State.event (s : State) (code part d0 d1 : Nat) : State :=
  if s.host.eventQ.length < 64 ∨ code = 4 then
    s.onHost (fun h => { h with eventQ := h.eventQ ++ [s.record 0 code 0 part d0 d1 true] })
  else (s.cnt aCntHifEventLost).onHost (fun h => { h with lost := h.lost + 1 })

/-- Change HIF_STATUS.mode, with a MODE_CHANGE record (R467, R471). -/
def State.setMode (s : State) (m : Nat) : State :=
  if s.getF aHifStatus 2 0 = m then s else (s.setF aHifStatus 2 0 m).event 10 255 m 0

/-! ### Packets (R457) -/

def pktOpcode (p : List Byte) : Nat := leVal (p.take 2)
def pktTag (p : List Byte) : Nat := leVal ((p.drop 2).take 2)
def pktPart (p : List Byte) : Nat := recByte p 4
def pktSize (p : List Byte) : Nat := recByte p 5
/-- Little-endian field of n bytes at a packet offset. -/
def pktField (p : List Byte) (o n : Nat) : Nat := leVal ((p.drop o).take n)

/-- Reply to a packet. -/
def State.reply (s : State) (p : List Byte) (status d0 d1 : Nat) : State :=
  s.pushReply (s.record (pktTag p) (pktOpcode p) status (pktPart p) d0 d1 false)

/-- Reply status codes (R464). -/
def stOk : Nat := 0
def stBadOpcode : Nat := 1
def stBadLength : Nat := 2
def stBadParam : Nat := 3
def stBadPartition : Nat := 4
def stBadState : Nat := 5
def stNoResource : Nat := 6
def stRejected : Nat := 7
def stAuthFail : Nat := 8
def stAborted : Nat := 10
def stFault : Nat := 11
def stRecovery : Nat := 12
def stFatal : Nat := 13
def stHostDma : Nat := 14

/-- The running command with an opcode for a partition field. -/
def State.runOf (s : State) (op part : Nat) : Option Run :=
  s.host.running.find? (fun r => decide (pktOpcode r.pkt = op ∧ pktPart r.pkt = part))

/-- End a running command with a reply. -/
def State.endRun (s : State) (r : Run) (status d0 d1 : Nat) : State :=
  let s := s.onHost (fun h => { h with running := h.running.erase r })
  if r.mute then s.hifShow else s.reply r.pkt status d0 d1

/-- End the running command of an opcode and partition, where there is one. -/
def State.finish (s : State) (op part status d0 d1 : Nat) : State :=
  match s.runOf op part with
  | some r => s.endRun r status d0 d1
  | none => s

/-- Fault detail words of R463. -/
def faultDetail (cause source : Nat) (tile : Option Nat) (entry : Nat) : Nat :=
  cause % 256 + (source % 256) * 256 + (tile.getD 0x3FF % 1024) * 2 ^ 16 + (entry % 2 ^ 20) * 2 ^ 28

/-! ### The retained store and the fatal state (R445, R504) -/

/-- Put a record at RST_STICKY_0; the others move up one place (R504). -/
def State.sticky (s : State) (cause : Nat) : State :=
  let s := (List.range 15).foldl (fun s i => s.wr (aRstSticky (15 - i)) (s.rd (aRstSticky (14 - i)))) s
  s.wrN (aRstSticky 0) (2 ^ 63 + cause * 2 ^ 48 + s.hoop % 2 ^ 48)

/-- Abandon what a sequencer runs: it stops at once, without a stop point (R445, R506). -/
def State.abandon (s : State) (t : Nat) : State :=
  if s.sq t = sqIdle ∨ s.sq t = sqLoaded then s else s.setSq t sqStopped 0

end Sys2Proof.Machine
end

