-- ==== Sys2Proof/Machine/Port.lean ====
section
/-! DEFINITION. The transmit side and the state changes of a port: flits, CRC, credits, egress, replay, retrain, DOWN
(R347–R358, R364–R367). -/
namespace Sys2Proof.Machine

/-! ### CRC-64 (R348) -/

/-- Eight shifts of the CRC register. -/
def crcShift : Nat → Nat → Nat
  | 0, c => c
  | n + 1, c => crcShift n (if 2 ^ 63 ≤ c then (2 * c % 2 ^ 64) ^^^ 0x42F0E1EBA9EA3693 else 2 * c)

/-- CRC-64 of bytes: polynomial 0x42F0_E1EB_A9EA_3693, no reflection, initial value and final XOR of all ones. -/
def crc64 (l : List Byte) : Nat :=
  (l.foldl (fun c b => crcShift 8 (c ^^^ (b.toNat <<< 56))) (2 ^ 64 - 1)) ^^^ (2 ^ 64 - 1)

/-! ### Headers (R347) -/

/-- Header of a flit as a number. -/
def flitHdr (f : List Byte) : Nat := leVal (f.take 8)
def hdrType (h : Nat) : Nat := bits h 63 62
def hdrVc (h : Nat) : Nat := bits h 61 59
def hdrSeq (h : Nat) : Nat := bits h 58 47
def hdrAck (h : Nat) : Nat := bits h 46 35
def hdrNak (h : Nat) : Bool := bit h 34
def hdrHeld (h : Nat) : Bool := bit h 33
/-- Which of the nine totals the header carries; 8 is the shared pool. -/
def hdrTotalOf (h : Nat) : Nat := if bit h 32 then 8 else bits h 31 29
def hdrTotal (h : Nat) : Nat := bits h 28 16
def hdrFirst (h : Nat) : Nat := bits h 15 12
def hdrShared (h : Nat) : Bool := bit h 11

/-- Is a flit whole: 256 bytes whose stored CRC is that of bytes 0–247 (R348)? -/
def flitGood (f : List Byte) : Bool := f.length == 256 && leVal (f.drop 248) == crc64 (f.take 248)

/-! ### Ports and states (R364, R376) -/

def lkDisabled : Nat := 0
def lkDetect : Nat := 1
def lkTrain : Nat := 2
def lkAlign : Nat := 3
def lkInit : Nat := 4
def lkAuth : Nat := 5
def lkActive : Nat := 6
def lkRetrain : Nat := 7
def lkQuarantine : Nat := 8
def lkFrozen : Nat := 9
def lkDown : Nat := 10

/-- Port p. -/
def State.port (s : State) (p : Nat) : Port := mapGet {} s.ports p

/-- Update port p. -/
def State.onPort (s : State) (p : Nat) (f : Port → Port) : State := { s with ports := mapPut {} s.ports p (f (s.port p)) }

/-- State of port p. -/
def State.lk (s : State) (p : Nat) : Nat := s.getF (aLnkStatus p) 11 8

/-- Enter a state, with event 0xA0 (R364, R379). -/
def State.setLk (s : State) (p st : Nat) : State :=
  if s.lk p = st then s else (s.setF (aLnkStatus p) 11 8 st).post (rimPort p) 0xA0 st (s.lk p)

/-- A protocol error: counted, with event 0xA7 (R378, R379). -/
def State.protoError (s : State) (p what hdr : Nat) : State := (s.cnt (aCntLnkProto p)).post (rimPort p) 0xA7 what (bits hdr 63 16)

/-! ### Sending flits -/

/-- Build a flit: the header with its ack, nak, held and the next of the totals that have changed, which then stands last in their
rotation, the payload, and the CRC (R347, R348, R358). -/
def State.buildFlit (s : State) (p ftype vc seq first : Nat) (sh : Bool) (payload : List Byte) : List Byte × State :=
  let q := s.port p
  let idx := q.due.headD 0
  let h := ftype * 2 ^ 62 + vc * 2 ^ 59 + seq * 2 ^ 47 + ((q.expect + 4095) % 4096) * 2 ^ 35 + b2n q.nak * 2 ^ 34
    + b2n (s.lk p == lkFrozen) * 2 ^ 33 + (if idx = 8 then 2 ^ 32 else idx * 2 ^ 29)
    + (mapGet 0 q.freed idx) * 2 ^ 16 + first * 2 ^ 12 + b2n sh * 2 ^ 11
  let body := leBytes 8 h ++ (payload ++ List.replicate (240 - payload.length) 0)
  (body ++ leBytes 8 (crc64 body), s.onPort p (fun q => { q with due := q.due.drop 1 ++ q.due.take 1 }))

/-- Put a flit on the lanes. -/
def State.sendFlit (s : State) (p ftype vc seq first : Nat) (sh : Bool) (payload : List Byte) : State :=
  let (f, s) := s.buildFlit p ftype vc seq first sh payload
  s.onPort p (fun q => { q with wire := q.wire ++ [f], run := if ftype = 1 then q.run + 1 else 0 })

/-- Send an idle flit: a zero payload under the header that every flit has (R349, R367). -/
def State.sendIdle (s : State) (p : Nat) : State := s.sendFlit p 0 0 0 0xF false []

/-- Fill a flit slot that no data flit takes: with a CREDIT flit where several totals have changed, else with an idle flit (R350,
R358, R361; when a CREDIT flit is due is a DESIGN CHOICE, log entry 85). -/
def State.sendOther (s : State) (p : Nat) : State :=
  let q := s.port p
  if 2 ≤ q.due.length then
    s.sendFlit p 2 0 0 0xF false ([1, 0, 0, 0] ++ (List.range 9).flatMap (fun i => leBytes 2 (mapGet 0 q.freed i)))
  else s.sendIdle p

/-- Send a control flit whose payload starts with its ctype; a type that needs an answer is kept until answered (R361). -/
def State.sendCtl (s : State) (p : Nat) (payload : List Byte) (needsAnswer : Bool) : State :=
  let s := s.sendFlit p 2 0 0 0xF false payload
  if needsAnswer then
    s.onPort p (fun q => { q with unanswered := q.unanswered.filter (fun c => c.head? ≠ payload.head?) ++ [payload] })
  else s

/-- A control flit of a type has been answered. -/
def State.answered (s : State) (p ctype : Nat) : State :=
  s.onPort p (fun q => { q with unanswered := q.unanswered.filter (fun c => decide (recByte c 0 ≠ ctype)) })

/-- The payload of a time-channel flit with the transmit stamp in each second unit of a TIME packet: one that follows a first
unit, or that goes on from the flit before (R363). -/
def stampTime (hoop first : Nat) (b : List Byte) : List Byte :=
  (List.range 15).flatMap (fun u =>
    let x := (b.drop (16 * u)).take 16
    let second := if first = 15 then u == 0 else (u + 16 - first) % 2 == 1
    if second && (u == 0 || !((b.drop (16 * (u - 1))).take 16).all (· == 0)) then x.take 8 ++ leBytes 8 hoop else x)

/-- Send one data flit again or for the first time: 240 payload bytes are counted (R378). One of sixteen slots is kept from data
(R350), and a time-channel flit takes its stamp as it leaves (R363). -/
def State.sendData (s : State) (p : Nat) (f : TxFlit) : State :=
  let s := if 15 ≤ (s.port p).run then s.sendOther p else s
  let payload := if f.vc = 6 then stampTime s.hoop f.first f.payload else f.payload
  (s.sendFlit p 1 f.vc f.seq f.first f.sh payload).cnt (aCntLnkTxBytes p) 240

/-! ### Egress (R349, R351, R357, R359, R362) -/

/-- Fill a payload from packets: bytes, the unit offset of the first packet start, what is left, and whether the first
of that is partly sent. -/
def fillFlit : Bool → List (List Byte) → Nat → List Byte × Option Nat × List (List Byte) × Bool
  | _, [], _ => ([], none, [], false)
  | mid, x :: r, off =>
    if 240 ≤ off then ([], none, x :: r, mid)
    else
      let f := if mid then none else some (off / 16)
      if x.length ≤ 240 - off then
        let (b, f', r', m') := fillFlit false r (off + x.length)
        (x ++ b, f.orElse (fun _ => f'), r', m')
      else (x.take (240 - off), f, x.drop (240 - off) :: r, true)

/-- Has channel v a dedicated credit, or a shared one that it may use (R357)? -/
def State.dedicated (s : State) (p v : Nat) : Bool := s.getF (aLnkTxCredit p v) 12 0 ≠ 0
def State.sharedOk (s : State) (p v : Nat) : Bool :=
  s.getF (aLnkTxShared p) 12 0 ≠ 0 && decide (((s.port p).inUse.filter (· == v)).length < nth (s.port p).peerShared v)

/-- Does a port in its present state send data flits of channel v (R364)? -/
def State.sends (s : State) (p v : Nat) : Bool := s.lk p == lkActive || (s.lk p == lkAuth && v == 5)

/-- Channels that present a request for egress (R259, R364): a flit to send, a credit, and a state that carries it. -/
def State.egressLive (s : State) (p : Nat) : List Nat :=
  let q := s.port p
  if min 2047 q.window ≤ q.retry.length then []
  else (List.range 7).filter (fun v =>
    s.sends p v && !(mapGet [] q.waiting v).isEmpty
      && (s.dedicated p v || s.sharedOk p v))

/-- Send one data flit of channel v. -/
def State.sendVc (s : State) (p v : Nat) : State :=
  let q := s.port p
  let ws := mapGet [] q.waiting v
  let (b, f, rest, mid) := fillFlit (mapGet false q.mid v) ws 0
  let sh := !s.dedicated p v
  let s := if sh then s.setF (aLnkTxShared p) 12 0 (s.getF (aLnkTxShared p) 12 0 - 1)
    else s.setF (aLnkTxCredit p v) 12 0 (s.getF (aLnkTxCredit p v) 12 0 - 1)
  let t : TxFlit := { seq := q.next, vc := v, sh, first := f.getD 0xF, payload := b ++ List.replicate (240 - b.length) 0 }
  let s := s.onPort p (fun q => { q with
    next := (q.next + 1) % 4096, retry := q.retry ++ [t], waiting := mapPut [] q.waiting v rest,
    mid := mapPut false q.mid v mid, inUse := if sh then q.inUse ++ [v] else q.inUse })
  s.sendData p t

/-- Channels that lose a decision of the egress, or sit it out, count it (R378). -/
def State.egressLost (s : State) (p : Nat) (live : List Nat) (w : Option Nat) : State :=
  (live.filter (fun v => w != some v)).foldl (fun s v => s.cnt (aCntLnkVcWait p v)) s

/-- Send waiting packets as long as a channel may send; a decision in which every such channel sits out passes (R251, R257,
R259). -/
def State.pumpN (p : Nat) : Nat → State → State
  | 0, s => s
  | n + 1, s =>
    let live := s.egressLive p
    if live.isEmpty then s
    else
      let w := s.arbWinner (33800 + p) live
      let s := s.egressLost p live w
      match w with
      | none => pumpN p n (s.arbBook (33800 + p) live none false)
      | some v => pumpN p n ((s.arbServe (33800 + p) live v).sendVc p v)

/-- Send what may be sent on port p. -/
def State.pump (s : State) (p : Nat) : State := State.pumpN p 2048 s

/-- Queue a packet on a channel of a port and send what may be sent. -/
def State.enqueue (s : State) (p v : Nat) (pkt : List Byte) : State :=
  (s.onPort p (fun q => { q with waiting := mapPut [] q.waiting v (mapGet [] q.waiting v ++ [pkt]) })).pump p

/-! ### Retrain, replay, DOWN (R353, R354, R365–R367) -/

/-- Enter RETRAIN for a cause; in FROZEN the condition is kept for later. Changes of lane maps that are under way are dropped: the
maps that both ends applied stay (R365, R367, R369). -/
def State.enterRetrain (s : State) (p cause : Nat) : State :=
  let st := s.lk p
  if st = lkFrozen then s.onPort p (fun q => { q with retrainDue := some cause })
  else if st = lkAuth ∨ st = lkActive ∨ st = lkQuarantine then
    let s := if cause = 3 then s else s.sendCtl p [8] false
    let s := s.onPort p (fun q => { q with saved := st, retrainCause := cause, retrainAt := s.hoop, replays := 0,
                                            txChange := none, rxChange := none,
                                            unanswered := q.unanswered.filter (fun c => decide (recByte c 0 ≠ 6)) })
    (s.cnt (aCntLnkRetrain p)).setLk p lkRetrain
  else s

/-- Send every held flit from a sequence number on that the state admits (R353, R364). -/
def State.resend (s : State) (p start : Nat) : State :=
  let q := s.port p
  (q.retry.filter (fun f => s.sends p f.vc && decide ((f.seq + 4096 - start) % 4096 < 2048))).foldl (fun s f => s.sendData p f) s

/-- A replay from a sequence number; the eighth without ack progress is replaced by a retrain (R353, R354). While the
peer is held, the count stands still (R367). -/
def State.replay (s : State) (p start : Nat) : State :=
  let q := s.port p
  let held := s.getF (aLnkStatus p) 2 2 == 1
  let old := if q.replayFrom = start then q.replays else 0
  let n := if held then old else old + 1
  if 8 ≤ n then s.enterRetrain p 2
  else
    let s := s.onPort p (fun q => { q with replayFrom := start, replayAt := some s.hoop, replays := n })
    ((s.cnt (aCntLnkReplay p)).post (rimPort p) 0xA1 start n).resend p start

/-- Forget what a link keeps between initialisations: sequence numbers, credits, buffers and the exchange (R364, R366). -/
def Port.fresh (q : Port) : Port :=
  { waiting := q.waiting.map (fun x => (x.1, if mapGet false q.mid x.1 then x.2.drop 1 else x.2)),
    wire := q.wire, neighbour := q.neighbour, txVersion := q.txVersion, rxVersion := q.rxVersion,
    syms := q.syms, symWindow := q.symWindow, run := q.run, slot := q.slot, cfg := q.cfg, limits := q.limits }

/-- Discard the retry buffer, counting its flits (R366). -/
def State.discardRetry (s : State) (p : Nat) : State :=
  (s.cnt (aCntLnkDiscard p) (s.port p).retry.length).onPort p (·.fresh)

/-- Enter DOWN: the discard, events 0xA0 and 0xA2, down_event, and the host's PORT_DOWN record (R366, R467). -/
def State.goDown (s : State) (p : Nat) : State :=
  if s.lk p = lkDown ∨ s.lk p = lkDisabled then s
  else
    let prev := s.lk p
    let n := (s.port p).retry.length
    let s := (s.discardRetry p).setLk p lkDown
    let s := (s.post (rimPort p) 0xA2 prev n).setF (aLnkStatus p) 0 0 1
    s.event 5 255 p (s.port p).neighbour

/-- A port is disabled at once (R374). -/
def State.disablePort (s : State) (p : Nat) : State := ((s.setF (aLnkCfg p) 0 0 0).setLk p lkDisabled).onPort p (·.fresh)

/-- A fatal fault: every partition stops, every port is DISABLED, ALERT_N is asserted, the cause goes to the sticky error
log, and the host hears FATAL alone from then on (R445). -/
def State.fatal (s : State) (cause : Nat) : State :=
  let s := forTiles (s.tiles.map (·.1)) (fun s t => s.abandon t) s
  let s := (List.range 16).foldl (fun s p => s.disablePort p) s
  let s := ({ s with pwr := { s.pwr with alert := true } }).sticky cause
  (s.setF aHifStatus 2 0 3).event 4 255 cause 0

end Sys2Proof.Machine
end

