-- ==== Sys2Proof/Machine/Float.lean ====
section
/-! DEFINITION. Number formats, exact values, rounding and conversion (R39–R67, R607). -/
namespace Sys2Proof.Machine

/-- The format codes of R39. -/
inductive Fmt
  | fp64 | fp32 | fp16 | bf16 | e4m3 | e5m2 | e3m2 | e2m3 | e2m1 | int8 | int4
  deriving DecidableEq, Repr

/-- Format code to format; 0xB–0xF are reserved (R39). -/
def Fmt.ofCode : Nat → Option Fmt
  | 0 => some .fp64 | 1 => some .fp32 | 2 => some .fp16 | 3 => some .bf16 | 4 => some .e4m3
  | 5 => some .e5m2 | 6 => some .e3m2 | 7 => some .e2m3 | 8 => some .e2m1 | 9 => some .int8
  | 10 => some .int4 | _ => none

/-- Storage bits of a format (R39). -/
def Fmt.width : Fmt → Nat
  | .fp64 => 64 | .fp32 => 32 | .fp16 => 16 | .bf16 => 16 | .e4m3 => 8 | .e5m2 => 8
  | .e3m2 => 6 | .e2m3 => 6 | .e2m1 => 4 | .int8 => 8 | .int4 => 4

/-- Pass count: storage width divided by four, rounded up (R40). -/
def Fmt.passes (f : Fmt) : Nat := (f.width + 3) / 4

/-- Integer formats (R44). -/
def Fmt.isInt : Fmt → Bool
  | .int8 => true | .int4 => true | _ => false

/-- Short floats, codes 0x4–0x8. -/
def Fmt.isShort : Fmt → Bool
  | .e4m3 => true | .e5m2 => true | .e3m2 => true | .e2m3 => true | .e2m1 => true | _ => false

/-- Wide floats, codes 0x0–0x3. -/
def Fmt.isWide : Fmt → Bool
  | .fp64 => true | .fp32 => true | .fp16 => true | .bf16 => true | _ => false

/-- Mantissa bits M (R42). -/
def Fmt.man : Fmt → Nat
  | .fp64 => 52 | .fp32 => 23 | .fp16 => 10 | .bf16 => 7 | .e4m3 => 3 | .e5m2 => 2
  | .e3m2 => 2 | .e2m3 => 3 | .e2m1 => 1 | .int8 => 0 | .int4 => 0

/-- Exponent bits E (R42). -/
def Fmt.exp : Fmt → Nat
  | .fp64 => 11 | .fp32 => 8 | .fp16 => 5 | .bf16 => 8 | .e4m3 => 4 | .e5m2 => 5
  | .e3m2 => 3 | .e2m3 => 2 | .e2m1 => 2 | .int8 => 0 | .int4 => 0

/-- Exponent bias (R42). -/
def Fmt.bias : Fmt → Nat
  | .fp64 => 1023 | .fp32 => 127 | .fp16 => 15 | .bf16 => 127 | .e4m3 => 7 | .e5m2 => 15
  | .e3m2 => 3 | .e2m3 => 1 | .e2m1 => 1 | .int8 => 0 | .int4 => 0

/-- Formats whose all-ones exponent is reserved for infinity and NaN, as IEEE 754 (R43). -/
def Fmt.hasInf : Fmt → Bool
  | .fp64 => true | .fp32 => true | .fp16 => true | .bf16 => true | .e5m2 => true | _ => false

/-- Formats that hold a NaN (R43). -/
def Fmt.hasNaN : Fmt → Bool
  | .e4m3 => true | f => f.hasInf

/-- Code of the largest finite magnitude (R43). -/
def Fmt.maxCode : Fmt → Nat
  | .e4m3 => 0x7E
  | f => if f.hasInf then (2 ^ f.exp - 1) * 2 ^ f.man - 1 else 2 ^ (f.width - 1) - 1

/-- Code of positive infinity, where the format has one. -/
def Fmt.infCode (f : Fmt) : Nat := (2 ^ f.exp - 1) * 2 ^ f.man

/-- The canonical NaN of a format (R46); +0 where the format has none (R63). -/
def Fmt.nanCode : Fmt → Nat
  | .e4m3 => 0x7F
  | f => if f.hasInf then f.infCode + 2 ^ (f.man - 1) else 0

/-- An exact value: a NaN, an infinity, or (−1)^neg × m × 2^e. -/
inductive FVal
  | nan
  | inf (neg : Bool)
  | fin (neg : Bool) (m : Nat) (e : Int)
  deriving DecidableEq, Repr

/-- The value an encoding stands for (R42–R44, R49 aside). -/
def Fmt.decode (f : Fmt) (c : Nat) : FVal :=
  if f.isInt then
    let i := signedOf f.width c
    .fin (i < 0) i.natAbs 0
  else
    let neg := bit c (f.width - 1)
    let mag := c % 2 ^ (f.width - 1)
    let e := mag / 2 ^ f.man
    let m := mag % 2 ^ f.man
    if f = .e4m3 ∧ mag = 0x7F then .nan
    else if f.hasInf && e == 2 ^ f.exp - 1 then (if m = 0 then .inf neg else .nan)
    else if e = 0 then .fin neg m (1 - (f.bias : Int) - f.man)
    else .fin neg (m + 2 ^ f.man) ((e : Int) - f.bias - f.man)

/-- An E8M0 block scale's exponent; none is the scale NaN 0xFF (R49). -/
def scaleExp (c : Nat) : Option Int := if c % 256 = 255 then none else some ((c % 256 : Nat) - 127)

/-- Sign of a value; a NaN reads as positive. -/
def FVal.neg : FVal → Bool
  | .nan => false | .inf n => n | .fin n _ _ => n

/-- Is the value a NaN? -/
def FVal.isNaN : FVal → Bool
  | .nan => true | _ => false

/-- Is the value an infinity? -/
def FVal.isInf : FVal → Bool
  | .inf _ => true | _ => false

/-- Is the value a zero of either sign? -/
def FVal.isZero : FVal → Bool
  | .fin _ 0 _ => true | _ => false

/-- Negation of the sign; a NaN stays a NaN. -/
def FVal.negate : FVal → FVal
  | .nan => .nan | .inf n => .inf (!n) | .fin n m e => .fin (!n) m e

/-- Magnitude. -/
def FVal.abs : FVal → FVal
  | .nan => .nan | .inf _ => .inf false | .fin _ m e => .fin false m e

/-- Exact product (IEEE 754; 0 × ∞ is a NaN, R47). -/
def FVal.mul : FVal → FVal → FVal
  | .nan, _ => .nan
  | _, .nan => .nan
  | .inf a, .inf b => .inf (xor a b)
  | .inf a, .fin b m _ => if m = 0 then .nan else .inf (xor a b)
  | .fin a m _, .inf b => if m = 0 then .nan else .inf (xor a b)
  | .fin a m e, .fin b n f => .fin (xor a b) (m * n) (e + f)

/-- Multiply by a power of two, exactly (R51). -/
def FVal.scale (k : Int) : FVal → FVal
  | .fin n m e => .fin n m (e + k)
  | v => v

/-- Exact sum (IEEE 754, round-to-nearest zero signs: an exact zero from opposite signs is +0). -/
def FVal.add : FVal → FVal → FVal
  | .nan, _ => .nan
  | _, .nan => .nan
  | .inf a, .inf b => if a = b then .inf a else .nan
  | .inf a, .fin _ _ _ => .inf a
  | .fin _ _ _, .inf b => .inf b
  | .fin a m e, .fin b n f =>
    if m = 0 ∧ n = 0 then .fin (a && b) 0 e
    else if m = 0 then .fin b n f
    else if n = 0 then .fin a m e
    else
      let g := min e f
      let x : Int := (if a then -1 else 1) * (m <<< (e - g).toNat : Nat)
      let y : Int := (if b then -1 else 1) * (n <<< (f - g).toNat : Nat)
      .fin (x + y < 0) (x + y).natAbs g

/-- Ordering of two finite or infinite values by value; NaN operands answer false (R48). -/
def FVal.lt : FVal → FVal → Bool
  | .nan, _ => false
  | _, .nan => false
  | .inf a, .inf b => a && !b
  | .inf a, .fin _ _ _ => a
  | .fin _ _ _, .inf b => !b
  | .fin a m e, .fin b n f =>
    let g := min e f
    let x : Int := (if a then -1 else 1) * (m <<< (e - g).toNat : Nat)
    let y : Int := (if b then -1 else 1) * (n <<< (f - g).toNat : Nat)
    x < y

/-- Equality by value; −0 equals +0, a NaN equals nothing (R48). -/
def FVal.eqv (a b : FVal) : Bool := !a.isNaN && !b.isNaN && !a.lt b && !b.lt a

/-- Order with −0 below +0, for MIN, MAX, RMIN and RMAX (R48). -/
def FVal.ltz (a b : FVal) : Bool :=
  a.lt b || (a.isZero && b.isZero && a.neg && !b.neg)

/-- minimumNumber of IEEE 754-2019 (R48). -/
def FVal.minNum (a b : FVal) : FVal :=
  if a.isNaN then b else if b.isNaN then a else if b.ltz a then b else a

/-- maximumNumber of IEEE 754-2019 (R48). -/
def FVal.maxNum (a b : FVal) : FVal :=
  if a.isNaN then b else if b.isNaN then a else if a.ltz b then b else a

/-- The rounding modes of R59; stochastic carries the lane's 16 random bits. -/
inductive Rnd
  | nearest | zero | stochastic (r : Nat)
  deriving DecidableEq, Repr

/-- Round m × 2^e to a multiple of 2^q under R60: the kept integer and whether bits were lost. -/
def roundQ (r : Rnd) (m : Nat) (e q : Int) : Nat × Bool :=
  if q ≤ e then (m <<< (e - q).toNat, false)
  else
    let k := (q - e).toNat
    let n := m >>> k
    let rem := m % 2 ^ k
    let up := match r with
      | .nearest => decide (2 ^ k < 2 * rem) || (decide (2 * rem = 2 ^ k) && n % 2 == 1)
      | .zero => false
      | .stochastic x => decide (65536 ≤ (rem <<< 16) >>> k + x % 65536)
    ((if up then n + 1 else n), rem ≠ 0)

/-- The quantum exponent of a magnitude m × 2^e in a float format, the exponent range open above (R60). -/
def Fmt.quantum (f : Fmt) (m : Nat) (e : Int) : Int :=
  max ((Nat.log2 m : Int) + e) (1 - (f.bias : Int)) - f.man

/-- Encoding of a rounded magnitude n × 2^q with 2^(man+1) ≥ n and q its quantum. -/
def Fmt.magCode (f : Fmt) (n : Nat) (q : Int) : Nat :=
  let (n, q) := if n = 2 ^ (f.man + 1) then (2 ^ f.man, q + 1) else (n, q)
  if n < 2 ^ f.man then n
  else (q + f.man + f.bias).toNat * 2 ^ f.man + (n - 2 ^ f.man)

/-! The bits of VE_FP_STATUS (R67). -/
def fNanSeen : Nat := 1
def fInvalid : Nat := 2
def fOverflow : Nat := 4
def fSaturated : Nat := 8
def fUnderflow : Nat := 16
def fInexact : Nat := 32
def fNanDropped : Nat := 64

/-- Sign bit of a format put on a magnitude code. -/
def Fmt.signed (f : Fmt) (neg : Bool) (c : Nat) : Nat := if neg then c + 2 ^ (f.width - 1) else c

/-- What an overflowing magnitude becomes (R62): saturating or infinite, with its flag. -/
def Fmt.overflow (f : Fmt) (sat neg : Bool) : Nat × Nat :=
  if f.isInt then
    ((if neg then 2 ^ (f.width - 1) else 2 ^ (f.width - 1) - 1), fSaturated)
  else if sat || !f.hasNaN then (f.signed neg f.maxCode, fSaturated)
  else if f = .e4m3 then (0x7F, fOverflow)
  else (f.signed neg f.infCode, fOverflow)

/-- Convert an exact finite magnitude to a float format under rounding and overflow rules (R60, R62): code and flags. -/
def Fmt.roundFin (f : Fmt) (r : Rnd) (sat neg : Bool) (m : Nat) (e : Int) : Nat × Nat :=
  if m = 0 then (f.signed neg 0, 0)
  else
    let q := f.quantum m e
    let (n, lost) := roundQ r m e q
    let c := f.magCode n q
    if c > f.maxCode then
      if r = .zero then (f.signed neg f.maxCode, fSaturated + fInexact)
      else
        let (o, fl) := f.overflow sat neg
        (o, fl + fInexact)
    else
      (f.signed neg c,
        (if lost then fInexact + (if c < 2 ^ f.man then fUnderflow else 0) else 0))

/-- Convert an exact finite value to an integer format (R65). -/
def Fmt.roundInt (f : Fmt) (r : Rnd) (neg : Bool) (m : Nat) (e : Int) : Nat × Nat :=
  let (n, lost) := roundQ r m e 0
  let lim := if neg then 2 ^ (f.width - 1) else 2 ^ (f.width - 1) - 1
  if n > lim then
    let (o, fl) := f.overflow true neg
    (o, fl + fInexact)
  else (unsignedOf f.width (if neg then -(n : Int) else n), if lost then fInexact else 0)

/-- The overflow field of R59 resolved for a destination: does it saturate? -/
def Fmt.saturates (f : Fmt) (ovf : Nat) : Bool :=
  if ovf = 0 then f.width ≤ 8 else ovf == 1

/-- Conversion of an exact value to a format (R60–R65) with the flags of R607. -/
def Fmt.convert (f : Fmt) (r : Rnd) (ovf : Nat) : FVal → Nat × Nat
  | .nan => (f.nanCode, fNanSeen + (if f.hasNaN then 0 else fNanDropped))
  | .inf neg =>
    if f.saturates ovf || !f.hasNaN then ((f.overflow true neg).1, fSaturated)
    else if f = .e4m3 then (0x7F, fInvalid)
    else (f.signed neg f.infCode, 0)
  | .fin neg m e =>
    if f.isInt then f.roundInt r neg m e else f.roundFin r (f.saturates ovf) neg m e

/-- Round-to-nearest-even into a float format with infinities on overflow: VE arithmetic (R57) and GAB adds. -/
def Fmt.roundNE (f : Fmt) : FVal → Nat × Nat
  | .nan => (f.nanCode, 0)
  | .inf neg => (f.signed neg f.infCode, 0)
  | .fin neg m e => f.roundFin .nearest false neg m e

/-- round_acc of R53 with the flush of R54, for the FP32 and FP64 accumulation formats. -/
def Fmt.roundAcc (f : Fmt) (v : FVal) : Nat :=
  let c := (f.roundNE v).1
  let mag := c % 2 ^ (f.width - 1)
  if mag < 2 ^ f.man then f.signed (bit c (f.width - 1)) 0 else c

/-- A MAC operand's value: FP32 and FP64 subnormals read as zero of the same sign (R54). -/
def Fmt.macOperand (f : Fmt) (c : Nat) : FVal :=
  let mag := c % 2 ^ (f.width - 1)
  if (f = .fp32 ∨ f = .fp64) ∧ mag < 2 ^ f.man then .fin (bit c (f.width - 1)) 0 0 else f.decode c

/-- emax of R66: the exponent of the destination's largest finite value. -/
def Fmt.emax : Fmt → Int
  | .e4m3 => 8 | .e5m2 => 15 | .e3m2 => 4 | .e2m3 => 2 | .e2m1 => 2 | _ => 0

/-- floor(log2 |v|) of a nonzero finite value. -/
def FVal.ilog2 : FVal → Int
  | .fin _ m e => (Nat.log2 m : Int) + e
  | _ => 0

/-- The block's largest magnitude among its values. -/
def maxMag (l : List FVal) : FVal := l.foldl (fun a v => if a.lt v.abs then v.abs else a) (.fin false 0 0)

/-- The scale code of the block-quantise form (R66). -/
def blockScale (f : Fmt) (l : List FVal) : Nat :=
  if l.any (fun v => v.isNaN || v.isInf) then 0xFF
  else if l.all (·.isZero) then 0
  else
    let e := max (-127) (min 127 ((maxMag l).ilog2 - f.emax))
    (e + 127).toNat

/-- Block-quantise (R66): the elements' codes under per-lane rounding, the scale and the flags (R67, R607). -/
def blockQuantise (f : Fmt) (ovf : Nat) (l : List (FVal × Rnd)) : List Nat × Nat × Nat :=
  let vs := l.map (·.1)
  let anyNaN := vs.any (·.isNaN)
  if vs.any (fun v => v.isNaN || v.isInf) then
    (l.map (fun _ => 0), 0xFF, fNanDropped + (if anyNaN then fNanSeen else fInvalid))
  else if vs.all (·.isZero) then (vs.map (fun v => f.signed v.neg 0), 0, 0)
  else
    let sc := blockScale f vs
    let r := l.map (fun p => f.convert p.2 ovf (p.1.scale (127 - (sc : Int))))
    (r.map (·.1), sc, (r.map (·.2)).foldl (· ||| ·) 0)

end Sys2Proof.Machine
end

