-- ==== Sys2Proof/Machine/Operands.lean ====
section
/-! DEFINITION. Operand forms: slath entries, engine payloads, address patterns, queue fields and handles
(R178–R185, R215–R216, R220–R236). -/
namespace Sys2Proof.Machine

/-! ### Slath entries (R178–R182). An entry is the 512-bit little-endian number of its 64 bytes. -/

def entKind (e : Nat) : Nat := bits e 31 28
def entTarget (e : Nat) : Nat := bits e 27 25
def entNy (e : Nat) : Bool := bit e 24
def entRp (e : Nat) : Bool := bit e 23
def entBh (e : Nat) : Bool := bit e 22
/-- Base register k of an entry (R179). -/
def entBreg (e k : Nat) : Nat := bits e (5 * k + 4) (5 * k)
/-- Sync slot k, 40 bits (R178). -/
def entSlot (e k : Nat) : Nat := bits e (32 + 40 * k + 39) (32 + 40 * k)
/-- The 320-bit payload (R178, R211). -/
def entPayload (e : Nat) : Nat := bits e 511 192

/-- Entry kinds (R180). -/
def kEngine : Nat := 1
def kSync : Nat := 2
def kLoop : Nat := 3
def kNext : Nat := 4
def kParam : Nat := 5
def kWindow : Nat := 6
def kMark : Nat := 7
def kEnd : Nat := 15

/-- Is wait slot k of an entry enabled (R181)? -/
def waitEn (e k : Nat) : Bool := bit (entSlot e k) 39
/-- Is signal slot k (2 or 3) enabled (R182)? -/
def sigEn (e k : Nat) : Bool := bit (entSlot e k) 39

/-- Sign extension of an n-bit number into 32 bits modulo 2^32. -/
def sext32 (n v : Nat) : Nat := unsignedOf 32 (signedOf n v)

/-- The waited value of wait slot k: s[vreg] + imm modulo 2^32 (R181). -/
def State.waitVal (s : State) (t e k : Nat) : Nat :=
  let w := entSlot e k
  (s.sreg t (bits w 38 34) % 2 ^ 32 + sext32 16 (bits w 15 0)) % 2 ^ 32

/-- Absolute object of a partition-relative index on tile t (R190). -/
def State.absObj (s : State) (t rel : Nat) : Nat := (s.part (s.tilePartD t)).syncBase + rel

/-- Object of wait slot k, absolute. -/
def State.waitObj (s : State) (t e k : Nat) : Nat := s.absObj t (bits (entSlot e k) 29 16)

/-- A signal slot with its registers read (R182). -/
def State.readSig (s : State) (t w : Nat) : Sig :=
  let set := bit w 38
  let remote := bit w 37
  let amount := bits w 15 0
  let obj := bits w 29 16
  { set, remote,
    dev := if remote then s.sreg t (bits w 36 32) % 2 ^ 16 else 0,
    obj := if remote then obj else s.absObj t obj,
    val := if set then s.sreg t (amount % 32) % 2 ^ 32 else amount }

/-- The enabled signals of an entry in slot order, 2 then 3 (R193). -/
def State.entrySigs (s : State) (t e : Nat) : List Sig :=
  ([2, 3].filter (sigEn e ·)).map (fun k => s.readSig t (entSlot e k))

/-! ### Address patterns (R215, R216). -/

/-- A level from its word (R215). -/
def levelOf (w : Nat) : Level := { stride := signedOf 43 (bits w 63 21), count := bits w 20 0 }

/-- The six levels of pattern slot p of tile t (R215); slot 0 is fixed. -/
def State.pattern (s : State) (t p : Nat) : List Level :=
  if p = 0 then List.replicate 6 { stride := 0, count := 1 }
  else (List.range 6).map (fun w => levelOf (s.rdN (aTilePat t p w)))

/-- Steps of a pattern: the product of its counts (R216). -/
def patSteps (p : List Level) : Nat := p.foldl (fun n l => n * l.count) 1

/-- Offset of step n: mixed-radix indices times strides; the sequence repeats after the last step (R216). -/
def patOffset : List Level → Nat → Int
  | [], _ => 0
  | l :: r, n => l.stride * (n % l.count : Nat) + patOffset r (n / l.count)

/-- Index of level k at step n. -/
def patIndex : List Level → Nat → Nat → Nat
  | [], _, _ => 0
  | l :: _, n, 0 => n % l.count
  | l :: r, n, k + 1 => patIndex r (n / l.count) k

/-- Generated address of step n in an address unit of `width` bits (R216). -/
def genAddr (width : Nat) (p : List Level) (base n : Nat) : Nat :=
  unsignedOf width ((base : Int) + patOffset p n)

/-- Lowest and highest offset of a pattern (R236). -/
def patLow (p : List Level) : Int := p.foldl (fun a l => if l.stride < 0 then a + l.stride * (l.count - 1 : Nat) else a) 0
def patHigh (p : List Level) : Int := p.foldl (fun a l => if 0 < l.stride then a + l.stride * (l.count - 1 : Nat) else a) 0

/-- Is a base, and every stride whose count exceeds 1, a multiple of the alignment unit (R218)? -/
def patAligned (unit : Nat) (p : List Level) (base : Nat) : Bool :=
  base % unit == 0 && p.all (fun l => decide (l.count ≤ 1) || decide (l.stride % (unit : Int) = 0))

/-- The lowest-numbered listed slot with a zero count (R217). -/
def State.zeroSlot (s : State) (t : Nat) (slots : List Nat) : Option Nat :=
  (slots.filter (fun p => (s.pattern t p).any (fun l => l.count == 0))).head?

/-! ### Queue fields and handles (R233–R235). -/

def qfPen (q : Nat) : Bool := bit q 11
def qfPq (q : Nat) : Nat := bits q 10 7
def qfHen (q : Nat) : Bool := bit q 6
def qfHq (q : Nat) : Nat := bits q 5 2
def qfRole (q : Nat) : Bool := bit q 1
def qfFill (q : Nat) : Bool := bit q 0

/-- Base byte address of a handle: bank × 0x2_0000 + 32 × word (R234). -/
def handleBase (h : Nat) : Nat := bits h 3 0 * 0x20000 + 32 * bits h 15 4
/-- Length of a handle in bytes. -/
def handleLen (h : Nat) : Nat := 32 * bits h 28 16
/-- Fill bit. -/
def handleFill (h : Nat) : Bool := bit h 63

/-! ### MAC payload (R220) -/

def macForm (p : Nat) : Nat := bits p 107 106
def macCen (p : Nat) : Bool := bit p 105
def macSfmt (p : Nat) : Nat := bits p 111 108
def macTfmt (p : Nat) : Nat := bits p 115 112
def macSsc (p : Nat) : Bool := bit p 116
def macTsc (p : Nat) : Bool := bit p 117
def macKeep (p : Nat) : Bool := bit p 118
def macAccBase (p : Nat) : Nat := bits p 127 119
def macRows (p : Nat) : Nat := bits p 137 128
/-- k_rows and n_cols: 0 means 32 (R81). -/
def macK (p : Nat) : Nat := if bits p 142 138 = 0 then 32 else bits p 142 138
def macN (p : Nat) : Nat := if bits p 147 143 = 0 then 32 else bits p 147 143
def macDrainRows (p : Nat) : Nat := bits p 157 148
def macDgab (p : Nat) : Bool := bit p 158
def macPat0 (p : Nat) : Nat := bits p 90 84
def macPat1 (p : Nat) : Nat := bits p 97 91
def macPat3 (p : Nat) : Nat := bits p 104 98
def macBase (p k : Nat) : Nat := bits p (21 * k + 20) (21 * k)
/-- Queue field of operand k (R220). -/
def macQ (p k : Nat) : Nat := bits p (200 + 12 * k + 11) (200 + 12 * k)

/-- Accumulation of an operand pair (R52): FP64 0, FP32 1, INT32 2; none where the pair is not allowed. -/
def accKind (sf tf : Nat) : Option Nat :=
  match Fmt.ofCode sf, Fmt.ofCode tf with
  | some a, some b =>
    if a.isWide && b.isWide then
      (if a = b then (if a = .fp64 ∨ a = .fp32 then some 0 else some 1) else none)
    else if a.isShort && b.isShort then some 1
    else if a.isInt && b.isInt then some 2
    else none
  | _, _ => none

/-- Accumulator rows of an accumulation (R79). -/
def accRows (k : Nat) : Nat := if k = 0 then 256 else 512

/-! ### Guard fields: enable, object, and queue fields by payload kind (R220, R224, R227, R238). -/

/-- Low bit of the guard fields of a command: MAC 160, VE 191, SE 148. -/
def guardBit (target : Nat) : Nat := if target < 4 then 160 else if target = 4 then 191 else 148
def guardEn (target p : Nat) : Bool := bit p (guardBit target)
def guardObj (target p : Nat) : Nat := bits p (guardBit target + 14) (guardBit target + 1)
def guardReg (target p : Nat) : Nat := bits p (guardBit target + 19) (guardBit target + 15)
def guardImm (target p : Nat) : Nat := bits p (guardBit target + 35) (guardBit target + 20)

/-! ### VE payload (R224–R226) -/

def veVop (p : Nat) : Nat := bits p 319 318
def veQ (p k : Nat) : Nat := bits p (232 + 12 * k + 11) (232 + 12 * k)
def veOimm (p : Nat) : Nat := bits p 190 159
def veOreg (p : Nat) : Nat := bits p 158 154
def veOstream (p : Nat) : Nat := bits p 153 150
def veOen (p : Nat) : Bool := bit p 149
def veTail (p : Nat) : Nat := bits p 148 142
def veFsel (p : Nat) : Nat := bits p 141 140
/-- Interleave F (R224). -/
def veF (p : Nat) : Nat := 2 ^ veFsel p
def veKn (p : Nat) : Nat := bits p 139 130
def veKslot (p : Nat) : Nat := bits p 129 121
def veNpat (p : Nat) : Nat := bits p 118 112
def vePat (p k : Nat) : Nat := bits p (84 + 7 * k + 6) (84 + 7 * k)
def veBase (p k : Nat) : Nat := bits p (21 * k + 20) (21 * k)
def kloadBase (p : Nat) : Nat := bits p 20 0
def kloadImage (p : Nat) : Nat := bits p 68 21
def kloadKslot (p : Nat) : Nat := bits p 77 69
def kloadKn (p : Nat) : Nat := bits p 87 78

/-! ### SE payload (R227–R230) -/

def seSop (p : Nat) : Nat := bits p 319 317
def seQ (p k : Nat) : Nat := bits p (184 + 12 * k + 11) (184 + 12 * k)
def seReuse (p : Nat) : Nat := bits p 147 140
def seClass (p : Nat) : Nat := bits p 139 138
def seWen (p : Nat) : Bool := bit p 137
def seWnum (p : Nat) : Nat := bits p 136 133
def seEsize (p : Nat) : Nat := 2 ^ bits p 132 131
def seTrn (p : Nat) : Bool := bit p 130
def seCtxNo (p : Nat) : Nat := bits p 129 127
/-- Bytes per step: 32 × (chunk + 1) (R227). -/
def seBytes (p : Nat) : Nat := 32 * (bits p 126 119 + 1)
def seDevreg (p : Nat) : Nat := bits p 118 114
def seDkind (p : Nat) : Nat := bits p 113 112
def seSkind (p : Nat) : Nat := bits p 111 110
def sePat1 (p : Nat) : Nat := bits p 109 103
def sePat0 (p : Nat) : Nat := bits p 102 96
def seBase1 (p : Nat) : Nat := bits p 95 48
def seBase0 (p : Nat) : Nat := bits p 47 0
def ploadCount (p : Nat) : Nat := bits p 109 103
def ploadSlot (p : Nat) : Nat := bits p 102 96
def qpushN (p : Nat) : Nat := bits p 109 103
def qpushQ (p : Nat) : Nat := bits p 113 110
def auxBase (p : Nat) : Nat := bits p 20 0

/-- Place and width of operand k's base field in a payload; none where it has none (R183, R220, R224, R226–R230). -/
def baseField (target p k : Nat) : Option (Nat × Nat) :=
  if target < 4 then (if k < 4 then some (21 * k, 21) else none)
  else if target = 4 then
    (if veVop p = 0 then (if k < 4 then some (21 * k, 21) else none)
     else if k = 0 then some (0, 21) else none)
  else
    if seSop p = 0 then (if k = 0 then some (0, 48) else if k = 1 then some (48, 48) else none)
    else if k = 0 then some (0, 21) else none

/-- Width of the address that a base field holds, by the operand's kind (R183, R216). -/
def seKindWidth (kind : Nat) : Nat := if kind = 0 then 21 else if kind = 1 then 18 else 48

/-- The payload with s[bregk] added to each base field modulo its width (R183). -/
def State.baseSums (s : State) (t target e : Nat) : Nat :=
  (List.range 4).foldl (fun p k =>
    match baseField target p k with
    | some (lo, w) =>
      if entBreg e k = 0 then p
      else setBits p (lo + w - 1) lo ((bits p (lo + w - 1) lo + s.sreg t (entBreg e k)) % 2 ^ w)
    | none => p) (entPayload e)

/-- Queue fields of a command with the operand each belongs to; PLOAD, QPUSH and KLOAD have none (R232). -/
def cmdQueues (target p : Nat) : List (Nat × Nat) :=
  if target < 4 then (List.range 4).map (fun k => (k, macQ p k))
  else if target = 4 then (if veVop p = 0 then (List.range 4).map (fun k => (k, veQ p k)) else [])
  else if seSop p = 0 then (List.range 2).map (fun k => (k, seQ p k)) else []

/-- Pattern slots that a payload names (R213, R217). -/
def cmdPatterns (target p : Nat) : List Nat :=
  if target < 4 then [macPat0 p, macPat1 p, macPat3 p]
  else if target = 4 then
    (if veVop p = 0 then [vePat p 0, vePat p 1, vePat p 2, vePat p 3, veNpat p] else [])
  else if seSop p = 0 then [sePat0 p, sePat1 p] else []

end Sys2Proof.Machine
end

