-- ==== Sys2Proof/Machine/Spad.lean ====
section
/-! DEFINITION. Scratchpad and GAB accesses, error marks, windows (R136–R172). -/
namespace Sys2Proof.Machine

/-- Is a scratchpad address in a light-class bank (R136)? -/
def lightAddr (a : Nat) : Bool := bit a 20

/-- Key of the protected unit that holds a scratchpad byte: its 8 B parity group in a light-class bank, the first
group of its 32 B word in a strong-class bank (R142, R145). -/
def unitKey (a : Nat) : Nat := if lightAddr a then a / 8 else a / 32 * 4

/-- Size in bytes of the protected unit at an address. -/
def unitSize (a : Nat) : Nat := if lightAddr a then 8 else 32

/-- Byte at a scratchpad address. -/
def Tile.byte (x : Tile) (a : Nat) : Byte := mapGet 0 x.spad a

/-- What a read of scratchpad addresses meets: the data, the first address that fails parity, the first that is
uncorrectable (R143, R145, R147). -/
structure SpadRead where
  data : List Byte
  parity : Option Nat
  uncorr : Option Nat
  deriving DecidableEq, Repr

/-- Read a list of scratchpad addresses. -/
def Tile.readAt (x : Tile) (as : List Nat) : SpadRead :=
  { data := as.map (x.byte ·),
    parity := as.find? (fun a => lightAddr a && mapGet false x.spadBad (unitKey a)),
    uncorr := as.find? (fun a => !lightAddr a && mapGet false x.spadBad (unitKey a)) }

/-- Consecutive scratchpad addresses, running on across banks in address order (R262). -/
def spadRange (a n : Nat) : List Nat := (List.range n).map (fun i => (a + i) % 2 ^ 21)

/-- Addresses of a serial row: it continues at word 0 of its own bank (R222). -/
def bankRange (a n : Nat) : List Nat := (List.range n).map (fun i => a / 0x20000 * 0x20000 + (a + i) % 0x20000)

/-- Addresses of the striped VE access: register byte i in bank 4q + i ÷ 32 at the same word (R137). -/
def quadRange (a n : Nat) : List Nat :=
  (List.range n).map (fun i => (4 * bits a 20 19 + i / 32) * 0x20000 + 32 * bits a 16 5 + i % 32)

/-- The protected units that some addresses touch, each with an address in it, and whether the addresses cover the
whole unit. -/
def unitsOf (as : List Nat) : List (Nat × Bool) :=
  (as.map (fun a => (unitKey a, unitSize a))).eraseDups.map (fun u =>
    (u.1, (List.range u.2).all (fun i => as.contains (u.1 * 8 + i))))

/-- Write bytes at addresses. A unit wholly covered loses its mark; a unit covered in part is merged and keeps it, and
its merge is due to be written back (R141, R146). -/
def Tile.writeAt (x : Tile) (cs : List (Nat × Byte)) : Tile :=
  let us := unitsOf (cs.map (·.1))
  { x with
    spad := cs.foldl (fun m c => mapPut 0 m c.1 c.2) x.spad,
    spadBad := us.foldl (fun m u => if u.2 then mapPut false m u.1 false else m) x.spadBad,
    merges := us.foldl (fun m u => mapPut false m u.1 (!u.2)) x.merges }

/-- Mark the units of some addresses as failing: inverted parity, or check bytes that decode as uncorrectable (R270). -/
def Tile.markBad (x : Tile) (as : List Nat) : Tile :=
  { x with spadBad := as.foldl (fun m a => mapPut false m (unitKey a) true) x.spadBad }

/-- Read through a port of tile t: CNT_SPAD_RD_BYTES counts the bytes delivered (R171). -/
def State.spadRead (s : State) (t : Nat) (as : List Nat) : SpadRead × State :=
  ((s.tile t).readAt as, s.cnt (aCntSpadRdBytes t) as.length)

/-- Write through a port of tile t: CNT_SPAD_WR_BYTES counts the bytes written (R171). -/
def State.spadWrite (s : State) (t : Nat) (as : List Nat) (data : List Byte) : State :=
  (s.onTile t (·.writeAt (as.zip data))).cnt (aCntSpadWrBytes t) (as.zip data).length

/-! ### The GAB (R159–R165) -/

/-- Entry e of the GAB. -/
def Tile.gabEntry (x : Tile) (e : Nat) : Nat := (mapGet 0 x.gab (e % 262144)).toNat

/-- First entry of a list whose granule decodes as uncorrectable. -/
def Tile.gabUncorr (x : Tile) (es : List Nat) : Option Nat :=
  es.find? (fun e => mapGet false x.gabBad (e % 262144 / 8))

/-- Replace entries as an add does: the granule is read and written whole (R161). -/
def Tile.gabPut (x : Tile) (cs : List (Nat × Nat)) : Tile :=
  { x with gab := cs.foldl (fun m c => mapPut 0 m (c.1 % 262144) (BitVec.ofNat 32 c.2)) x.gab }

/-- Store entries; a granule wholly covered loses its mark, one covered in part is merged (R141, R146). -/
def Tile.gabWrite (x : Tile) (cs : List (Nat × Nat)) : Tile :=
  let es := cs.map (·.1 % 262144)
  let gs := (es.map (· / 8)).eraseDups.map (fun g => (g, (List.range 8).all (fun i => es.contains (g * 8 + i))))
  { x with
    gab := cs.foldl (fun m c => mapPut 0 m (c.1 % 262144) (BitVec.ofNat 32 c.2)) x.gab,
    gabBad := gs.foldl (fun m g => if g.2 then mapPut false m g.1 false else m) x.gabBad,
    gabMerges := gs.foldl (fun m g => mapPut false m g.1 (!g.2)) x.gabMerges }

/-- Read entries through a port, counting bytes (R171). -/
def State.gabRead (s : State) (t : Nat) (es : List Nat) : List Nat × State :=
  (es.map ((s.tile t).gabEntry ·), s.cnt (aCntGabRdBytes t) (4 * es.length))

/-- Write entries through a port, counting bytes (R171). -/
def State.gabStore (s : State) (t : Nat) (cs : List (Nat × Nat)) : State :=
  (s.onTile t (·.gabWrite cs)).cnt (aCntGabWrBytes t) (4 * cs.length)

/-- Byte a of the GAB. -/
def Tile.gabByte (x : Tile) (a : Nat) : Byte := BitVec.ofNat 8 (x.gabEntry (a / 4) / 256 ^ (a % 4))

/-- Store bytes of the GAB; a granule wholly covered loses its mark, one covered in part is merged (R141, R146). -/
def Tile.gabWriteBytes (x : Tile) (cs : List (Nat × Byte)) : Tile :=
  let gs := ((cs.map (·.1 / 32)).eraseDups).map (fun g => (g, (List.range 32).all (fun i => cs.any (·.1 == 32 * g + i))))
  { x with
    gab := cs.foldl (fun m c => mapPut 0 m (c.1 / 4 % 262144) (BitVec.ofNat 32
      (setBits (mapGet 0 m (c.1 / 4 % 262144)).toNat (8 * (c.1 % 4) + 7) (8 * (c.1 % 4)) c.2.toNat))) x.gab,
    gabBad := gs.foldl (fun m g => if g.2 then mapPut false m g.1 false else m) x.gabBad,
    gabMerges := gs.foldl (fun m g => mapPut false m g.1 (!g.2)) x.gabMerges }

/-- Bytes of GAB entries and back, for the SE and window paths (R160). -/
def gabBytes (l : List Nat) : List Byte := l.flatMap (leBytes 4 ·)
def gabOfBytes : List Byte → List Nat
  | a :: b :: c :: d :: r => leVal [a, b, c, d] :: gabOfBytes r
  | _ => []

/-- Fields of GAB_REGION_n (R169). -/
def regionValid (r : Nat) : Bool := bit r 63
def regionComp (r : Nat) : Bool := bit r 62
def regionProducer (r : Nat) : Nat := bits r 61 60
def regionLen (r : Nat) : Nat := bits r 50 32
def regionBase (r : Nat) : Nat := bits r 17 0

/-- First entry and end of the physical extent of a region image (R162, R164). -/
def regionExtent (r : Nat) : Nat × Nat := (regionBase r, regionBase r + regionLen r * (if regionComp r then 2 else 1))

/-- The rules of R162 on region image r of a tile with some arrays, beside the other valid regions. -/
def regionOk (arrays r : Nat) (others : List Nat) : Bool :=
  regionBase r % 8 == 0 && regionLen r % 8 == 0 && decide ((regionExtent r).2 ≤ 262144) && decide (regionProducer r < arrays) &&
  others.all (fun o => decide ((regionExtent r).2 ≤ (regionExtent o).1) || decide ((regionExtent o).2 ≤ (regionExtent r).1))

/-- Does the value keep the rules of R162 as region n of tile t? One that is not valid keeps them. -/
def State.regionWriteOk (s : State) (t n r : Nat) : Bool :=
  !regionValid r || regionOk s.arraysPerTile r
    (((List.range 32).filter (fun m => m != n && regionValid (s.rdN (aGabRegion t m)))).map (fun m => s.rdN (aGabRegion t m)))

/-- The lowest-numbered valid region whose logical range holds entries e to e + n − 1 (R163). -/
def State.regionOf (s : State) (t e n : Nat) : Option Nat :=
  firstIdx (fun k =>
    let r := s.rdN (aGabRegion t k)
    regionValid r && decide (regionBase r ≤ e ∧ e + n ≤ regionBase r + regionLen r)) 32

/-- The compensated region that holds an entry in its logical range, with the entry of its compensation (R164, R165). -/
def State.compPair (s : State) (t e : Nat) : Option Nat :=
  match s.regionOf t e 1 with
  | some k =>
    let r := s.rdN (aGabRegion t k)
    if regionComp r then some (e + regionLen r) else none
  | none => none

/-- Sum rounded to FP32 with subnormals kept (R161). -/
def gabSum (a b : Nat) : Nat := (Fmt.fp32.roundNE ((Fmt.fp32.decode a).add (Fmt.fp32.decode b))).1

/-- Add x into entry e: plain, or compensated on its pair (R161, R164). -/
def State.gabAdd (s : State) (t e x : Nat) : State :=
  let a := (s.tile t).gabEntry e
  let tt := gabSum a x
  match s.compPair t e with
  | none => s.onTile t (·.gabPut [(e, tt)])
  | some ce =>
    let v := Fmt.fp32.decode tt
    -- e = (s + y) − t, exact; +0 if t is infinite or NaN
    let err : FVal := match v with
      | .fin _ _ _ => ((Fmt.fp32.decode a).add (Fmt.fp32.decode x)).add v.negate
      | _ => .fin false 0 0
    let c := (Fmt.fp32.roundNE ((Fmt.fp32.decode ((s.tile t).gabEntry ce)).add err)).1
    s.onTile t (·.gabPut [(ce, c), (e, tt)])

/-! ### Windows (R149–R158) -/

/-- The source of a window access: its device and, for a tile, its number; none is a hub unit (R151, R400). -/
structure WinSource where
  dev : Nat
  tile : Option Nat
  deriving DecidableEq, Repr

/-- First byte and end of window n, clipped at the end of its space (R149, R155). -/
def State.winRange (s : State) (t n : Nat) : Nat × Nat :=
  let r := s.rdN (aSpadWinRange t n)
  let base := bits r 20 5 * 32
  let size := if bit r 62 then 2 ^ 20 else 2 ^ 21
  (base, min (base + bits r 53 37 * 32) size)

/-- Is window n open (R158)? -/
def State.winOpen (s : State) (t n : Nat) : Bool := s.getF (aSpadWinStatus t n) 0 0 == 1

/-- Check 1 of R151: the lowest-numbered open window of the space that contains the first byte. -/
def State.winFind (s : State) (t : Nat) (gab : Bool) (a : Nat) : Option Nat :=
  firstIdx (fun n => s.winOpen t n && (bit (s.rdN (aSpadWinRange t n)) 62 == gab) &&
    decide ((s.winRange t n).1 ≤ a ∧ a < (s.winRange t n).2)) 16

/-- Does a device ID lie in a range that wraps past 65,535, a count of 0 meaning every ID (R151, R156)? -/
def devIn (base count d : Nat) : Bool := count == 0 || decide ((d + 65536 - base % 65536) % 65536 < count)

/-- Check 3 of R151: the permitted-writer set. -/
def State.winWriter (s : State) (t n : Nat) (src : WinSource) : Bool :=
  let w := s.rdN (aSpadWinWriters t n)
  devIn (bits w 63 48) (bits w 47 32) src.dev &&
    (match src.tile with
     | some x => bit w (x / 64)
     | none => bit w 16)

/-- The window checks 1–4 in order: the status on failure and the window chosen (R151). -/
def State.winCheck (s : State) (t : Nat) (gab write : Bool) (a len : Nat) (src : WinSource) : Nat × Option Nat :=
  match s.winFind t gab a with
  | none => (0x21, none)
  | some n =>
    if (s.winRange t n).2 < a + len then (0x22, some n)
    else if !s.winWriter t n src then (0x23, some n)
    else if !write && !bit (s.rdN (aSpadWinRange t n)) 61 then (0x24, some n)
    else (0, some n)

/-- Count a refused access (R153, R158). -/
def State.winRefuse (s : State) (t a : Nat) (n : Option Nat) (src : WinSource) : State :=
  let s := s.cnt (aCntWinRefused t)
  let s := match n with
    | some k => s.setF (aSpadWinStatus t k) 17 2 (min 0xFFFF (s.getF (aSpadWinStatus t k) 17 2 + 1))
    | none => s
  s.post (rimTile t 0) 0x60 src.dev a

/-- What an arriving access does at tile t: status, window, data read, and the state (R147, R151–R153, R400). -/
def State.winAccess (s : State) (t : Nat) (gab write : Bool) (a len : Nat) (data : List Byte) (poison : Nat)
    (src : WinSource) : Nat × Option Nat × List Byte × State :=
  let (st, n) := s.winCheck t gab write a len src
  if st ≠ 0 then (st, n, [], s.winRefuse t a n src)
  else if gab then
    let as := (List.range len).map (a + ·)
    if write then
      let s := (s.onTile t (·.gabWriteBytes (as.zip data))).cnt (aCntGabWrBytes t) (as.zip data).length
      let bad := (List.range len).filter (fun i => bit poison (i / 32))
      (0, n, [], s.onTile t (fun x =>
        { x with gabBad := bad.foldl (fun m i => mapPut false m ((a + i) / 32) true) x.gabBad }))
    else match (s.tile t).gabUncorr (as.map (· / 4)) with
      | some e => (0x26, n, [], (s.spadErr t 2 true (s.pc t) (4 * e)).contained t 0x04 (s.pc t))
      | none => (0, n, as.map ((s.tile t).gabByte ·), s.cnt (aCntGabRdBytes t) len)
  else
    let as := spadRange a len
    if write then
      let s := s.spadWrite t as data
      let bad := (as.zip (List.range len)).filter (fun p => bit poison (p.2 / 32))
      (0, n, [], s.onTile t (·.markBad (bad.map (·.1))))
    else
      let (r, s) := s.spadRead t as
      match r.uncorr, r.parity with
      | some x, _ => (0x26, n, [], (s.spadErr t 2 false (s.pc t) x).contained t 0x04 (s.pc t))
      | none, some x => (0x25, n, [], s.spadErr t 1 false (s.pc t) x)
      | none, none => (0, n, r.data, s)

end Sys2Proof.Machine
end

