-- ==== Sys2Proof/Machine/FabCore.lean ====
section
/-! DEFINITION. The transport: packets, routing, peer contexts, outcomes of requests and answers to arriving ones
(R382–R397). -/
namespace Sys2Proof.Machine

/-! ### Requests of the memory system, in the order in which they reached their present stage (R31) -/

/-- Update request number id. -/
def State.onReq (s : State) (id : Nat) (f : Req → Req) : State :=
  { s with mem := { s.mem with reqs := s.mem.reqs.map (fun r => if r.id = id then f r else r) } }

/-- The request number id. -/
def State.findReq (s : State) (id : Nat) : Option Req := s.mem.reqs.find? (fun r => decide (r.id = id))

/-- Remove request number id. -/
def State.dropReq (s : State) (id : Nat) : State :=
  { s with mem := { s.mem with reqs := s.mem.reqs.filter (fun r => decide (r.id ≠ id)) } }

/-- Request number id, changed, comes behind all others: it sets out again, or its answer does. -/
def State.requeue (s : State) (id : Nat) (f : Req → Req) : State :=
  match s.findReq id with
  | some r => { s.dropReq id with mem := { (s.dropReq id).mem with reqs := (s.dropReq id).mem.reqs ++ [f r] } }
  | none => s

/-- A request answered: its answer sets out behind those sent before it. A read takes the data and their poison. -/
def Req.answer (r : Req) (status : Nat) (win : Option Nat) (data : List Byte) (poison : Nat) : Req :=
  { r with stage := .answered, bank := none, status, win, data := if r.write then r.data else data,
           poison := if r.write then r.poison else poison }

/-! ### Packets (R383, R384) -/

def pkDst (u0 : Nat) : Nat := bits u0 127 112
def pkSrc (u0 : Nat) : Nat := bits u0 111 96
def pkUnit (u0 : Nat) : Nat := bits u0 95 85
def pkCtx (u0 : Nat) : Nat := bits u0 84 72
def pkEpoch (u0 : Nat) : Nat := bits u0 71 64
def pkSeq (u0 : Nat) : Nat := bits u0 63 48
def pkHops (u0 : Nat) : Nat := bits u0 47 42
def pkSyn (u0 : Nat) : Bool := bit u0 41
def pkStatus (u0 : Nat) : Nat := bits u0 39 32
def pkLen (u0 : Nat) : Nat := bits u0 20 16
def pkType (u0 : Nat) : Nat := bits u0 7 0
def pkAddr (u1 : Nat) : Nat := bits u1 127 64
def pkOperand (u1 : Nat) : Nat := bits u1 63 32
def pkPoison (u1 : Nat) : Nat := bits u1 31 24
def pkWin (u1 : Nat) : Option Nat := if bit u1 19 then some (bits u1 23 20) else none
def pkClass (u1 : Nat) : Nat := bits u1 18 17
def pkReuse (u1 : Nat) : Nat := bits u1 16 9

/-- Header unit 0. -/
def mkU0 (dst src unit ctx epoch seq : Nat) (syn : Bool) (status plen ptype : Nat) : Nat :=
  dst * 2 ^ 112 + src * 2 ^ 96 + unit * 2 ^ 85 + ctx * 2 ^ 72 + epoch * 2 ^ 64 + seq * 2 ^ 48 + b2n syn * 2 ^ 41
    + status * 2 ^ 32 + plen * 2 ^ 16 + ptype

/-- Header unit 1. -/
def mkU1 (addr operand poison : Nat) (win : Option Nat) (cls reuse : Nat) : Nat :=
  addr * 2 ^ 64 + operand * 2 ^ 32 + poison % 256 * 2 ^ 24
    + (match win with | some w => w % 16 * 2 ^ 20 + 2 ^ 19 | none => 0) + cls % 4 * 2 ^ 17 + reuse % 256 * 2 ^ 9

/-- Payload units of some bytes. -/
def unitCount (n : Nat) : Nat := (n + 15) / 16

/-- A packet as bytes, its payload padded to whole units. -/
def packetBytes (u0 u1 : Nat) (payload : List Byte) : List Byte :=
  leBytes 16 u0 ++ leBytes 16 u1 ++ payload ++ List.replicate (16 * unitCount payload.length - payload.length) 0

/-- Virtual channel of a packet by its type and address (R384); a RESP has its request's address, and one that answers a SIGNAL
or SET, which alone name space 2, takes channel 2. -/
def pkVc (ptype addr : Nat) : Nat :=
  match ptype with
  | 1 => if bits addr 47 45 = 4 then 5 else 0
  | 2 => if bits addr 47 45 = 4 then 5 else 4
  | 3 => 2
  | 4 => 2
  | 5 => if bits addr 47 45 = 2 then 2 else 1
  | 6 => 3
  | 7 => 6
  | _ => 5

/-! ### Acceptance of SIGNAL and SET (R401) -/

/-- Does a requester lie in the device range of an acceptance register (R421)? -/
def inRange (r src : Nat) : Bool := devIn (bits r 63 48) (bits r 47 32) src

/-- The status of R401 for a SIGNAL or SET to object i; 0 where it is accepted. -/
def State.syncAccept (s : State) (i src : Nat) : Nat :=
  match firstIdx (fun p => s.partExists p &&
      decide ((s.part p).syncBase ≤ i ∧ i < (s.part p).syncBase + (s.part p).syncCount)) 16 with
  | none => 0x21
  | some p => if bit (s.rdN (aFabSyncAccept p)) 31 && inRange (s.rdN (aFabSyncAccept p)) src then 0 else 0x23

/-! ### Routing (R386, R387, R389) -/

/-- Flits that wait for egress on a channel of a port. -/
def State.egressFlits (s : State) (p v : Nat) : Nat := (((mapGet [] (s.port p).waiting v).map (·.length)).sum + 239) / 240

/-- Ports of a route entry that are valid and ACTIVE, in order. -/
def State.usable (s : State) (e : Nat) : List Nat :=
  ([bits e 4 0, bits e 9 5, bits e 14 10, bits e 19 15].filter (fun x => decide (16 ≤ x))).map (· % 16)
    |>.filter (fun p => s.lk p == lkActive)

/-- The egress port of a packet, or none for no route. -/
def State.route (s : State) (dst src ctx vc : Nat) : Option Nat :=
  let e := if dst / 256 = s.devId / 256 then s.rdN (aFabRouteLocal (dst % 256)) else s.rdN (aFabRouteRegion (dst / 256))
  let us := s.usable e
  match us with
  | [] => none
  | u :: _ =>
    if vc = 2 ∨ vc = 5 ∨ bits e 21 20 = 0 then some u
    else if bits e 21 20 = 1 then us[(src + 3 * dst + 7 * ctx) % 65536 % us.length]?
    else us.foldl (fun b p => match b with
      | none => some p
      | some x => if s.egressFlits p vc < s.egressFlits x vc then some p else some x) none

/-- Count and log a dropped packet (R389, R425). -/
def State.countDrop (s : State) (vc u0 status : Nat) : State :=
  (s.cnt (if status = 0x31 then aCntFabHoplimit else aCntFabNoroute)).postMp 0xB3 vc (pkDst u0 * 256 + status)

/-- Is an ID assigned? Without one only link-local packets are sent (R419). -/
def State.idValid (s : State) : Bool := s.getF aFabId 31 31 == 1

/-- Send a response; with no route it is dropped silently but for the count (R389). One for the own device is delivered at once
and meets no outstanding request, since none of the own device's has a peer context (R382, R387). -/
def State.emitResp (s : State) (u0 u1 : Nat) (payload : List Byte) (vc : Nat) : State :=
  if !s.idValid ∨ pkDst u0 = s.devId then s
  else match s.route (pkDst u0) (pkSrc u0) (pkCtx u0) vc with
  | some p => s.enqueue p vc (packetBytes u0 u1 payload)
  | none => s.countDrop vc u0 0x32

/-- The response to a request header with a status, data and window (R384, R400). -/
def State.respondTo (s : State) (u0 u1 status : Nat) (win : Option Nat) (data : List Byte) (poison : Nat) : State :=
  let r0 := mkU0 (pkSrc u0) s.devId 1024 (pkCtx u0) (pkEpoch u0) (pkSeq u0) false status (unitCount data.length) 5
  s.emitResp r0 (mkU1 (pkAddr u1) 0 poison win 0 0) data (if pkType u0 = 3 ∨ pkType u0 = 4 then 2 else 1)

/-- Drop a packet: a request's source is told, unless it is the device itself, whose request stays outstanding
(R389, R394). -/
def State.dropPacket (s : State) (vc u0 u1 status : Nat) : State :=
  let s := s.countDrop vc u0 status
  if pkType u0 = 5 ∨ pkSrc u0 = s.devId then s else s.respondTo u0 u1 status none [] 0

/-- Send a packet of a unit of the device. -/
def State.emit (s : State) (u0 u1 : Nat) (payload : List Byte) (vc : Nat) : State :=
  match s.route (pkDst u0) (pkSrc u0) (pkCtx u0) vc with
  | some p => s.enqueue p vc (packetBytes u0 u1 payload)
  | none => s.dropPacket vc u0 u1 0x32

/-! ### Outcomes of requests (R397) -/

/-- A fault that a hub unit posts to the MP. -/
def State.postFault (s : State) (part : Nat) (tile : Option Nat) (cause entry source addr : Nat) : State :=
  { s with faults := s.faults ++ [{ part, tile, cause, entry, source, addr }] }

/-- A run of the collective engine fails: CE_STATUS, event 0xB4, a fault of the partition; no done signal (R408). -/
def State.ceFail (s : State) (p d cause addr : Nat) : State :=
  match mapGet none (s.part p).ce d with
  | none => s
  | some o =>
    match o.run with
    | none => s
    | some _ =>
      let s := s.onPart p (fun x => { x with ce := mapPut none x.ce d (some { o with run := none, failed := true }) })
      let s := s.wrN aCeStatus (2 ^ 31 + p * 2 ^ 27 + d * 2 ^ 16 + cause * 2 ^ 8)
      (s.postMp 0xB4 d cause).postFault p none cause 0 3 addr

/-- Bytes put into a list at a place. -/
def patchAt (l : List Byte) (pos : Nat) (data : List Byte) : List Byte := l.take pos ++ data ++ l.drop (pos + data.length)

/-- The answer to a request of a collective run: data of its contribution, or one open request fewer; a failure ends the
run (R404, R408). -/
def State.ceAnswer (s : State) (p d id len status : Nat) (data : List Byte) : State :=
  match mapGet none (s.part p).ce d with
  | none => s
  | some o =>
    match o.run with
    | none => s
    | some u =>
      let rd := u.reads.find? (fun x => decide (x.1 = id))
      if rd.isNone ∧ !u.open_.contains id then s
      else if status ≠ 0 then s.ceFail p d (if status = 0x35 then 1 else if status = 0x30 then 3 else 4) status
      else
        let u := match rd with
          | some x => { u with reads := u.reads.erase x, raw := patchAt u.raw x.2 (fit len data) }
          | none => { u with open_ := u.open_.erase id }
        s.onPart p (fun x => { x with ce := mapPut none x.ce d (some { o with run := some u }) })

/-- The answer to a request of a MEM_COPY; the last one ends the command, and a failure ends it with FAULT (R462). -/
def State.copyAnswer (s : State) (p id len status : Nat) (data : List Byte) : State :=
  match (s.part p).copy with
  | none => s
  | some c =>
    match c.open_.find? (fun x => decide (x.1 = id)) with
    | none => s
    | some x =>
      if status ≠ 0 then
        (s.onPart p (fun y => { y with copy := none })).finish 0xA0 p stFault (if status = 0x30 then 4 else 0x10) status
      else
        let raw := if c.toHost then patchAt c.raw x.2 (fit len data) else c.raw
        let open_ := c.open_.erase x
        if open_.isEmpty then
          let s := s.onPart p (fun y => { y with copy := none })
          let s := if c.toHost then s.onHost (fun h => h.put c.host raw) else s
          s.finish 0xA0 p stOk c.raw.length 0
        else s.onPart p (fun y => { y with copy := some { c with raw, open_ } })

/-- The outcome of a tile's SIGNAL or SET: a refusal is a fault of its partition (R397). -/
def State.signalOutcome (s : State) (t status : Nat) : State :=
  if status = 0 then s else (s.postMp 0xB2 t status).postFault (s.tilePartD t) (some t) status 0 5 status

/-- The outcome of a request reaches who asked (R397). -/
def State.outcome (s : State) (r : OutReq) (status : Nat) (win : Option Nat) (data : List Byte) (poison : Nat) : State :=
  match r.asker with
  | .ctx _ _ _ => s.requeue r.id (fun q => q.answer status win (data.take q.len) poison)
  | .signal t => s.signalOutcome t status
  | .ce p d => s.ceAnswer p d r.id r.operand status data
  | .copy p => s.copyAnswer p r.id r.operand status data
  | .wale _ => s
  | .mp => s

/-! ### Peer contexts (R391–R395) -/

/-- Context number c. -/
def State.pctx (s : State) (c : Nat) : Option PeerCtx := mapGet none s.fab.ctxs c

/-- Replace context c; FAB_CTX_INUSE shows the number in use (R419). -/
def State.setCtxs (s : State) (m : List (Nat × Option PeerCtx)) : State :=
  ({ s with fab := { s.fab with ctxs := m } }).setF aFabCtxInuse 13 0 m.length
def State.putCtx (s : State) (c : Nat) (x : Option PeerCtx) : State := s.setCtxs (mapPut none s.fab.ctxs c x)

/-- The context of a peer. -/
def State.ctxOf (s : State) (peer : Nat) : Option Nat :=
  (s.fab.ctxs.find? (fun x => match x.2 with | some c => decide (c.peer = peer) | none => false)).map (·.1)

/-- The lowest number from k on that a list of rising keys does not hold. -/
def lowFree {α : Type} : Nat → List (Nat × α) → Nat
  | k, [] => k
  | k, (x, _) :: r => if x = k then lowFree (k + 1) r else k

/-- The context that gives way: least recently used, nothing outstanding, idle for idle_release (R391). -/
def State.idleCtx (s : State) : Option Nat :=
  let idle := s.getF aFabCfg 31 24 * 1200000
  (s.fab.ctxs.foldl (fun (b : Option (Nat × Nat)) x => match x.2 with
    | some c =>
      if c.outs.isEmpty && decide (c.used + idle ≤ s.hoop) then
        (match b with
         | some (u, k) => if c.used < u then some (c.used, x.1) else some (u, k)
         | none => some (c.used, x.1))
      else b
    | none => b) none).map (·.2)

/-- Take a context for a peer: its own, a free one, or one that gives way; none where there is none (R391). -/
def State.takeCtx (s : State) (peer : Nat) : Option (Nat × State) :=
  match s.ctxOf peer with
  | some c => some (c, s)
  | none =>
    let k := lowFree 0 s.fab.ctxs
    if k < 8192 then some (k, s.putCtx k (some { peer, used := s.hoop }))
    else match s.idleCtx with
      | some c => some (c, s.putCtx c (some { peer, used := s.hoop }))
      | none => none

/-- The packet of an outstanding request and its channel. -/
def State.sendOut (s : State) (c : Nat) (x : PeerCtx) (o : Outstanding) : State :=
  let r := o.req
  let vc := pkVc r.ptype r.addr
  let u0 := mkU0 r.dev s.devId (b2n r.hub * 1024 + r.unit) c x.epoch o.seq o.syn 0 (unitCount r.data.length) r.ptype
  let sp0 := (r.ptype = 1 ∨ r.ptype = 2) ∧ bits r.addr 47 45 = 0
  s.emit u0 (mkU1 r.addr r.operand r.poison none (if sp0 then r.cls else 0) (if sp0 then r.reuse else 0)) r.data vc

/-- Try to send a request: none while it must wait at its issuer (R391, R392). -/
def State.trySend (s : State) (r : OutReq) : Option State :=
  if !s.idValid then none
  else match s.takeCtx r.dev with
  | none => none
  | some (c, s) =>
    match s.pctx c with
    | none => none
    | some x =>
      if 64 ≤ x.outs.length then none
      else
        let syn := !x.isOpen
        let (x, s) := if x.isOpen then (x, s)
          else ({ x with isOpen := true, epoch := s.fab.epoch, next := 0, busies := 0 },
                { s with fab := { s.fab with epoch := (s.fab.epoch + 1) % 256 } })
        let o : Outstanding := { seq := x.next, syn, req := r, sent := s.hoop }
        let s := s.putCtx c (some { x with next := (x.next + 1) % 65536, outs := x.outs ++ [o], used := s.hoop })
        some (s.sendOut c x o)

/-- Does a request wait behind one that waits already: for the same peer, or, as that one does, for a context? -/
def State.behind (s : State) (r : OutReq) : Bool :=
  s.fab.outbox.any (fun q => decide (q.dev = r.dev) || ((s.ctxOf r.dev).isNone && (s.ctxOf q.dev).isNone))

/-- Hand a request to the transport: it goes out, or waits at its issuer (R391, R392); one for the own device takes no peer
context and waits there for its delivery (R382, R387). -/
def State.fabSend (s : State) (r : OutReq) : State :=
  match (if r.dev = s.devId ∨ s.behind r then none else s.trySend r) with
  | some s => s
  | none => { s with fab := { s.fab with outbox := s.fab.outbox ++ [r] } }

/-- Close a send half: every outstanding request completes with a status (R394, R395). -/
def State.closeHalf (s : State) (c status : Nat) : State :=
  match s.pctx c with
  | none => s
  | some x =>
    let s := s.putCtx c (some { x with isOpen := false, outs := [], busies := 0 })
    x.outs.foldl (fun s o => s.outcome o.req status none [] 0) s

/-- Free every peer context without answering; every outstanding request completes with UNREACHABLE (R395). -/
def State.freeCtxs (s : State) : State :=
  let outs := s.fab.ctxs.flatMap (fun x => match x.2 with | some c => c.outs.map (·.req) | none => [])
  let s := { s with fab := { s.fab with inreqs := [] } }
  outs.foldl (fun s r => s.outcome r 0x30 none [] 0) (s.setCtxs [])

/-- A fresh request number. -/
def State.newId (s : State) : Nat × State := (s.mem.nextId, { s with mem := { s.mem with nextId := s.mem.nextId + 1 } })

/-! ### Answers to arriving requests (R393, R400) -/

/-- Record the status of a request of a receive half. -/
def RxHalf.record (h : RxHalf) (seq status : Nat) : RxHalf :=
  { h with recs := h.recs.map (fun x => if x.1 = seq then (seq, some status) else x) }

/-- Answer a request that arrived from a port: the status is recorded in its receive half and goes out. -/
def State.fabAnswer (s : State) (ref status : Nat) (win : Option Nat) (data : List Byte) (poison : Nat) : State :=
  match s.fab.inreqs.find? (fun q => decide (q.ref = ref)) with
  | none => s
  | some q =>
    let s := { s with fab := { s.fab with inreqs := s.fab.inreqs.filter (fun q => decide (q.ref ≠ ref)) } }
    let s := match s.pctx q.ctx with
      | some x =>
        (match x.rx with
         | some h => if x.peer = pkSrc q.u0 ∧ h.epoch = pkEpoch q.u0
             then s.putCtx q.ctx (some { x with rx := some (h.record (pkSeq q.u0) status), used := s.hoop }) else s
         | none => s)
      | none => s
    s.respondTo q.u0 q.u1 status win data poison

/-- Source of a request that arrived from a port, as a window sees it (R400). -/
def State.fabSource (s : State) (ref : Nat) : WinSource :=
  match s.fab.inreqs.find? (fun q => decide (q.ref = ref)) with
  | some q => { dev := pkSrc q.u0, tile := if pkUnit q.u0 < 1024 then some (pkUnit q.u0) else none }
  | none => { dev := s.devId, tile := none }

end Sys2Proof.Machine
end

