-- ==== Sys2Proof/Config.lean ====
section
/-! DEFINITION. What one implementation fixes and the spec leaves open: constants without a body, so that nothing can
be proved of their values. -/
namespace Sys2Proof

/-- The free value of draw number n, 1,024 bits wide: entropy and every result that the spec calls unusable or does
not state. -/
opaque Config.freeValue : Nat → BitVec 1024
/-- Seed of the ballast generator of array m of tile t (R90 names its inputs and no value). -/
opaque Config.lfsrSeed : Nat → Nat → BitVec 31
/-- Activate count at which a module asks for refresh management (R327: the module's threshold). -/
opaque Config.rfmThreshold : Nat
/-- The device secret in OTP (R528). -/
opaque Config.deviceSecret : List Byte
/-- The certificate serial, 16 bytes, and the two certificates in DER (R534, R535). -/
opaque Config.serial : List Byte
opaque Config.deviceCert : List Byte
opaque Config.caCert : List Byte
/-- The public key that signs a CA certificate; the spec gives the hash that it must have, not where it comes from
(R528, R544). -/
opaque Config.rootKey : List Byte → List Byte
/-- The ROM's digest (R536). -/
opaque Config.romDigest : List Byte
/-- The maker's code in the JTAG IDCODE, which R597 does not give. -/
opaque Config.jtagMaker : BitVec 11
/-- The tick, −1, 0 or 1, that the rate trim adds at a 1,024-HCLK mark, from the last 16 offsets (R411 states no rule). -/
opaque Config.hoopTrim : List Int → Int
end Sys2Proof
end

