-- ==== Sys2Proof/Machine/Crypto.lean ====
section
/-! DEFINITION. SHAKE256 (FIPS 202), Ed448 in pure mode with a context (RFC 8032), and the parts of a certificate
(RFC 5280) that the device reads (R528, R529, R534). -/
namespace Sys2Proof.Machine

/-! ### SHAKE256 -/

/-- Rotate a 64-bit lane left. -/
def rotl64 (x n : Nat) : Nat := (x <<< n % 2 ^ 64) ||| (x >>> (64 - n))

/-- Rotation of lane x + 5y in ρ. -/
def rhoOffsets : List Nat :=
  [0, 1, 62, 28, 27, 36, 44, 6, 55, 20, 3, 10, 43, 25, 39, 41, 45, 15, 21, 8, 18, 2, 61, 56, 14]

/-- Round constants of ι. -/
def iotaConsts : List Nat :=
  [0x1, 0x8082, 0x800000000000808A, 0x8000000080008000, 0x808B, 0x80000001, 0x8000000080008081, 0x8000000000008009,
   0x8A, 0x88, 0x80008009, 0x8000000A, 0x8000808B, 0x800000000000008B, 0x8000000000008089, 0x8000000000008003,
   0x8000000000008002, 0x8000000000000080, 0x800A, 0x800000008000000A, 0x8000000080008081, 0x8000000000008080,
   0x80000001, 0x8000000080008008]

/-- One round of Keccak-f[1600] on 25 lanes. -/
def keccakRound (a : List Nat) (rc : Nat) : List Nat :=
  let c := (List.range 5).map (fun x => nth a x ^^^ nth a (x + 5) ^^^ nth a (x + 10) ^^^ nth a (x + 15) ^^^ nth a (x + 20))
  let d := (List.range 5).map (fun x => nth c ((x + 4) % 5) ^^^ rotl64 (nth c ((x + 1) % 5)) 1)
  let a := (List.range 25).map (fun i => nth a i ^^^ nth d (i % 5))
  -- lane (x, y) of the result of ρ and π comes from lane (x + 3y, x)
  let b := (List.range 25).map (fun i =>
    let x := i % 5
    let y := i / 5
    let j := (x + 3 * y) % 5 + 5 * x
    rotl64 (nth a j) (nth rhoOffsets j))
  (List.range 25).map (fun i =>
    let y := i / 5 * 5
    let v := nth b i ^^^ ((nth b ((i + 1) % 5 + y) ^^^ (2 ^ 64 - 1)) &&& nth b ((i + 2) % 5 + y))
    if i = 0 then v ^^^ rc else v)

/-- Keccak-f[1600]. -/
def keccakF (a : List Nat) : List Nat := iotaConsts.foldl keccakRound a

/-- Absorb one block of 136 bytes. -/
def absorb (a : List Nat) (blk : List Byte) : List Nat :=
  keccakF ((List.range 25).map (fun i => nth a i ^^^ leVal ((blk.drop (8 * i)).take 8)))

/-- Absorb a padded message of n blocks. -/
def absorbAll : Nat → List Nat → List Byte → List Nat
  | 0, a, _ => a
  | n + 1, a, l => absorbAll n (absorb a (l.take 136)) (l.drop 136)

/-- Squeeze n blocks. -/
def squeeze : Nat → List Nat → List Byte
  | 0, _ => []
  | n + 1, a => (a.take 17).flatMap (leBytes 8 ·) ++ squeeze n (keccakF a)

/-- SHAKE256 with n bytes of output. -/
def shake256 (m : List Byte) (n : Nat) : List Byte :=
  let k := 135 - m.length % 136
  let pad : List Byte := if k = 0 then [0x9F] else 0x1F :: (List.replicate (k - 1) 0 ++ [0x80])
  let l := m ++ pad
  (squeeze ((n + 135) / 136) (absorbAll (l.length / 136) (List.replicate 25 0) l)).take n

/-- A key hash: the first 32 bytes of SHAKE256 over the public key (R528). -/
def keyHash (key : List Byte) : List Byte := shake256 key 32

/-! ### Ed448 -/

def edP : Nat := 2 ^ 448 - 2 ^ 224 - 1
def edL : Nat := 2 ^ 446 - 13818066809895115352007386748515426880336692474882178609894547503885
def edD : Nat := edP - 39081

/-- a^e modulo p over k bits of e. -/
def powMod : Nat → Nat → Nat → Nat
  | 0, _, _ => 1
  | k + 1, a, e => (if e % 2 = 1 then a else 1) * powMod k (a * a % edP) (e / 2) % edP

/-- Inverse modulo p. -/
def edInv (a : Nat) : Nat := powMod 448 a (edP - 2)

/-- A point in projective coordinates. -/
structure EdPoint where
  x : Nat
  y : Nat
  z : Nat
  deriving DecidableEq, Repr

def edZero : EdPoint := { x := 0, y := 1, z := 1 }
def edBase : EdPoint :=
  { x := 224580040295924300187604334099896036246789641632564134246125461686950415467406032909029192869357953282578032075146446173674602635247710
    y := 298819210078481492676017930443930673437544040154080242095928241372331506189835876003536878655418784733982303233503462500531545062832660
    z := 1 }

/-- Sum of two points. -/
def EdPoint.add (p q : EdPoint) : EdPoint :=
  let a := p.z * q.z % edP
  let b := a * a % edP
  let c := p.x * q.x % edP
  let d := p.y * q.y % edP
  let e := edD * c % edP * d % edP
  let f := (b + edP - e) % edP
  let g := (b + e) % edP
  let h := (p.x + p.y) * (q.x + q.y) % edP
  { x := a * f % edP * ((h + 2 * edP - c - d) % edP) % edP
    y := a * g % edP * ((d + edP - c) % edP) % edP
    z := f * g % edP }

/-- n times a point, over k bits of n. -/
def edMul : Nat → Nat → EdPoint → EdPoint
  | 0, _, _ => edZero
  | k + 1, n, p =>
    let r := edMul k (n / 2) (p.add p)
    if n % 2 = 1 then p.add r else r

/-- Are two points equal? -/
def EdPoint.same (p q : EdPoint) : Bool :=
  p.x * q.z % edP == q.x * p.z % edP && p.y * q.z % edP == q.y * p.z % edP

/-- Encoding of a point in 57 bytes. -/
def EdPoint.encode (p : EdPoint) : List Byte :=
  let i := edInv p.z
  leBytes 57 (p.y * i % edP + (p.x * i % edP % 2) * 2 ^ 455)

/-- The point that 57 bytes encode. -/
def edDecode (l : List Byte) : Option EdPoint :=
  let v := leVal l
  let y := v % 2 ^ 455
  let sign := v / 2 ^ 455 % 2
  if l.length ≠ 57 ∨ edP ≤ y then none
  else
    let u := (y * y + edP - 1) % edP
    let w := (edD * (y * y % edP) + edP - 1) % edP
    let u3w := u * u % edP * u % edP * w % edP
    let u5w3 := u3w * (u * u % edP) % edP * (w * w % edP) % edP
    let x := u3w * powMod 448 u5w3 ((edP - 3) / 4) % edP
    if w * (x * x % edP) % edP ≠ u then none
    else if x = 0 ∧ sign = 1 then none
    else some { x := if x % 2 = sign then x else edP - x, y, z := 1 }

/-- dom4 in pure mode with a context. -/
def edDom (ctx : List Byte) : List Byte :=
  [0x53, 0x69, 0x67, 0x45, 0x64, 0x34, 0x34, 0x38, 0, BitVec.ofNat 8 ctx.length] ++ ctx

/-- The secret scalar and the prefix of a private key. -/
def edSecret (sk : List Byte) : Nat × List Byte :=
  let h := shake256 sk 114
  let a := leVal (h.take 56)
  (a / 4 * 4 % 2 ^ 447 + 2 ^ 447, h.drop 57)

/-- The public key of a private key. -/
def edPublic (sk : List Byte) : List Byte := (edMul 448 (edSecret sk).1 edBase).encode

/-- Signature of a message under a context. -/
def edSign (sk ctx msg : List Byte) : List Byte :=
  let (a, pre) := edSecret sk
  let r := leVal (shake256 (edDom ctx ++ pre ++ msg) 114) % edL
  let rb := (edMul 448 r edBase).encode
  let k := leVal (shake256 (edDom ctx ++ rb ++ edPublic sk ++ msg) 114) % edL
  rb ++ leBytes 57 ((r + k * a) % edL)

/-- Verification of a signature. -/
def edVerify (pk ctx msg sig : List Byte) : Bool :=
  let rb := sig.take 57
  let sc := leVal (sig.drop 57)
  match edDecode pk, edDecode rb with
  | some a, some r =>
    let k := leVal (shake256 (edDom ctx ++ rb ++ pk ++ msg) 114) % edL
    let four (p : EdPoint) : EdPoint := (p.add p).add (p.add p)
    sig.length == 114 && decide (sc < edL) &&
      (four (edMul 448 sc edBase)).same (four (r.add (edMul 448 k a)))
  | _, _ => false

/-- ASCII bytes. -/
def ascii (s : String) : List Byte := s.toList.map (fun c => BitVec.ofNat 8 c.toNat)

/-! ### Certificates (R534) -/

/-- Split the first DER element: its tag, its content, its whole bytes and the rest. -/
def derTake (l : List Byte) : Option (Nat × List Byte × List Byte × List Byte) :=
  match l with
  | t :: n :: r =>
    let k := n.toNat
    let (len, hdr, r) : Nat × Nat × List Byte :=
      if k < 128 then (k, 2, r)
      else ((r.take (k - 128)).foldl (fun a b => 256 * a + b.toNat) 0, 2 + (k - 128), r.drop (k - 128))
    if r.length < len then none else some (t.toNat, r.take len, l.take (hdr + len), r.drop len)
  | _ => none

/-- What the device reads of a certificate. -/
structure Cert where
  /-- The signed part. -/
  tbs : List Byte
  sig : List Byte
  serial : List Byte
  key : List Byte
  deriving DecidableEq, Repr

/-- Content of a certificate. -/
def parseCert (l : List Byte) : Option Cert := do
  let (_, body, _, _) ← derTake l
  let (_, tbs, tbsRaw, r) ← derTake body
  let (_, _, _, r) ← derTake r
  let (_, sig, _, _) ← derTake r
  let (_, _, _, t) ← derTake tbs
  let (_, serial, _, t) ← derTake t
  let (_, _, _, t) ← derTake t
  let (_, _, _, t) ← derTake t
  let (_, _, _, t) ← derTake t
  let (_, _, _, t) ← derTake t
  let (_, spki, _, _) ← derTake t
  let (_, _, _, k) ← derTake spki
  let (_, key, _, _) ← derTake k
  some { tbs := tbsRaw, sig := sig.drop 1, serial := serial.drop (serial.length - 16), key := key.drop 1 }

/-- Does a certificate verify under a public key? -/
def Cert.verify (c : Cert) (pk : List Byte) : Bool := edVerify pk [] c.tbs c.sig

end Sys2Proof.Machine
end

