-- ==== Sys2Proof/Machine/Sec.lean ====
section
/-! DEFINITION. Keys, measurements, the attestation statement and the quote (R528–R540, R551, R552). -/
namespace Sys2Proof.Machine

/-! ### OTP slots (R528, R546, R551) -/

/-- Operator slot k. -/
def State.opSlot (s : State) (k : Nat) : OpSlot := mapGet {} s.otp.ops k

/-- Change operator slot k. -/
def State.setOpSlot (s : State) (k : Nat) (x : OpSlot) : State := { s with otp := { s.otp with ops := mapPut {} s.otp.ops k x } }

/-- State code of a slot: 0 empty, 1 active, 2 revoked. -/
def OpSlot.code (x : OpSlot) : Nat := if x.revoked then 2 else if x.hash.isEmpty then 0 else 1

/-- Hash and revoke bit of vendor slot k. -/
def State.vendorSlot (s : State) (k : Nat) : List Byte × Bool :=
  if k = 0 then (s.otp.vendor0, s.otp.revoke0) else (s.otp.vendor1, s.otp.revoke1)

/-- The op_slots field. -/
def State.opCodes (s : State) : Nat := (List.range 4).foldl (fun v k => v + (s.opSlot k).code * 4 ^ k) 0

/-- Show slots and the anti-rollback counter in SEC_STATUS. -/
def State.secShow (s : State) : State :=
  ((s.setF aSecStatus 31 24 s.opCodes).setF aSecStatus 19 18 (b2n s.otp.revoke0 + 2 * b2n s.otp.revoke1)).setF
    aSecStatus 17 11 s.otp.arb

/-! ### Measurements (R536, R552) -/

/-- MSn, 64 bytes. -/
def State.meas (s : State) (n : Nat) : List Byte := (List.range 8).flatMap (fun w => leBytes 8 (s.rdN (aSecMeas n w)))

/-- Set MSn. -/
def State.setMeas (s : State) (n : Nat) (l : List Byte) : State :=
  (List.range 8).foldl (fun s w => s.wrN (aSecMeas n w) (leVal ((l.drop (8 * w)).take 8))) s

/-- Extend MSn: SHAKE256(MS ‖ kind ‖ data), 64 bytes; extends of kinds 4–6 are counted. -/
def State.extend (s : State) (n kind : Nat) (data : List Byte) : State :=
  let s := s.setMeas n (shake256 (s.meas n ++ [BitVec.ofNat 8 kind] ++ fit 64 data) 64)
  { s with sec := { s.sec with
      ext4 := if kind = 4 then s.sec.ext4 + 1 else s.sec.ext4,
      ext5 := if kind = 5 then s.sec.ext5 + 1 else s.sec.ext5,
      ext6 := if kind = 6 then s.sec.ext6 + 1 else s.sec.ext6 } }

/-! ### Keys, statement and quote (R530, R535, R537, R540) -/

/-- The identity and attestation private keys. -/
def idKey : List Byte := shake256 (ascii "qorkar-id" ++ Config.deviceSecret) 57
def State.akKey (s : State) : List Byte := shake256 (ascii "qorkar-ak" ++ Config.deviceSecret ++ s.meas 1) 57

/-- The attestation key statement, 266 bytes. -/
def State.statement (s : State) : List Byte :=
  let body := leBytes 2 1 ++ leBytes 2 s.otp.arb ++ leBytes 2 (s.getF aSecBootStatus 15 0) ++ leBytes 2 0
    ++ fit 16 Config.serial ++ s.meas 1 ++ edPublic s.akKey ++ List.replicate 7 0
  body ++ edSign idKey (ascii "qorkar-ak") body

/-- The certificates as GET_CERT lays them out. -/
def certBlob : List Byte :=
  leBytes 4 2 ++ leBytes 4 Config.deviceCert.length ++ Config.deviceCert ++ leBytes 4 Config.caCert.length ++ Config.caCert

/-- The quote, 514 bytes. -/
def State.quote (s : State) (nonce : List Byte) : List Byte :=
  let flags := s.getF aHifStatus 6 6 + 2 * s.getF aHoopStatus 31 31
  let id := if s.getF aFabId 31 31 = 1 then s.getF aFabId 15 0 else 0xFFFF
  let body := leBytes 2 1 ++ leBytes 2 514 ++ leBytes 4 flags ++ leBytes 8 s.hoop ++ fit 16 Config.serial ++ fit 32 nonce
    ++ s.meas 0 ++ s.meas 1 ++ s.meas 2 ++ s.meas 3
    ++ leBytes 1 s.sec.ext4 ++ leBytes 1 s.sec.ext5 ++ leBytes 1 s.sec.ext6 ++ [0] ++ leBytes 2 id ++ List.replicate 10 0
    ++ edPublic s.akKey ++ List.replicate 7 0
  body ++ edSign s.akKey (ascii "qorkar-quote") body

/-- A free value as bytes, from the entropy source. -/
def State.entropy (s : State) (n : Nat) : List Byte × State :=
  let (v, s) := s.draw (fun k => (Config.freeValue k).toNat % 2 ^ (8 * n))
  (leBytes n v, s)

/-! ### Firmware images (R531–R533) -/

def imgField (l : List Byte) (o n : Nat) : Nat := leVal ((l.drop o).take n)

/-- Digest of an image: its signature bytes read as zero. -/
def imageDigest (l : List Byte) : List Byte := shake256 (l.take 0x49 ++ List.replicate 114 0 ++ l.drop 0xBB) 64

/-- The first of steps 3–6 of R532 that an image fails; 0 where it passes. -/
def State.imageCheck (s : State) (l : List Byte) : Nat :=
  let slot := imgField l 0xD 1
  let (hash, revoked) := s.vendorSlot slot
  let key := (l.drop 0x10).take 57
  if l.take 4 ≠ ascii "QKFW" ∨ imgField l 4 2 ≠ 1 ∨ l.length < 256 ∨ imgField l 8 4 ≠ l.length ∨ 2 ^ 25 < l.length then 3
  else if 1 < slot ∨ revoked ∨ keyHash key ≠ hash then 4
  else if imgField l 0xC 1 < s.otp.arb ∨ 64 < imgField l 0xC 1 then 5
  else if !edVerify key (ascii "qorkar-fw") (imageDigest l) ((l.drop 0x49).take 114) then 6
  else 0

end Sys2Proof.Machine
end

