-- ==== Sys2Proof/Machine/Ballast.lean ====
section
/-! DEFINITION. Ballast of the MAC arrays and its generator, and the physical arrays behind the logical ones
(R88–R92, R98, R101). -/
namespace Sys2Proof.Machine

/-- A free value of w bits. -/
def State.freeNat (s : State) (w : Nat) : Nat × State := s.draw (fun n => (Config.freeValue n).toNat % 2 ^ w)

/-! ### The generator (R90) -/

/-- One step of the generator with polynomial x^31 + x^28 + 1. -/
def lfsrStep (v : BitVec 31) : BitVec 31 :=
  v <<< 1 ||| BitVec.ofNat 31 (b2n (v.getLsbD 30 != v.getLsbD 27))

/-- A linear map of generator states, given by its values on the 31 single bits. -/
def lfsrApply (m : List (BitVec 31)) (v : BitVec 31) : BitVec 31 :=
  m.zipIdx.foldl (fun x b => if v.getLsbD b.2 then x ^^^ b.1 else x) 0

/-- n steps of a map, by its doublings; the first argument bounds the bits of n. -/
def lfsrJump : Nat → List (BitVec 31) → Nat → BitVec 31 → BitVec 31
  | 0, _, _, v => v
  | k + 1, m, n, v =>
    if n = 0 then v
    else lfsrJump k (m.map (lfsrApply m ·)) (n / 2) (if n % 2 = 1 then lfsrApply m v else v)

/-- The generator after n ballast cycles: one step a cycle (DESIGN CHOICE: R90 names the generator, not its rate). -/
def lfsrRun (n : Nat) (v : BitVec 31) : BitVec 31 :=
  lfsrJump 48 ((List.range 31).map (fun i => lfsrStep (BitVec.ofNat 31 (2 ^ i)))) n v

/-- The physical array behind logical array m of tile t: on the smaller grade the faulty one, else the highest, is fused
off and the rest take their numbers in ascending order (R101). -/
def State.physArray (s : State) (t m : Nat) : Nat :=
  if s.grade = 0 then m
  else
    let off := min 3 (mapGet 4 s.pwr.fused t)
    if m < off then m else m + 1

/-- The generator's value: its seed comes from the tile and the physical array (R90). -/
def State.lfsrNow (s : State) (t m : Nat) : BitVec 31 := ((s.tile t).array m).lfsr.getD (Config.lfsrSeed t (s.physArray t m))

/-! ### Ballast (R89, R98) -/

/-- Ballast has run for n cycles: they are counted and the generator has moved on (R90, R98). How many of them count under
stall cause 5 and not under one that R563 ranks before it is free (log entry 66). -/
def State.ballastRan (s : State) (t m n : Nat) : State :=
  let v := s.lfsrNow t m
  let (k, s) := s.freeNat 48
  let s := s.stall t m 5 (k % (n + 1))
  (s.cnt (aCntMacBallast t m) n).onArray t m (fun a => { a with lfsr := some (lfsrRun n v), rampBallast := false })

/-- Ballast of an array ends after a number of cycles that the model leaves free; answers them. -/
def State.ballastOff (s : State) (t m : Nat) : Nat × State :=
  let (n, s) := s.freeNat 48
  (n, (s.setF (aMacStatus t m) 3 3 0).ballastRan t m n)

/-- An array begins ballast that BALLAST_GAP does not bound, with no event: R99 lists 0x43 for ballast after a compute part
(log entry 73). -/
def State.ballastOn (s : State) (t m : Nat) : State :=
  ((s.setF (aMacStatus t m) 3 3 1).setF (aMacStatus t m) 4 4 0).onArray t m (fun a => { a with rampBallast := true })

end Sys2Proof.Machine
end

