-- ==== Sys2Proof/Machine/Codes.lean ====
section
/-! DEFINITION. The Reed–Solomon codes over GF(2^8) of the strong class and of DDR, with erasures and the poison
signature (R142, R143, R321–R324). -/
namespace Sys2Proof.Machine

/-- Product in GF(2^8) with field polynomial x^8 + x^4 + x^3 + x^2 + 1 (R142). -/
def gfMulAux : Nat → Nat → Nat → Nat
  | 0, _, _ => 0
  | k + 1, a, b =>
    (if b % 2 = 1 then a else 0) ^^^ gfMulAux k (if 128 ≤ a then (2 * a) ^^^ 0x11D else 2 * a) (b / 2)
def gfMul (a b : Nat) : Nat := gfMulAux 8 a b

/-- α^n. -/
def gfExp : Nat → Nat
  | 0 => 1
  | n + 1 => gfMul 2 (gfExp n)

/-- a^n. -/
def gfPow (a : Nat) : Nat → Nat
  | 0 => 1
  | n + 1 => gfMul a (gfPow a n)

/-- Inverse: a^254. -/
def gfInv (a : Nat) : Nat := gfPow a 254

/-- Syndrome S_j of an error pattern of a code of n symbols; symbol i is the coefficient of x^(n − 1 − i) (R142). -/
def syndrome (n : Nat) (es : List (Nat × Nat)) (j : Nat) : Nat :=
  es.foldl (fun s e => s ^^^ gfMul (e.2 % 256) (gfPow (gfExp (n - 1 - e.1)) j)) 0

/-- The four syndromes of an error pattern. -/
def syndromes (n : Nat) (es : List (Nat × Nat)) : List Nat := (List.range 4).map (syndrome n es)

/-- Coefficients of Π (z + X_j), lowest power first. -/
def locPoly : List Nat → List Nat
  | [] => [1]
  | x :: r =>
    let p := locPoly r
    (List.range (p.length + 1)).map (fun i => (if i = 0 then 0 else nth p (i - 1)) ^^^ gfMul x (nth p i))

/-- Error value at locator x among the locators `others`, from the syndromes. -/
def errValue (syn : List Nat) (x : Nat) (others : List Nat) : Nat :=
  let c := locPoly others
  let num := (List.range c.length).foldl (fun a k => a ^^^ gfMul (nth c k) (nth syn k)) 0
  gfMul num (gfInv (others.foldl (fun a y => gfMul a (x ^^^ y)) 1))

/-- The error pattern on some positions that the first syndromes give. -/
def solveAt (n : Nat) (syn : List Nat) (ps : List Nat) : List (Nat × Nat) :=
  ps.map (fun p => (p, errValue syn (gfExp (n - 1 - p)) ((ps.filter (· ≠ p)).map (fun q => gfExp (n - 1 - q)))))

/-- Outcome of decoding one codeword. -/
inductive Decoded
  | clean
  | poisoned
  | corrected (es : List (Nat × Nat))
  | uncorrectable
  deriving DecidableEq, Repr

/-- Sets of at most `v` further positions, smallest first. -/
def posSets (n v : Nat) (erase : List Nat) : List (List Nat) :=
  let free := (List.range n).filter (fun p => !erase.contains p)
  [[]] ++ (if 1 ≤ v then free.map (fun p => [p]) else []) ++
    (if 2 ≤ v then free.flatMap (fun p => (free.filter (p < ·)).map (fun q => [p, q])) else [])

/-- Decode from syndromes with erasures: the first set of positions whose solution explains every syndrome and whose
non-erased values are nonzero; 2 × (other errors) + erasures ≤ 4 (R143, R323). -/
def rsDecode (n : Nat) (erase : List Nat) (syn : List Nat) : Decoded :=
  if syn.all (· == 0) then .clean
  else
    let v := (4 - erase.length) / 2
    let ok (ps : List Nat) : Bool :=
      let es := solveAt n syn (erase ++ ps)
      (syndromes n es == syn) && (es.all (fun e => erase.contains e.1 || e.2 ≠ 0))
    match (posSets n v erase).find? ok with
    | some ps => .corrected ((solveAt n syn (erase ++ ps)).filter (fun e => e.2 ≠ 0))
    | none => .uncorrectable

/-- Strong-class decoding RS(36,32) of an error pattern (R142, R143). -/
def strongDecode (es : List (Nat × Nat)) : Decoded := rsDecode 36 [] (syndromes 36 es)

/-- Syndromes of the poison signature: 0xA5, 0x5A, 0xA5, 0x5A on the check symbols (R324). -/
def poisonSyn : List Nat := syndromes 20 [(16, 0xA5), (17, 0x5A), (18, 0xA5), (19, 0x5A)]

/-- DDR decoding RS(20,16) in the order of R322: `poison` says whether the stored codeword is poisoned. -/
def ddrDecode (erase : List Nat) (poison : Bool) (es : List (Nat × Nat)) : Decoded :=
  let syn0 := syndromes 20 es
  let syn := if poison then (List.range 4).map (fun j => nth syn0 j ^^^ nth poisonSyn j) else syn0
  if syn.all (· == 0) then .clean
  else if syn == poisonSyn then .poisoned
  else rsDecode 20 erase syn

/-- Apply an error pattern to a codeword's data symbols (positions 0 to m − 1; the rest are check symbols). -/
def applyErrs (es : List (Nat × Nat)) (data : List (BitVec 8)) : List (BitVec 8) :=
  es.foldl (fun d e => d.set e.1 ((d.getD e.1 0) ^^^ BitVec.ofNat 8 e.2)) data

/-- The data symbols after an upset and a decode: stored data, the errors, and the decoder's correction. -/
def decodedData (data : List (BitVec 8)) (es : List (Nat × Nat)) (d : Decoded) : List (BitVec 8) :=
  match d with
  | .corrected c => applyErrs c (applyErrs es data)
  | _ => applyErrs es data

end Sys2Proof.Machine
end

