-- ==== Sys2Proof/Machine/MemCore.lean ====
section
/-! DEFINITION. DDR and the L2: interleave, remapping, the code, lines and their service (R284–R291, R320–R332). -/
namespace Sys2Proof.Machine

/-! ### Addresses (R328, R329, R331) -/

/-- Exclusive or of the nibbles of g, k of them (R328). -/
def xorNibbles : Nat → Nat → Nat
  | 0, _ => 0
  | k + 1, g => (g % 16) ^^^ xorNibbles k (g / 16)

/-- Channel of a space 0 offset (R328). -/
def chanOf (off : Nat) : Nat := xorNibbles 9 (off / 256)

/-- Channel-local granule number (R328). -/
def granOf (off : Nat) : Nat := off / 256 / 16

/-- Channel-local byte address (R328). -/
def localOf (off : Nat) : Nat := 256 * granOf off + off % 256

/-- The offset of a channel-local address: the low nibble of the granule number makes the channel come out (R328). -/
def offOf (c a : Nat) : Nat := (a / 256 * 16 + (xorNibbles 8 (a / 256) ^^^ c)) * 256 + a % 256

/-- Ranks of the modules in use (R338). -/
def State.ranks (s : State) : Nat := if s.getF aDdrStatus 5 4 = 2 then 4 else 2

/-- Module capacity in GiB; 0 before training has found one (R317, R338). -/
def State.moduleGib (s : State) : Nat :=
  if s.getF aDdrStatus 5 4 = 0 then 0
  else (match s.getF aDdrStatus 3 2 with | 0 => 32 | 1 => 48 | _ => 64) * s.ranks

/-- Bytes of space 0 (R328). -/
def State.ddrBytes (s : State) : Nat := 16 * s.moduleGib * 2 ^ 30

/-- Bank number within its channel: 32 × rank + 4 × bank group + bank (R329). -/
def State.bankOf (s : State) (off : Nat) : Nat :=
  let a := localOf off
  let r := s.ranks
  let row := a / (2 ^ 19 * r)
  let bg := bits a 10 8 ^^^ (row % 8)
  let b := bits a 12 11 ^^^ (row / 8 % 4)
  let rank := if r = 4 then bits a 14 13 else bits a 13 13
  32 * rank + 4 * bg + b

/-- Bank key over the device. -/
def State.bankKey (s : State) (off : Nat) : Nat := 128 * chanOf off + s.bankOf off

/-- The remap entry that is in force for an offset's 2 MiB page (R331). -/
def State.remapEntry (s : State) (off : Nat) : Option Nat :=
  firstIdx (fun n => bit (s.rdN (aDdrRemap n)) 63 && bits (s.rdN (aDdrRemap n)) 41 21 == off / 2 ^ 21) 512

/-- Offset after remapping (R331). -/
def State.remap (s : State) (off : Nat) : Nat :=
  match s.remapEntry off with
  | some n => bits (s.rdN (aDdrRemap n)) 62 42 * 2 ^ 21 + off % 2 ^ 21
  | none => off

/-- Is the page of an offset being retired (R332)? -/
def State.retiringPage (s : State) (off : Nat) : Bool :=
  match s.mem.retiring with
  | some n => bits (s.rdN (aDdrRemap n)) 41 21 == off / 2 ^ 21
  | none => false

/-! ### DDR accesses (R320–R324) -/

/-- Bytes stored at an offset. -/
def State.ddrBytesAt (s : State) (off n : Nat) : List Byte := (List.range n).map (fun i => mapGet 0 s.mem.ddr (off + i))

/-- Is the 32 B word at an offset poisoned in DDR? -/
def State.ddrBad (s : State) (off : Nat) : Bool := mapGet false s.mem.ddrPoison (off / 32)

/-- Store bytes in DDR. -/
def State.ddrPut (s : State) (off : Nat) (data : List Byte) : State :=
  { s with mem := { s.mem with
      ddr := (data.zip (List.range data.length)).foldl (fun m p => mapPut 0 m (off + p.2) p.1) s.mem.ddr } }

/-- Set or clear the poison of the 32 B word at an offset. -/
def State.ddrMark (s : State) (off : Nat) (b : Bool) : State :=
  { s with mem := { s.mem with ddrPoison := mapPut false s.mem.ddrPoison (off / 32) b } }

/-- An error record (R340), or its loss. -/
def State.errRecord (s : State) (kind : Nat) (scrub : Bool) (c dev : Nat) (second : Bool) (off : Nat) : State :=
  if s.mem.errLog.length < 256 then
    { s with mem := { s.mem with errLog := s.mem.errLog ++ [BitVec.ofNat 64
        (2 ^ 63 + kind * 2 ^ 61 + b2n scrub * 2 ^ 60 + c * 2 ^ 56 + dev * 2 ^ 51 + b2n second * 2 ^ 50 + off % 2 ^ 42)] } }
  else s.cnt aCntDdrErrLost

/-- Device number of a codeword symbol, data symbols first (R320, R321). -/
def symDevice (i : Nat) : Nat :=
  if i < 8 then i else if i < 16 then i + 2 else nth [8, 9, 18, 19] (i - 16)

/-- Symbol position of a device. -/
def deviceSym (d : Nat) : Nat :=
  if d < 8 then d else if d = 8 then 16 else if d = 9 then 17 else if d < 18 then d - 2 else d

/-- Erased symbol positions of a channel (R323, R339). -/
def State.erasures (s : State) (c : Nat) : List Nat :=
  let r := s.rdN (aDdrChErase c)
  let one (en : Bool) (d : Nat) : List Nat := if en && decide (d ≤ 19) then [deviceSym d] else []
  (one (bit r 5) (bits r 4 0) ++ one (bit r 13) (bits r 12 8)).eraseDups

/-- Decode codeword j of the access at `off` (128 B aligned), counting and recording; the rewrite keeps DDR as R322
says. `bad` tells whether the codeword was stored as poisoned; one that decodes as poisoned or uncorrectable leaves its word
marked (R322, R324). -/
def State.ddrWord (s : State) (scrub : Bool) (off j : Nat) (bad : Bool) (es : List (Nat × Nat)) : State :=
  let c := chanOf off
  let o := off + 16 * j
  let data := s.ddrBytesAt o 16
  let d := ddrDecode (s.erasures c) bad es
  match d with
  | .clean => s
  | .poisoned => ((s.cnt (aCntDdrPoison c)).errRecord 2 scrub c 0x1F false o).ddrMark o true
  | .corrected e =>
    let s := (s.cnt (aCntDdrCorr c)).errRecord 0 scrub c (symDevice (e.headD (0, 0)).1) (decide (2 ≤ e.length)) o
    s.ddrPut o (decodedData data es d)
  | .uncorrectable =>
    let s := (s.cnt (aCntDdrUncorr c)).errRecord 1 scrub c 0x1F false o
    (s.ddrPut o (decodedData data es d)).ddrMark o true

/-- Error pattern of codeword j of an upset. -/
def codewordErrs (errs : List (List (Nat × BitVec 8))) (j : Nat) : List (Nat × Nat) :=
  ((errs.getD j []).filter (fun e => decide (e.1 < 20))).map (fun e => (e.1, e.2.toNat))

/-- A command accepted by channel c counts an activate of its bank and ends a run of command parity errors
(R325, R327). -/
def State.activate (s : State) (c bank : Nat) : State :=
  { s with mem := { s.mem with
      activates := mapPut 0 s.mem.activates bank (mapGet 0 s.mem.activates bank + 1),
      caparRun := mapPut 0 s.mem.caparRun c 0 } }

/-- One 128 B read of DDR: every codeword decoded as it stood before the read, an activate counted, bytes counted; where a
codeword is not clean the access is rewritten, which counts as bytes written (R322, R327, R342). -/
def State.ddrRead (s : State) (scrub : Bool) (off : Nat) (errs : List (List (Nat × BitVec 8))) : State :=
  let off := off / 128 * 128
  let c := chanOf off
  let bad (j : Nat) : Bool := s.ddrBad (off + 16 * j)
  let dirty := (List.range 8).any (fun j => ddrDecode (s.erasures c) (bad j) (codewordErrs errs j) != .clean)
  let s := (s.activate c (s.bankKey off)).cnt (aCntDdrRdBytes c) 128
  let s := (List.range 8).foldl (fun t j => t.ddrWord scrub off j (bad j) (codewordErrs errs j)) s
  if dirty then s.cnt (aCntDdrWrBytes c) 128 else s

/-- One write of DDR with poison bits per 32 B word (bit k for word k of the data). -/
def State.ddrWrite (s : State) (off : Nat) (data : List Byte) (poison : Nat) : State :=
  let k := s.bankKey off
  let s := s.activate (chanOf off) k
  let s := (s.ddrPut off data).cnt (aCntDdrWrBytes (chanOf off)) data.length
  (List.range (data.length / 32)).foldl (fun s w => s.ddrMark (off + 32 * w) (bit poison w)) s

/-! ### L2 lines (R284–R288) -/

/-- Key of way w of an offset's set in its slice. -/
def l2Key (off w : Nat) : Nat := 65536 * chanOf off + 16 * (granOf off % 4096) + w

/-- Line in way w of an offset's set. -/
def State.l2At (s : State) (off w : Nat) : Option L2Line := mapGet none s.mem.l2 (l2Key off w)

/-- Put a line. -/
def State.l2Put (s : State) (off w : Nat) (l : Option L2Line) : State :=
  { s with mem := { s.mem with l2 := mapPut none s.mem.l2 (l2Key off w) l } }

/-- The way that holds the line of an offset. -/
def State.l2Way (s : State) (off : Nat) : Option Nat :=
  firstIdx (fun w => match s.l2At off w with
    | some l => l.tag == granOf off / 4096
    | none => false) 16

/-- The offset of the line in way w of the set of `off`. -/
def lineOff (off tag : Nat) : Nat := offOf (chanOf off) (256 * (tag * 4096 + granOf off % 4096))

/-- Write back the dirty halves of a line (R286, R288); the halves become clean. -/
def State.l2WriteBack (s : State) (off w : Nat) : State :=
  match s.l2At off w with
  | none => s
  | some l =>
    let base := lineOff off l.tag
    let half (s : State) (h : Nat) (dirty : Bool) : State :=
      if dirty then
        (s.ddrWrite (base + 128 * h) ((List.range 128).map (fun i => mapGet 0 l.data (128 * h + i)))
          (bits l.poison (4 * h + 3) (4 * h))).cnt (aCntL2WbBytes (chanOf off)) 128
      else s
    (half (half s 0 l.dirty0) 1 l.dirty1).l2Put off w (some { l with dirty0 := false, dirty1 := false })

/-- The way an allocation takes (R286): the lowest invalid way, else among unpinned ways the least remaining, used
longest ago. -/
def State.l2Victim (s : State) (off : Nat) : Option Nat :=
  match firstIdx (fun w => (s.l2At off w).isNone) 16 with
  | some w => some w
  | none =>
    let cand := (List.range 16).filterMap (fun w => match s.l2At off w with
      | some l => if l.pin.isNone then some (l.remaining, l.used, w) else none
      | none => none)
    (cand.foldl (fun b x => match b with
      | none => some x
      | some y => if x.1 < y.1 ∨ (x.1 = y.1 ∧ x.2.1 < y.2.1) then some x else some y) none).map (·.2.2)

/-- Pinned ways of an offset's set. -/
def State.l2Pinned (s : State) (off : Nat) : Nat :=
  countIdx (fun w => match s.l2At off w with | some l => l.pin.isSome | none => false) 16

/-- An empty line for an offset. -/
def emptyLine (off : Nat) : L2Line :=
  { tag := granOf off / 4096, valid0 := false, valid1 := false, dirty0 := false, dirty1 := false,
    remaining := 0, pin := none, used := 0, data := [], poison := 0 }

/-- Validity of half h. -/
def L2Line.valid (l : L2Line) (h : Nat) : Bool := if h = 0 then l.valid0 else l.valid1

/-- Fill half h from DDR bytes and poison. -/
def L2Line.fill (l : L2Line) (h : Nat) (data : List Byte) (poison : Nat) : L2Line :=
  let l := { l with
    data := (data.zip (List.range data.length)).foldl (fun m (p : Byte × Nat) => mapPut 0 m (128 * h + p.2) p.1) l.data,
    poison := setBits l.poison (4 * h + 3) (4 * h) poison }
  if h = 0 then { l with valid0 := true } else { l with valid1 := true }

/-- Write bytes at line offset o: poison follows R287 and R324. -/
def L2Line.store (l : L2Line) (o : Nat) (data : List Byte) (poison : Nat) : L2Line :=
  let covered (w : Nat) : Bool := decide (o ≤ 32 * w ∧ 32 * w + 32 ≤ o + data.length)
  let touched (w : Nat) : Bool := decide (32 * w < o + data.length ∧ o < 32 * w + 32)
  let l := { l with
    data := (data.zip (List.range data.length)).foldl (fun m (p : Byte × Nat) => mapPut 0 m (o + p.2) p.1) l.data,
    poison := (List.range 8).foldl (fun m w =>
      if !touched w then m
      else if bit poison (w - o / 32) then setBits m w w 1
      else if covered w then setBits m w w 0 else m) l.poison }
  let d0 := decide (o < 128)
  let d1 := decide (128 < o + data.length)
  { l with dirty0 := l.dirty0 || d0, dirty1 := l.dirty1 || d1, valid0 := l.valid0 || d0, valid1 := l.valid1 || d1 }

/-- The halves that line bytes o to o + n − 1 touch. -/
def halvesOf (o n : Nat) : List Nat := (List.range 2).filter (fun h => decide (128 * h < o + n ∧ o < 128 * h + 128))

/-- Make a line's halves valid from DDR where the access needs them: a read needs every half it touches, a write every
half it covers only in part (R287). -/
def State.l2Fill (s : State) (off n : Nat) (write : Bool) (l : L2Line) (errs : List (List (Nat × BitVec 8))) :
    L2Line × State :=
  let base := off / 256 * 256
  let o := off % 256
  (halvesOf o n).foldl (fun (p : L2Line × State) h =>
    if p.1.valid h || (write && decide (o ≤ 128 * h ∧ 128 * h + 128 ≤ o + n)) then p
    else
      let s := p.2.ddrRead false (base + 128 * h) errs
      let poison := (List.range 4).foldl (fun m w => m + b2n (s.ddrBad (base + 128 * h + 32 * w)) * 2 ^ w) 0
      (p.1.fill h (s.ddrBytesAt (base + 128 * h) 128) poison, s)) (l, s)

/-- The words of half h that line bytes o to o + n − 1 touch. -/
def wordsOf (o n h : Nat) : List Nat :=
  ((List.range 4).map (4 * h + ·)).filter (fun w => decide (32 * w < o + n ∧ o < 32 * w + 32))

/-- An uncorrectable error in the halves that an access touches: a clean half is dropped, to be read again; in a dirty
half the words touched are poisoned and the half is written back (R288). -/
def State.l2Upset (s : State) (off n w : Nat) : State :=
  match s.l2At off w with
  | none => s
  | some l =>
    let o := off % 256
    let hs := (halvesOf o n).filter (fun h => l.valid h)
    let dirty (h : Nat) : Bool := if h = 0 then l.dirty0 else l.dirty1
    let bad := (hs.filter dirty).flatMap (wordsOf o n)
    let l := { l with poison := bad.foldl (fun m k => setBits m k k 1) l.poison }
    let l := hs.foldl (fun (l : L2Line) h =>
      if dirty h then l else if h = 0 then { l with valid0 := false } else { l with valid1 := false }) l
    let s := s.l2Put off w (some l)
    if bad.isEmpty then s else s.l2WriteBack off w

/-- Poison bits of the words an access touches, relative to the word of its first byte. -/
def poisonOf (line o n : Nat) : Nat :=
  (List.range ((o % 32 + n + 31) / 32)).foldl (fun m w => m + b2n (bit line (o / 32 + w)) * 2 ^ w) 0

/-- What a request that is not a write answers from a line. -/
def L2Line.answer (l : L2Line) (off n : Nat) (write : Bool) : List Byte × Nat :=
  if write then ([], 0) else ((List.range n).map (fun i => mapGet 0 l.data (off % 256 + i)), poisonOf l.poison (off % 256) n)

/-- Count the bytes of a read as hit or miss bytes (R297). -/
def State.l2ReadBytes (s : State) (off n : Nat) (write prefetch hit : Bool) : State :=
  if write || prefetch then s
  else if hit then s.cnt (aCntL2HitBytes (chanOf off)) n else s.cnt (aCntL2MissBytes (chanOf off)) n

/-- A request that hits way w at time `clock`; `canPin` tells whether its set may take one pin more (R285, R287, R290). -/
def State.l2Hit (s : State) (off n w clock : Nat) (canPin write prefetch : Bool) (data : List Byte) (poison cls part : Nat)
    (errs : List (List (Nat × BitVec 8))) : List Byte × Nat × Bool × State :=
  match s.l2At off w with
  | none => ([], 0, false, s)
  | some l =>
    if prefetch then ([], 0, true, s)
    else
      let full := (halvesOf (off % 256) n).all (l.valid ·)
      let (l, s) := s.l2Fill off n write l errs
      let l := if write then l.store (off % 256) data poison else l
      let l := { l with used := clock }
      let l := if !write then { l with remaining := l.remaining - 1 } else l
      let l := if cls = 2 ∧ (l.pin.isSome ∨ canPin) then { l with pin := some part } else l
      let l := if cls = 3 then
          (if write then { l with pin := none } else { l with pin := none, remaining := 0 }) else l
      let s := s.l2Put off w (some l)
      let a := l.answer off n write
      (a.1, a.2, full, s.l2ReadBytes off n write prefetch full)

/-- A request that takes no way passes its slice by: a write goes to DDR, with the rest of the halves it touches (R285). -/
def State.l2Pass (s : State) (off n : Nat) (write prefetch : Bool) (data : List Byte) (poison : Nat)
    (errs : List (List (Nat × BitVec 8))) : List Byte × Nat × Bool × State :=
  let (l, s) := s.l2Fill off n write (emptyLine off) errs
  if write then
    let l := l.store (off % 256) data poison
    let base := off / 256 * 256
    ([], 0, false, (halvesOf (off % 256) n).foldl (fun s h =>
      s.ddrWrite (base + 128 * h) ((List.range 128).map (fun i => mapGet 0 l.data (128 * h + i)))
        (bits l.poison (4 * h + 3) (4 * h))) s)
  else
    let a := l.answer off n write
    (a.1, a.2, false, s.l2ReadBytes off n write prefetch false)

/-- The count that an allocation gives its line: a prefetch's reuse and one more. The 8-bit count of a prefetch with reuse 255
would be 256, which R290 does not settle: it is free (log entry 77). -/
def State.l2Count (s : State) (prefetch : Bool) (reuse : Nat) : Nat × State :=
  if !prefetch then (reuse, s) else if reuse < 255 then (reuse + 1, s) else s.freeNat 8

/-- A request that misses allocates way w at time `clock` (R286, R287, R290). -/
def State.l2Take (s : State) (off n w clock : Nat) (canPin write prefetch : Bool) (data : List Byte) (poison cls reuse part : Nat)
    (errs : List (List (Nat × BitVec 8))) : List Byte × Nat × Bool × State :=
  let (l, s) := (s.l2WriteBack off w).l2Fill off n write (emptyLine off) errs
  let l := if write then l.store (off % 256) data poison else l
  let (count, s) := s.l2Count prefetch reuse
  let l := { l with used := clock, remaining := count }
  let l := if cls = 2 ∧ canPin then { l with pin := some part } else l
  let s := s.l2Put off w (some l)
  let a := l.answer off n write
  (a.1, a.2, false, s.l2ReadBytes off n write prefetch false)

/-- A request comes to its slice: the slices' time goes on, and a prefetch is counted. -/
def State.l2Begin (s : State) (off : Nat) (prefetch : Bool) : State :=
  let s := if prefetch then s.cnt (aCntL2Pf (chanOf off)) else s
  { s with mem := { s.mem with clock := s.mem.clock + 1 } }

/-- Serve one request at its slice (R285–R287, R290): answers data, poison bits, whether it hit, and the state.
`off` is the offset after remapping; `part` the partition that a pin belongs to; `upset` tells an uncorrectable error
in the line (R288). Class 0b01 takes no way; nor does an allocation where every way is pinned, which pin_max ≤ 15 rules
out. -/
def State.l2Serve (s : State) (off n : Nat) (write prefetch : Bool) (data : List Byte) (poison cls reuse part : Nat)
    (errs : List (List (Nat × BitVec 8))) (upset : Bool := false) : List Byte × Nat × Bool × State :=
  let clock := s.mem.clock
  let s := s.l2Begin off prefetch
  let canPin : Bool := s.l2Pinned off < s.getF aL2cPinCtrl 4 0
  match s.l2Way off with
  | some w =>
    (if upset && !prefetch then s.l2Upset off n w else s).l2Hit off n w clock canPin write prefetch data poison cls part errs
  | none =>
    match (if cls = 1 then none else s.l2Victim off) with
    | none => s.l2Pass off n write prefetch data poison errs
    | some w => s.l2Take off n w clock canPin write prefetch data poison cls reuse part errs

/-- Pieces of a range that lie in one 256 B line each. -/
def linePieces : Nat → Nat → Nat → List (Nat × Nat)
  | 0, _, _ => []
  | k + 1, off, n =>
    if n = 0 then []
    else
      let m := min n (256 - off % 256)
      (off, m) :: linePieces k (off + m) (n - m)

/-! ### Request slots, bank caps and requests turned away (R280–R282, R332, R336) -/

/-- Slots of a bank in use or reserved (R282). -/
def State.bankSlots (s : State) (k : Nat) : Nat :=
  countIdx (fun i => match s.mem.reqs[i]? with | some r => r.bank == some k | none => false) s.mem.reqs.length
    + (s.mem.waiters.filter (fun w => decide (w.bank = k) && w.reserved)).length

/-- Slots of agent q in use or reserved. -/
def State.agentSlots (s : State) (q : Nat) : Nat :=
  (s.mem.reqs.filter (fun r => match r.bank with | some k => k / 512 == q | none => false)).length
    + (s.mem.waiters.filter (fun w => decide (w.bank / 512 = q) && w.reserved)).length

/-- Let a request that waits after CAP_WAIT come again: a context sends it at its next turn, the router core sends it at once
(R282, R399). -/
def State.comeAgain (s : State) (id : Nat) : State :=
  match s.findReq id with
  | some r => (match r.stage, r.origin with
    | .capWait retry _, .ctx _ _ => s.onReq id (fun r => { r with stage := .capWait retry true })
    | .capWait _ _, .fabric _ => s.requeue id (fun r => { r with stage := .lane })
    | _, _ => s)
  | none => s

/-- Reserve a slot for the oldest waiter of a bank that has none; none where no waiter is left. -/
def State.reserveNext (s : State) (bank : Nat) : Option CapWaiter × State :=
  match s.mem.waiters.find? (fun w => decide (w.bank = bank) && !w.reserved) with
  | none => (none, s)
  | some w => (some w, { s with mem := { s.mem with waiters := s.mem.waiters.map (fun (x : CapWaiter) =>
      if x.id = w.id then { x with reserved := true } else x) } })

/-- A request leaves the waiter lists; a reservation that it held passes to the next waiter, which is told (R282). -/
def State.dropWaiter (s : State) (id : Nat) : State :=
  match s.mem.waiters.find? (fun w => decide (w.id = id)) with
  | none => s
  | some w =>
    let s := { s with mem := { s.mem with waiters := s.mem.waiters.filter (fun x => decide (x.id ≠ id)) } }
    if !w.reserved then s
    else match s.reserveNext w.bank with
    | (some n, s) => s.comeAgain n.id
    | (none, s) => s

/-- BANK_SLOT_CAP of agent q (R296). -/
def State.bankCap (s : State) (q : Nat) : Nat := s.getF (aL2cSlotCap q) 7 0

/-- A slot of a bank is free, by a release or a raised cap: it is reserved for the oldest waiter (R282, R283). The notice
reaches the waiter by CAP_WAIT_NOTICE. -/
def State.slotFreed (s : State) (bank : Nat) : State :=
  if s.bankCap (bank / 512) ≤ s.bankSlots bank then s else (s.reserveNext bank).2

/-- The cap of agent q has risen by n: as many waiters of each of its banks have a slot reserved (R283). -/
def State.capRaised (s : State) (q n : Nat) : State :=
  ((s.mem.waiters.map (·.bank)).eraseDups.filter (fun k => decide (k / 512 = q))).foldl (fun s k =>
    (List.range n).foldl (fun s _ => s.slotFreed k) s) s

/-- Request number id is gone, with the slot or the place among the waiters that it held. -/
def State.cancelReq (s : State) (id : Nat) : State :=
  match s.findReq id with
  | none => s
  | some r =>
    let s := (s.dropReq id).dropWaiter id
    match r.bank with
    | some k => s.slotFreed k
    | none => s

/-- Has background initialisation not yet reached an offset (R336)? -/
def State.uninitialised (s : State) (off : Nat) : Bool :=
  s.getF aDdrStatus 7 7 == 0 && decide (s.rdN (aDdrInitPtr (chanOf (s.remap off))) ≤ localOf (s.remap off))

/-- Does a request to an offset meet a CAP_WAIT with the retry flag: a page being retired, or a local address not
initialised yet (R332, R336)? -/
def State.offRetry (s : State) (off : Nat) : Bool := s.retiringPage off || s.uninitialised off

/-- Can a request to each line of a range have its slot: its page is in use, its bank below the cap, its agent with a slot
free (R280, R281)? -/
def State.slotsFree (s : State) (off n : Nat) : Bool :=
  (linePieces (n / 256 + 2) off n).all (fun x =>
    let o := s.remap x.1
    !s.offRetry x.1 && decide (s.bankSlots (s.bankKey o) < s.bankCap (chanOf o / 4)) && decide (s.agentSlots (chanOf o / 4) < 1024))

/-! ### Retirement and initialisation come to their ends (R332, R336) -/

/-- Copy one 256 B line through the slices with its poison. -/
def State.copyLine (s : State) (src dst : Nat) : State :=
  let (d, p, _, s) := s.l2Serve src 256 false false [] 0 1 0 0 []
  (s.l2Serve dst 256 true false d p 1 0 0 []).2.2.2

/-- Copy one 2 MiB page. -/
def State.copyPage (s : State) (src dst : Nat) : State :=
  (List.range 8192).foldl (fun s i => s.copyLine (src + 256 * i) (dst + 256 * i)) s

/-- DDR_RETIRE_CTRL.go: requests to the page are turned away from now on; a go while busy is not taken. -/
def State.retireGo (s : State) (n : Nat) : State :=
  if s.getF aDdrRetireCtrl 31 31 = 1 then s
  else
    let s := (s.setF aDdrRetireCtrl 8 0 n).setF aDdrRetireCtrl 31 31 1
    { s with mem := { s.mem with retiring := some n } }

/-- Change the persistent log. -/
def State.onDdrLog (s : State) (f : DdrLog → DdrLog) : State := { s with otp := { s.otp with ddrLog := f s.otp.ddrLog } }

/-- First page of the retirement pool, the highest 1 GiB of space 0 (R331). -/
def State.poolPage (s : State) : Nat := s.ddrBytes / 2 ^ 21 - 512

/-- Retire a page by remap entry n; where there is none the page stays in service and the device is reported degraded (R331–R333). -/
def State.retireBy (s : State) (page : Nat) : Option Nat → State
  | some n => (s.wrN (aDdrRemap n) ((s.poolPage + n) * 2 ^ 42 + page * 2 ^ 21)).retireGo n
  | none => s.onDdrLog (fun l => { l with degraded := true })

/-- Does a remap entry name a page already? -/
def State.remapNames (s : State) (page : Nat) : Bool :=
  (List.range 512).any (fun n => s.rdN (aDdrRemap n) != 0 && bits (s.rdN (aDdrRemap n)) 41 21 == page)

/-- The lowest remap entry not in use, for a page below the pool. -/
def State.remapFree (s : State) (page : Nat) : Option Nat :=
  if page < s.poolPage then firstIdx (fun n => s.rdN (aDdrRemap n) == 0) 512 else none

/-- Firmware retires a page of space 0: to the pool page of the lowest remap entry not in use; a page that an entry already
names is retired, one that waits for the copy under way is queued, and where no entry or no pool page is left the page stays in
service and the device is reported degraded (R331–R333; the order of entries and pool pages is a DESIGN CHOICE, log entry 81). -/
def State.retirePage (s : State) (page : Nat) : State :=
  if s.getF aDdrRetireCtrl 31 31 = 1 then
    { s with mem := { s.mem with retireQ := s.mem.retireQ.filter (· != page) ++ [page] } }
  else if s.remapNames page then s
  else s.retireBy page (s.remapFree page)

/-- Firmware starts the next retirement that it has queued (R332, R333). -/
def State.retireNext (s : State) : State :=
  match s.mem.retireQ with
  | page :: rest => ({ s with mem := { s.mem with retireQ := rest } }).retirePage page
  | [] => s

/-- Once no request holds a slot on the page being retired, its 2 MiB stand in the pool page, the entry is valid and busy
clears; firmware logs the retirement (R332, R333). -/
def State.retireDone (s : State) : State :=
  match s.mem.retiring with
  | none => s
  | some n =>
    let e := s.rdN (aDdrRemap n)
    if s.mem.reqs.any (fun r => (r.stage == .slot) && decide (r.off / 2 ^ 21 = bits e 41 21)) then s
    else
      let s := s.copyPage (bits e 41 21 * 2 ^ 21) (bits e 62 42 * 2 ^ 21)
      let s := (s.setF (aDdrRemap n) 63 63 1).setF aDdrRetireCtrl 31 31 0
      let s := s.onDdrLog (fun l => { l with retired := l.retired ++ [(bits e 41 21, bits e 62 42)] })
      ({ s with mem := { s.mem with retiring := none } }).retireNext

/-- Background initialisation writes zeros over channel c's local addresses from its pointer up to `to` (R336, R342). -/
def State.initTo (s : State) (c to_ : Nat) : State :=
  let p := s.rdN (aDdrInitPtr c)
  let inside (a : Nat) : Bool := decide (chanOf a = c ∧ p ≤ localOf a ∧ localOf a < to_)
  let s := { s with mem := { s.mem with
    ddr := mapDrop inside s.mem.ddr, ddrPoison := mapDrop (fun w => inside (32 * w)) s.mem.ddrPoison } }
  (s.wrN (aDdrInitPtr c) to_).cnt (aCntDdrWrBytes c) (to_ - p)

/-- Bytes of one module. -/
def State.moduleBytes (s : State) : Nat := s.moduleGib * 2 ^ 30

/-- Every channel has finished: init_done sets, and the scrub schedule begins (R330, R336). -/
def State.initEnd (s : State) : State :=
  ({ s with mem := { s.mem with scrubStart := s.hoop, scrubDone := [] } }).setF aDdrStatus 7 7 1

/-- Every channel's background initialisation goes to the end of its module. -/
def State.initRest (s : State) : State := (List.range 16).foldl (fun s c => s.initTo c s.moduleBytes) s

/-- Background initialisation completes. -/
def State.initDone (s : State) : State :=
  if s.getF aDdrStatus 1 0 = 2 ∧ s.getF aDdrStatus 7 7 = 0 then
    s.initRest.initEnd
  else s

/-- A request that a unit of the hub makes inside one command and that is turned away with the retry flag waits for the
retirement or the initialisation to end (R332, R336; DESIGN CHOICE, log entry 78). -/
def State.awaitRetry (s : State) (off : Nat) : State :=
  let s := if s.retiringPage off then s.retireDone else s
  if s.uninitialised off then s.initDone else s

/-! ### Whole ranges, as the MP and the hub engines read and write them (class and reuse of R285) -/

/-- Read a range of space 0 through the slices: data, any poison met, the state. The reader's requests take their slots and
give them back inside the command that reads (R280; log entry 78). -/
def State.memRead (s : State) (off n cls : Nat) : List Byte × Bool × State :=
  (linePieces (n / 256 + 2) off n).foldl (fun (p : List Byte × Bool × State) x =>
    let s := p.2.2.awaitRetry x.1
    let (d, po, _, s) := s.l2Serve (s.remap x.1) x.2 false false [] 0 cls 0 0 []
    (p.1 ++ d, p.2.1 || po ≠ 0, s)) ([], false, s)

/-- Write a range of space 0 through the slices. -/
def State.memWrite (s : State) (off : Nat) (data : List Byte) (cls : Nat) : State :=
  (linePieces (data.length / 256 + 2) off data.length).foldl (fun s x =>
    let s := s.awaitRetry x.1
    (s.l2Serve (s.remap x.1) x.2 true false ((data.drop (x.1 - off)).take x.2) 0 cls 0 0 []).2.2.2) s

/-- Copy up to one line from an offset to another with its poison, both with class 0b01, as the wale engine and the
pre-emption paths do: the poison met (R270, R285). -/
def State.copyPiece (s : State) (src n dst : Nat) : Nat × State :=
  let s := (s.awaitRetry src).awaitRetry dst
  let (d, po, _, s) := s.l2Serve (s.remap src) n false false [] 0 1 0 0 []
  (po, (s.l2Serve (s.remap dst) n true false d po 1 0 0 []).2.2.2)

/-- Read a little-endian number of n bytes with class 0b00. -/
def State.memNat (s : State) (off n : Nat) : Nat × Bool × State :=
  let (d, bad, s) := s.memRead off n 0
  (leVal d, bad, s)

/-! ### Translation (R273–R275) -/

/-- A page, or the cause of a translation fault (R277). -/
inductive Walk
  | page (big : Bool) (dev space base : Nat) (wr : Bool)
  | fault (cause : Nat)
  /-- The page or its table lies outside the partition: a fault with cause 3, and event 0xE5 (R480). -/
  | outside
  deriving DecidableEq, Repr

/-- May partition p reach an offset of a space of its own device through translation (R480)? -/
def State.pageAllowed (s : State) (p dev sp off : Nat) : Bool :=
  if dev ≠ s.devId then true
  else if sp = 0 then
    decide ((s.part p).ddrBase ≤ off ∧ off < (s.part p).ddrBase + (s.part p).ddrLen)
  else bit (s.partHome p) (bits off 30 21 / 64)

/-- The offset that a page gives a partition address (R274). -/
def pageAddr (big : Bool) (base va : Nat) : Nat := base + va % (if big then 2 ^ 30 else 2 ^ 21)

/-- A page found by a walk, unless it leads outside the partition: cause 3 (R480). -/
def State.walkPage (s : State) (p va : Nat) (big : Bool) (dev sp base : Nat) (wr : Bool) : Walk :=
  if s.pageAllowed p dev sp (pageAddr big base va) then .page big dev sp base wr else .outside

/-- May a page map a space (R273, R274)? -/
def pageSpace (sp : Nat) : Bool := sp == 0 || sp == 1 || sp == 3

/-- Space 0 offset of the level-1 entry of a partition address, and of the level-2 entry that a pointer leads to (R274). -/
def State.walkAddr1 (s : State) (p va : Nat) : Nat := bits (s.rdN (aSeXlateBase p)) 41 21 * 2 ^ 21 + 8 * bits va 47 30
def walkAddr2 (e1 va : Nat) : Nat := bits e1 44 12 * 4096 + 8 * bits va 29 21

/-- What a level-1 entry says: a page or a fault, or nothing where it points to a level-2 table (R274). -/
def State.walkLevel1 (s : State) (p va e : Nat) : Option Walk :=
  match bits e 1 0 with
  | 0 => some (.fault 1)
  | 1 =>
    if bits e 29 12 ≠ 0 ∨ bits e 11 4 ≠ 0 ∨ bit e 2 ∨ !pageSpace (bits e 47 45) then some (.fault 3)
    else some (s.walkPage p va true (bits e 63 48) (bits e 47 45) (bits e 44 30 * 2 ^ 30) (bit e 3))
  | 2 =>
    if bits e 63 45 ≠ 0 ∨ bits e 11 4 ≠ 0 ∨ bit e 2 then some (.fault 3)
    else if !s.pageAllowed p s.devId 0 (bits e 44 12 * 4096) then some .outside
    else none
  | _ => some (.fault 3)

/-- What a level-2 entry says, reached through level-1 entry e1 (R274). -/
def State.walkLevel2 (s : State) (p va e1 e : Nat) : Walk :=
  match bits e 1 0 with
  | 0 => .fault 1
  | 1 =>
    if bits e 20 4 ≠ 0 ∨ bit e 2 ∨ !pageSpace (bits e 47 45) then .fault 3
    else s.walkPage p va false (bits e 63 48) (bits e 47 45) (bits e 44 21 * 2 ^ 21) (bit e1 3 && bit e 3)
  | _ => .fault 3

/-- Walk the table of partition p for a partition address, with no event (R274, R275, R289). -/
def State.walkQuiet (s : State) (p va : Nat) : Walk × State :=
  if !bit (s.rdN (aSeXlateBase p)) 0 then (.fault 1, s)
  else
    let (e1, bad, s) := s.memNat (s.walkAddr1 p va) 8
    if bad then (.fault 5, s)
    else match s.walkLevel1 p va e1 with
    | some w => (w, s)
    | none =>
      let (e2, bad, s) := s.memNat (walkAddr2 e1 va) 8
      if bad then (.fault 5, s) else (s.walkLevel2 p va e1 e2, s)

/-- Walk the table of partition p: a page outside the partition is a fault with cause 3, and event 0xE5 (R274, R480, R492). -/
def State.walk (s : State) (p va : Nat) : Walk × State :=
  match s.walkQuiet p va with
  | (.outside, s) => (.fault 3, s.postMp 0xE5 p va)
  | r => r

/-- Can the table reads of a walk have their slots (R275, R280, R281)? -/
def State.walkFree (s : State) (p va : Nat) : Bool :=
  let a := s.walkAddr1 p va
  !bit (s.rdN (aSeXlateBase p)) 0 ||
    (s.slotsFree a 8 &&
      (let e1 := (s.memNat a 8).1
       (s.walkLevel1 p va e1).isSome || s.slotsFree (walkAddr2 e1 va) 8))

/-- A tile's request outside its contexts, for a walk or a slath fetch, reaches its memory-edge lane, that of the tile's
column (R29, R30), and finds its bank at the cap or its page turned away: CAP_WAIT is counted, and it comes again (R281). -/
def State.turnedAway (s : State) (off : Nat) : State :=
  let o := s.remap off
  let q := chanOf o / 4
  if s.offRetry off ∨ s.bankCap q ≤ s.bankSlots (s.bankKey o) then s.cnt (aCntCapWait q) else s

/-- Read bytes at a partition address for the MP or the sequencer: none where a page is missing, translation faults,
or the page maps another device or another space (R204). -/
def State.partRead (s : State) (p va n : Nat) : Option (List Byte) × State :=
  match s.walk p va with
  | (.fault _, s) | (.outside, s) => (none, s)
  | (.page big dev sp base _, s) =>
    if dev = s.devId ∧ sp = 0 then
      let (d, bad, s) := s.memRead (pageAddr big base va) n 0
      (if bad then none else some d, s)
    else (none, s)

end Sys2Proof.Machine
end

