-- ==== Sys2Proof/Machine/Sync.lean ====
section
/-! DEFINITION. Sync objects: operations in flight, conditions and releases (R181, R182, R190–R193, R238). -/
namespace Sys2Proof.Machine

/-- Value of sync object i (R190). -/
def State.obj (s : State) (i : Nat) : Nat := (mapGet 0 s.sync.objs i).toNat

/-- Set the value of object i. -/
def State.setObj (s : State) (i v : Nat) : State :=
  { s with sync := { s.sync with objs := mapPut 0 s.sync.objs i (BitVec.ofNat 32 v) } }

/-- Does WAIT(≥ v) hold on a value (R190)? -/
def waitHolds (value v : Nat) : Bool := wrapGe value v

/-- Evaluate every pending condition on object i against the value just left; a release is never revoked (R191). -/
def State.evalWaits (s : State) (i : Nat) : State :=
  { s with sync := { s.sync with waits := s.sync.waits.map (fun w =>
      if w.obj = i ∧ waitHolds (s.obj i) w.val then { w with released := true } else w) } }

/-- Apply one operation at its holder: SIGNAL adds modulo 2^32, SET replaces (R190, R191). -/
def State.applyObj (s : State) (i : Nat) (set : Bool) (v : Nat) : State :=
  (s.setObj i (if set then v % 2 ^ 32 else (s.obj i + v) % 2 ^ 32)).evalWaits i

/-- Send an operation towards an object's holder (R191). -/
def State.sendOp (s : State) (o : SyncOp) : State := { s with sync := { s.sync with ops := s.sync.ops ++ [o] } }

/-- Register a pending condition with the holder, which evaluates it against the present value (R191). -/
def State.register (s : State) (w : WaitRec) : State :=
  let w := { w with released := waitHolds (s.obj w.obj) w.val }
  { s with sync := { s.sync with waits := s.sync.waits ++ [w] } }

/-- Remove the records of a tile that satisfy a test. -/
def State.dropWaits (s : State) (t : Nat) (p : Waiter → Bool) : State :=
  { s with sync := { s.sync with waits := s.sync.waits.filter (fun w => !(w.tile == t && p w.who)) } }

/-- The record of a waiter of tile t. -/
def State.waitRec (s : State) (t : Nat) (w : Waiter) : Option WaitRec :=
  s.sync.waits.find? (fun r => r.tile == t && r.who == w)

/-- Has the waiter's release reached it? -/
def State.delivered (s : State) (t : Nat) (w : Waiter) : Bool :=
  match s.waitRec t w with
  | some r => r.delivered
  | none => false

/-- The global address of a sync object (R380). -/
def syncAddr (dev obj : Nat) : Nat := dev * 2 ^ 48 + 2 * 2 ^ 45 + 4 * obj

/-- A signal with remote = 1 that names the own device: checked by R401 with the own ID as the source, then applied at its slice
(R182, R480). -/
def State.localSignal (s : State) (t : Nat) (g : Sig) : State :=
  let st := s.syncAccept g.obj s.devId
  if st ≠ 0 then s.signalOutcome t st
  else s.sendOp { src := t, obj := g.obj, set := g.set, val := g.val, reply := none }

/-- Fire one signal of tile t: a local object goes to its slice, another device's through the transport (R182). -/
def State.fireSig (s : State) (t : Nat) (g : Sig) : State :=
  if g.remote && g.dev = s.devId then s.localSignal t g
  else if g.remote then
    let (id, s) := s.newId
    s.fabSend { id, asker := .signal t, hub := false, unit := t, dev := g.dev, ptype := if g.set then 4 else 3,
                addr := syncAddr g.dev g.obj, operand := g.val, data := [], poison := 0, cls := 0, reuse := 0 }
  else s.sendOp { src := t, obj := g.obj, set := g.set, val := g.val, reply := none }

/-- Fire the signals of the entry with issue number n, in slot order, unless a replay finds its bit set in the fired
map; set the bit (R193, R197). -/
def State.fireSigs (s : State) (t n : Nat) (sigs : List Sig) : State :=
  let q := (s.tile t).seq
  if s.getF (aSqStatus t) 11 11 = 1 ∧ mapGet false q.fired n then s
  else
    let s := if n < 4096 then s.onSeq t (fun q => { q with fired := mapPut false q.fired n true }) else s
    sigs.foldl (fun s g => s.fireSig t g) s

end Sys2Proof.Machine
end

