-- ==== Sys2Proof/Machine/Sequencer.lean ====
section
/-! DEFINITION. The sequencer: fetch, waits, the entry kinds, recovery points, rewind, stops (R173–R210). -/
namespace Sys2Proof.Machine

/-- Apply a change where ACLK, NCLK, MCLK and SCLK run: not in a freeze, nor after a thermal trip (R572, R601). -/
def State.clocked (s : State) (f : State → State) : State :=
  if s.getF aDbgFreezeStatus 10 10 = 0 ∧ s.pwr.thermtrip = false then f s else s

/-! ### Commands issued and not completed -/

/-- Commands issued and not completed: queued, running in an array, the VE, the SE's contexts or on its port. -/
def Tile.live (x : Tile) : List Cmd :=
  x.queues.flatMap (·.2)
    ++ x.arrays.flatMap (fun a => a.2.runs.map (·.cmd))
    ++ (x.ve.ending ++ x.ve.run.toList).map (·.cmd)
    ++ (match x.ve.kload with | some k => [k.1] | none => [])
    ++ x.ctxs.flatMap (fun c => match c.2.cmd with | some k => [k] | none => [])
    ++ (match x.seAux with | some a => [a.1] | none => [])

/-- Every issued command has completed. -/
def Tile.drained (x : Tile) : Bool := x.live.isEmpty

/-- Every issued command has completed, counting the commands of halted contexts as completed (R279). -/
def Tile.stopDrained (x : Tile) : Bool :=
  { x with ctxs := x.ctxs.filter (fun c => decide (c.2.state ≠ CtxState.halted)) }.drained

/-- Every command issued earlier than issue number n has completed, and none with a parity event (R196). -/
def Tile.clearBefore (x : Tile) (n : Nat) : Bool := !x.seq.parityDone && x.live.all (fun c => decide (n ≤ c.issue))

/-! ### The slath buffer (R176) -/

/-- An empty slot: no entry has this index. -/
def slathNone : Nat × Nat := (2 ^ 20, 0)

/-- Entry i, where the buffer holds it. -/
def Tile.entryAt (x : Tile) (i : Nat) : Option Nat :=
  let p := mapGet slathNone x.slath (i % 1024)
  if p.1 = i then some p.2 else none

/-- Put entry i into its slot. -/
def Tile.putEntry (x : Tile) (i e : Nat) : Tile := { x with slath := mapPut slathNone x.slath (i % 1024) (i, e) }

/-- The block of 16 entries is wanted: an entry from the current one to 255 beyond it is missing and not on its way. -/
def Tile.wants (x : Tile) (pc b : Nat) : Bool :=
  !x.fetches.contains b &&
  ((List.range 16).map (16 * b + ·)).any (fun i =>
    decide (pc ≤ i ∧ i ≤ pc + 255 ∧ i < x.seq.entryCount) && (x.entryAt i).isNone)

/-- Issue the fetches that the buffer wants, with at most eight outstanding (R176). -/
def State.fetchAhead (s : State) (t : Nat) : State :=
  let pc := s.pc t
  s.onTile t (fun x =>
    let w := ((List.range 17).map (pc / 16 + ·)).filter (x.wants pc ·)
    { x with fetches := x.fetches ++ w.take (8 - x.fetches.length) })

/-- Show in SQ_STATUS whether the next entry has ny = 1 (R206). -/
def State.showSpan (s : State) (t : Nat) : State :=
  s.setF (aSqStatus t) 10 10 (match (s.tile t).entryAt (s.pc t) with | some e => b2n (entNy e) | none => 0)

/-- Drop the wait records of the current entry. -/
def State.dropEntryWaits (s : State) (t : Nat) : State :=
  s.dropWaits t (fun w => match w with | .entry _ => true | _ => false)

/-- Make entry i the next to execute. -/
def State.goto (s : State) (t i : Nat) : State :=
  let s := (s.dropEntryWaits t).setF (aSqPc t) 19 0 i
  let s := s.onSeq t (fun q => { q with registered := false, rpPassed := false, paramOp := 0, ld8 := none, waited := 0 })
  (s.fetchAhead t).showSpan t

/-- A parity event of an entry, with the address that failed, is on its way to the sequencer (R172, R200). -/
def State.parityDue (s : State) (t entry addr : Nat) : State :=
  s.onSeq t (fun q => { q with parityDue := some entry, parityAddr := addr })

/-! ### Stopping (R201, R202, R241) -/

/-- Withdraw every command that has not committed, in queue order (R241). -/
def State.withdraw (s : State) (t : Nat) : State :=
  let ws := ((List.range 6).flatMap ((s.tile t).queue ·)).map (fun c => { c with started := false, waited := 0 })
  let s := ws.foldl (fun s c => s.post (rimTile t (c.target + 1)) 0x82 c.entry c.target) s
  let s := (List.range 6).foldl (fun s e => s.setQueue t e []) s
  let s := s.dropWaits t (fun w => match w with | .guard _ => true | _ => false)
  s.onSeq t (fun q => { q with withdrawn := q.withdrawn ++ ws })

/-- Is the boundary before the current entry a stop point (R201)? An entry that is missing and not on its way is one
(DEDUCED, log entry 10). -/
def State.atStopPoint (s : State) (t : Nat) : Bool :=
  let x := s.tile t
  x.seq.paramOp == 0 && x.seq.ld8.isNone &&
  (match x.entryAt (s.pc t) with
   | some e => !entNy e
   | none => !x.fetches.contains (s.pc t / 16))

/-- Take a stop that is asked for, where the sequencer stands at a stop point (R202). A recovery point passed before the
entry that waits there stays passed: it is not passed again after the resume, and no snapshot is taken (R200). -/
def State.takeStop (s : State) (t : Nat) : State :=
  if (s.tile t).seq.stopReq.isSome ∧ (s.sq t = sqRun ∨ s.sq t = sqBlocked) ∧ s.atStopPoint t then
    let s := (s.dropEntryWaits t).onSeq t (fun q => { q with registered := false, waited := 0 })
    (s.setSq t sqStopping 0).withdraw t
  else s

/-- A stop with its cause, 1 MP stop or 2 pre-emption: at the next stop point, held pending in REWIND (R202, R205). -/
def State.askStop (s : State) (t cause : Nat) : State :=
  if s.sq t = sqRun ∨ s.sq t = sqBlocked ∨ s.sq t = sqRewind then
    (s.onSeq t (fun q => { q with stopReq := some cause })).takeStop t
  else s

/-- Enter STOPPED, with event 0x74 (R202, R210). -/
def State.enterStopped (s : State) (t : Nat) : State :=
  let cause := (s.tile t).seq.stopReq.getD 1
  let s := (s.setSq t sqStopped 0).onSeq t (fun q => { q with stopReq := none })
  s.post (rimTile t 0) 0x74 (s.pc t) cause

/-! ### SQ_CTRL (R205) -/

/-- An SQ_CTRL command that does not apply is ignored and logged as event 0xD6 (R205, R474). -/
def State.sqIgnored (s : State) (t v : Nat) : State := s.postMp 0xD6 v (aSqCtrl t)

/-- SQ_CTRL.start: from LOADED to RAMP. -/
def State.sqStart (s : State) (t : Nat) (v : Nat := 1) : State :=
  if s.sq t = sqLoaded then
    ((s.setSq t sqRamp 0).onSeq t (fun q => { q with completed := 0 })).fetchAhead t
  else s.sqIgnored t v

/-- SQ_CTRL.stop: from RUN, BLOCKED or REWIND. -/
def State.sqStop (s : State) (t : Nat) (v : Nat := 2) : State :=
  if s.sq t = sqRun ∨ s.sq t = sqBlocked ∨ s.sq t = sqRewind then s.askStop t 1 else s.sqIgnored t v

/-- SQ_CTRL.resume: from STOPPED to RAMP. -/
def State.sqResume (s : State) (t : Nat) (v : Nat := 4) : State :=
  if s.sq t = sqStopped then (s.setSq t sqRamp 0).fetchAhead t else s.sqIgnored t v

/-- SQ_CTRL.rewind: from STOPPED or FAULTED, from step 2 of R200. -/
def State.sqRewindCmd (s : State) (t : Nat) (v : Nat := 8) : State :=
  if (s.sq t = sqStopped ∨ s.sq t = sqFaulted) ∧ (s.tile t).seq.snapshot.isSome then
    (s.setSq t sqRewind 0).onSeq t (fun q => { q with
      rewind := some (s.pc t), mpRewind := true, abortDue := false, replayDue := none })
  else s.sqIgnored t v

/-- LOADED at entry 0, withdrawn commands discarded (R205). -/
def State.toLoaded (s : State) (t : Nat) : State :=
  let s := (s.setSq t sqLoaded 0).setF (aSqStatus t) 9 7 0
  let s := (List.range 4).foldl (fun s n => s.setF (aSqLoopPos t n) 63 63 0) s
  let s := s.setF (aSqStatus t) 11 11 0
  let s := s.onSeq t (fun q => { q with
    snapshot := none, fired := [], issueCount := 0, parityDone := false, parityDue := none, rewind := none,
    mpRewind := false, rewound := false, stopReq := none, abortDue := false, withdrawn := [], completed := 0,
    replayDue := none })
  s.goto t 0

/-- SQ_CTRL.abort: from STOPPED, DONE or FAULTED to LOADED; in FAULTED once every issued command has completed. -/
def State.sqAbortCmd (s : State) (t : Nat) (v : Nat := 16) : State :=
  if s.sq t = sqStopped ∨ s.sq t = sqDone then s.toLoaded t
  else if s.sq t = sqFaulted then
    (if (s.tile t).drained then s.toLoaded t else s.onSeq t (fun q => { q with abortDue := true }))
  else s.sqIgnored t v

/-- SQ_START (R205). -/
def execSqStart (t : TileId) (s : State) : Host.Outcome State Fault Refusal := .next (s.clocked (·.sqStart t.val))
/-- SQ_STOP (R202, R205). -/
def execSqStop (t : TileId) (s : State) : Host.Outcome State Fault Refusal := .next (s.clocked (·.sqStop t.val))
/-- SQ_RESUME (R205). -/
def execSqResume (t : TileId) (s : State) : Host.Outcome State Fault Refusal := .next (s.clocked (·.sqResume t.val))
/-- SQ_REWIND (R200, R205). -/
def execSqRewind (t : TileId) (s : State) : Host.Outcome State Fault Refusal := .next (s.clocked (·.sqRewindCmd t.val))
/-- SQ_ABORT (R205). -/
def execSqAbort (t : TileId) (s : State) : Host.Outcome State Fault Refusal := .next (s.clocked (·.sqAbortCmd t.val))
/-- SQ_ABORT_TAKES_EFFECT: an abort written in FAULTED, once every issued command has completed (R205). -/
def execSqAbortTakesEffect (t : TileId) (s : State) : Host.Outcome State Fault Refusal :=
  .next (s.clocked (fun s =>
    if s.sq t.val = sqFaulted ∧ (s.tile t.val).seq.abortDue ∧ (s.tile t.val).drained then s.toLoaded t.val else s))

/-! ### Slath fetch (R176, R177) -/

/-- The partition address of entry block b (R173). -/
def State.blockAddr (s : State) (t b : Nat) : Nat := bits (s.rdN (aSqSlathBase t)) 47 10 * 1024 + 1024 + 1024 * b

/-- Install one fetched entry: a corrected one is counted, an uncorrectable one is asked for again (R177). -/
def State.installEntry (s : State) (t i : Nat) (data : List Byte) (e0 e1 : SymErrs) : State :=
  let d0 := strongDecode (e0.map (fun e => (e.1, e.2.toNat)))
  let d1 := strongDecode (e1.map (fun e => (e.1, e.2.toNat)))
  let dec (d : Decoded) (es : SymErrs) (b : List Byte) : List Byte := decodedData b (es.map (fun e => (e.1, e.2.toNat))) d
  match d0, d1 with
  | .uncorrectable, _ | .poisoned, _ | _, .uncorrectable | _, .poisoned =>
    ((s.cnt (aCntSqRefetch t)).post (rimTile t 0) 0x78 i (i % 1024))
  | _, _ =>
    let met (d : Decoded) : Bool := match d with | .corrected _ => true | _ => false
    let e := leVal (dec d0 e0 (data.take 32) ++ dec d1 e1 (data.drop 32))
    (s.cnt (aCntSpadCorr t) (b2n (met d0 || met d1))).onTile t (·.putEntry i e)

/-- Install a block of 16 entries: none past the last entry, and none whose slot another entry still keeps, one from 768
before the current entry to 255 beyond it (R176). -/
def State.installBlock (s : State) (t b : Nat) (data : List Byte) (errs : List SymErrs) : State :=
  (List.range 16).foldl (fun s k =>
    let i := 16 * b + k
    if i < (s.tile t).seq.entryCount ∧ i ≤ s.pc t + 255 ∧ s.pc t ≤ i + 768 then
      s.installEntry t i ((data.drop (64 * k)).take 64) (errs.getD (2 * k) []) (errs.getD (2 * k + 1) [])
    else s) s

/-- A fetch returns its data: the current entry may be here, and the buffer asks for what it still wants. -/
def State.fetchDone (s : State) (t b : Nat) (data : List Byte) (errs : List SymErrs) : State :=
  let s := s.onTile t (fun x => { x with fetches := x.fetches.erase b })
  let s := ((s.installBlock t b data errs).fetchAhead t).showSpan t
  let s := if s.sq t = sqBlocked ∧ s.getF (aSqStatus t) 6 4 = 3 ∧ ((s.tile t).entryAt (s.pc t)).isSome then s.setSq t sqRun 0 else s
  s.takeStop t

/-- SLATH_FETCH_RETURN: `remote` is the data where the page lies on another device or in a window (R176, R177). A fetch whose
reads have no slot yet goes on waiting (R280, R281). -/
def execSlathFetchReturn (t : TileId) (block : Nat) (errs : List SymErrs) (remote : List Byte) (s : State) :
    Host.Outcome State Fault Refusal :=
  .next (s.clocked (fun s =>
    if (s.tile t.val).fetches.contains block then
      let va := s.blockAddr t.val block
      if !s.walkFree (s.tilePartD t.val) va then s.turnedAway (s.walkAddr1 (s.tilePartD t.val) va)
      else match s.walk (s.tilePartD t.val) va with
      | (.fault _, s) | (.outside, s) => s
      | (.page big dev sp base _, s) =>
        let off := pageAddr big base va
        if dev = s.devId ∧ sp = 0 then
          if !s.slotsFree off 1024 then s.turnedAway off
          else
            let (d, bad, s) := s.memRead off 1024 0
            if bad then s else s.fetchDone t.val block d errs
        else s.fetchDone t.val block (remote ++ List.replicate 1024 0 |>.take 1024) errs
    else s))

/-! ### Execution of one entry (R187) -/

/-- Does a recovery point lie immediately before entry i (R194)? -/
def needsRp (i e : Nat) : Bool := i == 0 || entKind e == kMark || entRp e

/-- Register the enabled waits of the current entry with their holders (R181, R191). -/
def State.registerWaits (s : State) (t e : Nat) : State :=
  if (s.tile t).seq.registered then s
  else
    let s := ([0, 1].filter (waitEn e ·)).foldl (fun s k =>
      s.register { tile := t, who := .entry k, obj := s.waitObj t e k, val := s.waitVal t e k,
                   released := false, delivered := false }) s
    s.onSeq t (fun q => { q with registered := true })

/-- Have all waits of the current entry been released and delivered? -/
def State.waitsOk (s : State) (t e : Nat) : Bool := [0, 1].all (fun k => !waitEn e k || s.delivered t (.entry k))

/-- The sequencer spends an ACLK in BLOCKED under one cause (R187, R206). -/
def State.blocked (s : State) (t cause : Nat) : State :=
  let s := s.setSq t sqBlocked cause
  let s := if cause = 1 then s.onSeq t (fun q => { q with waited := q.waited + 1 }) else s
  s.cnt (if cause = 1 then aCntSqSync t else if cause = 2 then aCntSqQfull t else if cause = 3 then aCntSqFetch t
         else aCntSqDrain t)

/-- Bring the current entry to its execution if it is of the wanted kind: the entry, or nothing, and the state. -/
def State.attempt (s : State) (t : Nat) (want : Nat → Bool) : Option Nat × State :=
  let q := (s.tile t).seq
  if ¬(s.sq t = sqRun ∨ s.sq t = sqBlocked) ∨ q.paramOp ≠ 0 ∨ q.ld8.isSome then (none, s)
  else
    match (s.tile t).entryAt (s.pc t) with
    | none => (none, (s.fetchAhead t).blocked t 3)
    | some e =>
      if !want e then (none, s)
      else
        let s := s.registerWaits t e
        if !s.waitsOk t e then (none, s.blocked t 1)
        else if needsRp (s.pc t) e && !(s.tile t).seq.rpPassed then (none, s.blocked t 4)
        else (some e, s)

/-- Count an executed entry towards DBG_BREAK (R584). -/
def State.breakHit (s : State) (t i : Nat) : State :=
  let b := s.rdN aDbgBreak
  if bits b 63 54 = t ∧ bits b 53 34 = i then
    let n := s.dbg.breakSeen + 1
    { s with dbg := { s.dbg with
        breakSeen := n,
        breakDue := s.dbg.breakDue || (n == max 1 (bits b 33 10) && s.getF aDbgFreezeCtrl 7 7 == 1) } }
  else s

/-- The current entry executes: it is numbered, counted and traced (R187, R197, R209, R569). Answers its issue number. -/
def State.executed (s : State) (t : Nat) (base0 : Nat) : Nat × State :=
  let n := (s.tile t).seq.issueCount
  let s := s.setSq t sqRun 0
  let s := (s.onSeq t (fun q => { q with issueCount := q.issueCount + 1 })).cnt (aCntSqEntries t)
  let s := if s.getF (aTileCntCtrl t) 1 1 = 1 then s.post (rimTile t 0) 0x79 (s.pc t) base0 else s
  (n, s.breakHit t (s.pc t))

/-- Go on at entry i after an execution; a stop asked for takes effect at a stop point. -/
def State.proceed (s : State) (t i : Nat) : State := (s.goto t i).takeStop t

/-- SYNC (R184, R193): the fence, then the signals. -/
def State.doSync (s : State) (t : Nat) : State :=
  match s.attempt t (fun e => entKind e == kSync) with
  | (none, s) => s
  | (some e, s) =>
    let fence := bits (entPayload e) 5 0
    if (s.tile t).live.any (fun c => bit fence c.target) then s.blocked t 5
    else
      let sigs := s.entrySigs t e
      let (n, s) := s.executed t 0
      (s.fireSigs t n sigs).proceed t (s.pc t + 1)

/-- LOOP (R188, R189). -/
def State.doLoop (s : State) (t : Nat) : State :=
  match s.attempt t (fun e => entKind e == kLoop) with
  | (none, s) => s
  | (some e, s) =>
    let p := entPayload e
    let i := s.pc t
    let n := if bits p 25 21 ≠ 0 then s.sreg t (bits p 25 21) else bits p 20 0
    let (_, s) := s.executed t 0
    if 2 ^ 20 < n then s.contained t 0x01 i
    else if n = 0 then s.proceed t (bits p 51 32 + 1)
    else
      let d := s.getF (aSqStatus t) 9 7
      let idx := bits p 30 26
      let s := s.wrN (aSqLoopPos t d) (2 ^ 63 + idx * 2 ^ 58 + bits p 51 32 * 2 ^ 20 + i)
      let s := (s.wrN (aSqLoopCnt t d) (n * 2 ^ 32)).setF (aSqStatus t) 9 7 (d + 1)
      (s.setSreg t idx 0).proceed t (i + 1)

/-- NEXT (R188). -/
def State.doNext (s : State) (t : Nat) : State :=
  match s.attempt t (fun e => entKind e == kNext) with
  | (none, s) => s
  | (some _, s) =>
    let j := s.pc t
    let (_, s) := s.executed t 0
    let d := s.getF (aSqStatus t) 9 7 - 1
    let pos := s.rdN (aSqLoopPos t d)
    let cnt := s.rdN (aSqLoopCnt t d)
    let rem := bits cnt 52 32 - 1
    if 0 < rem then
      let index := bits cnt 20 0 + 1
      let s := s.wrN (aSqLoopCnt t d) (rem * 2 ^ 32 + index)
      (s.setSreg t (bits pos 62 58) index).proceed t (bits pos 19 0 + 1)
    else
      let s := s.wrN (aSqLoopCnt t d) (bits cnt 20 0)
      ((s.setF (aSqLoopPos t d) 63 63 0).setF (aSqStatus t) 9 7 d).proceed t (j + 1)

/-- One scalar operation other than LD8 (R185): what it writes, if anything. -/
def scalarOp (op a b imm : Nat) (immS : Int) : Option Nat :=
  let u (i : Int) : Nat := unsignedOf 64 i
  match op with
  | 0x01 => some (u immS)
  | 0x02 => some (u (a + immS))
  | 0x03 => some ((a + b) % 2 ^ 64)
  | 0x04 => some (u ((a : Int) - b))
  | 0x05 => some (u (a * immS))
  | 0x06 => some (a * b % 2 ^ 64)
  | 0x07 => some (a * 2 ^ (imm % 64) % 2 ^ 64)
  | 0x08 => some (a / 2 ^ (imm % 64))
  | 0x09 => some (a &&& b)
  | 0x0A => some (a ||| b)
  | 0x0B => some (a ^^^ b)
  | 0x0C => some (a &&& u immS)
  | 0x0D => some (min a b)
  | 0x0E => some (max a b)
  | 0x0F => some (u (a + immS * 2 ^ 21))
  | _ => none

/-- Operation j of a PARAM payload (R185). -/
def paramWord (p j : Nat) : Nat := bits p (64 * j + 63) (64 * j)

/-- Run the operations of a PARAM from number j on, up to an LD8, which waits for its data. -/
def State.runParam (t p : Nat) : Nat → Nat → State → State
  | 0, _, s =>
    let (_, s) := s.executed t 0
    s.proceed t (s.pc t + 1)
  | k + 1, j, s =>
    let w := paramWord p j
    let op := bits w 63 58
    let a := s.sreg t (bits w 52 48)
    let b := s.sreg t (bits w 47 43)
    let imm := bits w 42 0
    if op = 0x10 then
      let s := s.onSeq t (fun q => { q with
        paramOp := j + 1, ld8 := some (bits w 57 53, unsignedOf 21 (a + signedOf 43 imm)) })
      s.blocked t 6
    else
      let s := match scalarOp op a b imm (signedOf 43 imm) with
        | some v => s.setSreg t (bits w 57 53) v
        | none => s
      s.runParam t p k (j + 1)

/-- PARAM (R185). -/
def State.doParam (s : State) (t : Nat) : State :=
  match s.attempt t (fun e => entKind e == kParam) with
  | (none, s) => s
  | (some e, s) => s.runParam t (entPayload e) 5 0

/-- LD8_DATA_RETURN: the aligned 8 B through the sequencer port (R137, R147, R185). -/
def State.doLd8 (s : State) (t : Nat) : State :=
  match (s.tile t).seq.ld8, (s.tile t).entryAt (s.pc t) with
  | some (rd, a), some e =>
    if s.sq t ≠ sqBlocked then s
    else
      let (r, s) := s.spadRead t (spadRange (a / 8 * 8) 8)
      let j := (s.tile t).seq.paramOp
      let s := s.onSeq t (fun q => { q with ld8 := none })
      match r.uncorr, r.parity with
      | some x, _ => (s.spadErr t 2 false (s.pc t) x).contained t 0x04 (s.pc t)
      | none, some x => (s.spadErr t 1 false (s.pc t) x).parityDue t (s.pc t) x
      | none, none =>
        let s := (s.setSreg t rd (leVal r.data)).setSq t sqRun 0
        s.runParam t (entPayload e) (5 - j) j
  | _, _ => s

/-- The base of a window image after its register sum (R184). -/
def winImage (range s0 : Nat) : Nat := setBits range 20 0 ((bits range 20 0 + s0) % 2 ^ 21)

/-- Is the entry a WINDOW with the given op (R184)? -/
def isWindow (op e : Nat) : Bool := entKind e == kWindow && bits (entPayload e) 0 0 == op

/-- Close window n of tile t: the cause bit tells a close by its condition (R158). -/
def State.closeWin (s : State) (t n : Nat) (byCond : Bool) : State :=
  let s := s.dropWaits t (fun w => w == .window n)
  (s.setF (aSpadWinStatus t n) 0 0 0).setF (aSpadWinStatus t n) 1 1 (b2n byCond)

/-- Window n of tile t takes its close condition from SPAD_WIN_CLOSE_n: none while it is closed or close_en is 0; one that
already holds closes it at once; else the holder watches it (R150, R157). -/
def State.armWindow (s : State) (t n : Nat) : State :=
  let s := s.dropWaits t (fun w => w == .window n)
  let c := s.rdN (aSpadWinClose t n)
  if !s.winOpen t n || !bit c 31 then s
  else if waitHolds (s.obj (bits c 13 0)) (bits c 63 32) then
    (s.closeWin t n true).post (rimTile t 0) 0x63 (bits c 13 0) n
  else s.register { tile := t, who := .window n, obj := bits c 13 0, val := bits c 63 32, released := false, delivered := false }

/-- WINDOW with op 0: write the three registers and open the window; a close condition that already holds closes it in
the same ACLK (R150, R184). -/
def State.doWindowOpen (s : State) (t : Nat) : State :=
  match s.attempt t (isWindow 0) with
  | (none, s) => s
  | (some e, s) =>
    let p := entPayload e
    let n := bits p 4 1
    let i := s.pc t
    let close := bits p 255 192
    let obj := s.absObj t (bits close 13 0)
    let value := (bits close 63 32 + s.sreg t (entBreg e 1)) % 2 ^ 32
    let sigs := s.entrySigs t e
    let s := s.wrN (aSpadWinRange t n) (winImage (bits p 127 64) (s.sreg t (entBreg e 0)))
    let s := s.wrN (aSpadWinWriters t n) (bits p 191 128)
    let s := s.wrN (aSpadWinClose t n) (setBits (setBits close 63 32 value) 13 0 obj)
    let s := s.setF (aSpadWinStatus t n) 0 0 1
    let (k, s) := s.executed t 0
    let s := (s.post (rimTile t 0) 0x61 i n).armWindow t n
    (s.fireSigs t k sigs).proceed t (i + 1)

/-- WINDOW with op 1 (R149, R184). -/
def State.doWindowClose (s : State) (t : Nat) : State :=
  match s.attempt t (isWindow 1) with
  | (none, s) => s
  | (some e, s) =>
    let n := bits (entPayload e) 4 1
    let i := s.pc t
    let sigs := s.entrySigs t e
    let (k, s) := s.executed t 0
    let s := (s.closeWin t n false).post (rimTile t 0) 0x62 i n
    (s.fireSigs t k sigs).proceed t (i + 1)

/-- MARK (R194): its recovery point is passed by then. -/
def State.doMark (s : State) (t : Nat) : State :=
  match s.attempt t (fun e => entKind e == kMark) with
  | (none, s) => s
  | (some e, s) =>
    let sigs := s.entrySigs t e
    let (k, s) := s.executed t 0
    (s.fireSigs t k sigs).proceed t (s.pc t + 1)

/-- Job state of a partition, as PARTITION_QUERY codes it: 0 none, 1 loaded, 2 running, 3 stopped, 4 pre-empted, 5 done,
6 faulted (R462, R490). -/
def State.job (s : State) (p : Nat) : Nat := s.getF (aMpPartStatus p) 19 16
def State.setJob (s : State) (p j : Nat) : State := s.setF (aMpPartStatus p) 19 16 j

/-- Have the sequencers of a partition that run a slath satisfied a test? Those that no load named stay IDLE. -/
def State.allLoaded (s : State) (p : Nat) (f : Nat → Bool) : Bool :=
  (s.partTiles p).all (fun t => s.sq t == sqIdle || f (s.sq t)) && (s.partTiles p).any (fun t => s.sq t != sqIdle)

/-- Every sequencer of the partition of tile t has reached DONE: the job is done, with a JOB_END record (R467). -/
def State.jobEnd (s : State) (t : Nat) : State :=
  match s.tilePart t with
  | none => s
  | some p =>
    if s.job p = 2 ∧ s.allLoaded p (· == sqDone) then
      (s.setJob p 5).event 1 p (s.rdN (aMpWaleStep p)) 0
    else s

/-- The arrays of a tile that has reached END run ballast until the ramp-down stops them (R92). -/
def State.endBallast (s : State) (t : Nat) : State :=
  (List.range s.arraysPerTile).foldl (fun s m => if s.getF (aMacStatus t m) 3 3 = 1 then s else s.ballastOn t m) s

/-- END (R187): every command has completed, none with a parity event that still has to be rewound (R200); the sequencer is
DONE. -/
def State.doEnd (s : State) (t : Nat) : State :=
  match s.attempt t (fun e => entKind e == kEnd) with
  | (none, s) => s
  | (some e, s) =>
    if !(s.tile t).drained || (s.tile t).seq.parityDone || (s.tile t).seq.parityDue.isSome then s.blocked t 4
    else
      let sigs := s.entrySigs t e
      let (k, s) := s.executed t 0
      let s := (s.fireSigs t k sigs).post (rimTile t 0) 0x71 (s.pc t) ((s.tile t).seq.completed % 2 ^ 48)
      (((s.dropEntryWaits t).setSq t sqDone 0).endBallast t).jobEnd t

/-- Operand 0's base in a payload (R569). -/
def payloadBase0 (target p : Nat) : Nat :=
  if target = 5 ∧ seSop p = 0 then bits p 47 0 else bits p 20 0

/-- ENGINE (R183, R211): the command enters its queue with its base sums and latched registers. -/
def State.doEngine (s : State) (t : Nat) : State :=
  match s.attempt t (fun e => entKind e == kEngine) with
  | (none, s) => s
  | (some e, s) =>
    let g := entTarget e
    if 16 ≤ ((s.tile t).queue g).length then s.blocked t 2
    else
      let p := s.baseSums t g e
      let sigs := s.entrySigs t e
      let i := s.pc t
      let (n, s) := s.executed t (payloadBase0 g p)
      let c : Cmd := {
        entry := i, issue := n, target := g, payload := p, bh := entBh e,
        guardVal := (s.sreg t (guardReg g p) % 2 ^ 32 + sext32 16 (guardImm g p)) % 2 ^ 32,
        origin := s.sreg t (veOreg p), dev := s.sreg t (seDevreg p) % 2 ^ 16, sigs,
        started := false, waited := 0, ran := 0 }
      (s.setQueue t g ((s.tile t).queue g ++ [c])).proceed t (i + 1)

/-- ENGINE. -/
def execEngine (t : TileId) (s : State) : Host.Outcome State Fault Refusal := .next (s.clocked (·.doEngine t.val))
/-- SYNC. -/
def execSync (t : TileId) (s : State) : Host.Outcome State Fault Refusal := .next (s.clocked (·.doSync t.val))
/-- LOOP. -/
def execLoop (t : TileId) (s : State) : Host.Outcome State Fault Refusal := .next (s.clocked (·.doLoop t.val))
/-- NEXT. -/
def execNext (t : TileId) (s : State) : Host.Outcome State Fault Refusal := .next (s.clocked (·.doNext t.val))
/-- PARAM. -/
def execParam (t : TileId) (s : State) : Host.Outcome State Fault Refusal := .next (s.clocked (·.doParam t.val))
/-- LD8_DATA_RETURN. -/
def execLd8DataReturn (t : TileId) (s : State) : Host.Outcome State Fault Refusal := .next (s.clocked (·.doLd8 t.val))
/-- WINDOW_OPEN. -/
def execWindowOpen (t : TileId) (s : State) : Host.Outcome State Fault Refusal := .next (s.clocked (·.doWindowOpen t.val))
/-- WINDOW_CLOSE. -/
def execWindowClose (t : TileId) (s : State) : Host.Outcome State Fault Refusal := .next (s.clocked (·.doWindowClose t.val))
/-- MARK. -/
def execMark (t : TileId) (s : State) : Host.Outcome State Fault Refusal := .next (s.clocked (·.doMark t.val))
/-- END. -/
def execEnd (t : TileId) (s : State) : Host.Outcome State Fault Refusal := .next (s.clocked (·.doEnd t.val))

/-! ### Recovery points and rewind (R194–R200) -/

/-- The snapshot of the state a rewind restores (R195). -/
def State.snapshotOf (s : State) (t : Nat) : Snapshot :=
  { entry := s.pc t,
    loops := (List.range 4).map (fun n => (s.rd (aSqLoopPos t n), s.rd (aSqLoopCnt t n))),
    sregs := (List.range 32).map (fun n => s.rd (aSqSreg t n)),
    queues := (List.range 16).map (fun q => (s.rd (aTileWqStatus t q), (List.range 32).map (fun i => s.rd (aTileWqHandle t q i)))),
    ctrs := (List.range 16).map (fun k => (s.rd (aVeRngCtrLo t k), s.rd (aVeRngCtrHi t k))) }

/-- RECOVERY_POINT_PASS (R195). -/
def State.passRp (s : State) (t : Nat) : State :=
  let q := (s.tile t).seq
  match (s.tile t).entryAt (s.pc t) with
  | some e =>
    if (s.sq t = sqRun ∨ s.sq t = sqBlocked) ∧ needsRp (s.pc t) e ∧ !q.rpPassed ∧ q.paramOp = 0 ∧ (s.tile t).drained
        ∧ !q.parityDone ∧ q.parityDue = none then
      let s := (s.setF (aSqRp t) 19 0 (s.pc t)).setF (aSqStatus t) 11 11 0
      let s := s.post (rimTile t 0) 0x72 (s.pc t) (if entKind e = kMark then bits (entPayload e) 31 0 else 0)
      s.onSeq t (fun q => { q with
        snapshot := some (s.snapshotOf t), fired := [], issueCount := 0, rewound := false, rpPassed := true })
    else s
  | none => s

/-- RECOVERY_POINT_PASS. -/
def execRecoveryPointPass (t : TileId) (s : State) : Host.Outcome State Fault Refusal :=
  .next (s.clocked (·.passRp t.val))

/-- A parity event reaches the sequencer: REWIND, issuing nothing further; in STOPPING the stop stays pending
(R199, R200, R202). -/
def State.postParity (s : State) (t : Nat) : State :=
  match (s.tile t).seq.parityDue with
  | none => s
  | some e =>
    let s := s.onSeq t (fun q => { q with parityDue := none })
    if s.sq t = sqRun ∨ s.sq t = sqBlocked ∨ s.sq t = sqStopping then
      (s.setSq t sqRewind 0).onSeq t (fun q => { q with
        rewind := some e, rewindAddr := q.parityAddr, mpRewind := false,
        stopReq := if s.sq t = sqStopping then some (q.stopReq.getD 1) else q.stopReq })
    else s

/-- PARITY_EVENT_POST. -/
def execParityEventPost (t : TileId) (s : State) : Host.Outcome State Fault Refusal :=
  .next (s.clocked (·.postParity t.val))

/-- Put a snapshot back (step 4 of R200). -/
def State.restoreSnap (s : State) (t : Nat) (n : Snapshot) : State :=
  let s := (List.range 4).foldl (fun s k =>
    let l := n.loops.getD k (0, 0)
    (s.wr (aSqLoopPos t k) l.1).wr (aSqLoopCnt t k) l.2) s
  let s := s.setF (aSqStatus t) 9 7 (countIdx (fun k => bit (n.loops.getD k (0, 0)).1.toNat 63) 4)
  let s := (List.range 32).foldl (fun s k => s.wr (aSqSreg t k) (n.sregs.getD k 0)) s
  let s := (List.range 16).foldl (fun s k =>
    let q := n.queues.getD k (0, [])
    (List.range 32).foldl (fun s i => s.wr (aTileWqHandle t k i) (q.2.getD i 0)) (s.wr (aTileWqStatus t k) q.1)) s
  (List.range 16).foldl (fun s k =>
    let c := n.ctrs.getD k (0, 0)
    (s.wr (aVeRngCtrLo t k) c.1).wr (aVeRngCtrHi t k) c.2) s

/-- Step 5 of R200: the fired map is armed, the rewind counted and reported, with the entry of the failing command. -/
def State.replayArmed (s : State) (t entry failing : Nat) : State :=
  ((s.setF (aSqStatus t) 11 11 1).cnt (aCntSqRewind t)).post (rimTile t 0) 0x73 entry failing

/-- REWIND_RESTORE: steps 3 to 5 of R200 once every issued command has completed; with a stop pending, up to step 4, and
step 5 at the release that replays the segment (R202, R205). The second parity event is counted from the last rewind by
the MP (R148; DEDUCED, log entry 71). -/
def State.doRestore (s : State) (t : Nat) : State :=
  let q := (s.tile t).seq
  if s.sq t ≠ sqRewind ∨ !(s.tile t).drained then s
  else if !q.mpRewind ∧ q.rewound then
    let e := q.rewind.getD (s.pc t)
    (s.post (rimTile t 0) 0x67 e q.rewindAddr).contained t 0x02 e
  else if 4096 < q.issueCount then s.contained t 0x03 (q.rewind.getD (s.pc t))
  else
    match q.snapshot with
    | none => s
    | some n =>
      let s := (s.restoreSnap t n).post (rimTile t 5) 0x55 n.entry n.entry
      let s := (s.setSq t sqRun 0).goto t n.entry
      let s := s.onSeq t (fun q => { q with
        issueCount := 0, rewound := !q.mpRewind, parityDone := false, parityDue := none, rewind := none,
        mpRewind := false, rpPassed := true, withdrawn := [] })
      let failing := q.rewind.getD 0
      if q.stopReq.isSome then (s.onSeq t (fun q => { q with replayDue := some failing })).enterStopped t
      else s.replayArmed t n.entry failing

/-- REWIND_RESTORE. -/
def execRewindRestore (t : TileId) (s : State) : Host.Outcome State Fault Refusal :=
  .next (s.clocked (·.doRestore t.val))

/-! ### Releases (R191) -/

/-- WAIT_RELEASE: the release of the i-th pending condition of tile t reaches its waiter. -/
def State.deliver (s : State) (t i : Nat) : State :=
  match (s.sync.waits.filter (fun w => w.tile == t))[i]? with
  | none => s
  | some w =>
    if !w.released ∨ w.delivered then s
    else
      let s := { s with sync := { s.sync with
        waits := s.sync.waits.map (fun x => if x = w then { x with delivered := true } else x) } }
      match w.who, (s.tile t).entryAt (s.pc t) with
      | .entry _, some e =>
        if s.waitsOk t e ∧ s.sq t = sqBlocked ∧ s.getF (aSqStatus t) 6 4 = 1 then
          let s := if 1024 < (s.tile t).seq.waited then s.post (rimTile t 0) 0x76 (s.pc t) w.obj else s
          s.setSq t sqRun 0
        else s
      | _, _ => s

/-- WAIT_RELEASE. -/
def execWaitRelease (t : TileId) (i : Nat) (s : State) : Host.Outcome State Fault Refusal :=
  .next (s.clocked (·.deliver t.val i))

/-- WINDOW_CLOSE_BY_CONDITION: the release of its close condition has reached the window unit (R150, R152). -/
def execWindowCloseByCondition (t : TileId) (n : Fin 16) (s : State) : Host.Outcome State Fault Refusal :=
  .next (s.clocked (fun s =>
    match s.waitRec t.val (.window n.val) with
    | some w =>
      if w.delivered then (s.closeWin t.val n.val true).post (rimTile t.val 0) 0x63 w.obj n.val else s
    | none => s))

/-! ### Ramp slots (R91, R92) -/

/-- S of a latched MAC_RAMP_CTRL: 0 means 256 (R96). -/
def rampSlots (r : Nat) : Nat := if bits r 15 8 = 0 then 256 else bits r 15 8

/-- Arrays (tile, m) of partition p whose ramp slot is j (R91). -/
def State.slotArrays (s : State) (p j : Nat) : List (Nat × Nat) :=
  let a := s.arraysPerTile
  ((s.partTiles p).flatMap (fun t => (List.range a).map (fun m => (t, m)))).filter
    (fun x => decide ((a * x.1 + x.2) % rampSlots (s.part p).ramp = j))

/-- Every enabled array of partition p. -/
def State.partArrays (s : State) (p : Nat) : List (Nat × Nat) :=
  (s.partTiles p).flatMap (fun t => (List.range s.arraysPerTile).map (fun m => (t, m)))

/-- Start the ramp-up of partition p: the control register is latched, every array waits for its slot; with ramp_en = 0
all start at once (R91, R93, R96, R97). -/
def State.rampUp (s : State) (p : Nat) : State :=
  let r := s.rdN aMacRampCtrl
  let s := s.onPart p (fun x => { x with ramp := r, rampedDown := false })
  let s := s.wrN aMacRampStatus (s.rdN aMacRampStatus ||| 2 ^ p)
  if bit r 0 then (s.partArrays p).foldl (fun s x => s.setF (aMacStatus x.1 x.2) 4 4 1) s
  else (s.partArrays p).foldl (fun s x => s.ballastOn x.1 x.2) s

/-- RAMP_SLOT_REACHED (R91). -/
def execRampSlotReached (p : PartId) (j : Fin 256) (s : State) : Host.Outcome State Fault Refusal :=
  .next (s.clocked (fun s =>
    if bit (s.rdN aMacRampStatus) p.val then
      (s.slotArrays p.val j.val).foldl (fun s x =>
        if s.getF (aMacStatus x.1 x.2) 4 4 = 1 then
          (s.ballastOn x.1 x.2).post (rimTile x.1 (x.2 + 1)) 0x46 0 j.val
        else s) s
    else s))

/-- Stop ballast in an array at the end of a ramp-down (R92), and count it. -/
def State.rampStopArray (s : State) (j : Nat) (x : Nat × Nat) : State :=
  (if s.getF (aMacStatus x.1 x.2) 3 3 = 1 then (s.ballastOff x.1 x.2).2 else s).post (rimTile x.1 (x.2 + 1)) 0x47 0 j

/-- Clear a partition's ramp-down bit once no array of it runs ballast. -/
def State.rampDownEnd (s : State) (p : Nat) : State :=
  if (s.partArrays p).all (fun x => s.getF (aMacStatus x.1 x.2) 3 3 == 0) then
    s.setF aMacRampStatus (16 + p) (16 + p) 0
  else s

/-- Has the work of tile t ended for the ramp-down: it reached END, is stopped, or stands FAULTED in a partition that the MP
has stopped, with every running command completed (R92)? -/
def State.workEnded (s : State) (p t : Nat) : Bool :=
  let q := s.sq t
  q == sqIdle || q == sqDone || q == sqStopped || (q == sqFaulted && s.job p != 2 && (s.tile t).stopDrained)

/-- May ramp-down of partition p begin: every sequencer that ran has ended (R92)? -/
def State.rampDownReady (s : State) (p : Nat) : Bool :=
  s.partExists p && s.partResident p && !(s.part p).rampedDown && !bit (s.rdN aMacRampStatus) p &&
  (s.partTiles p).all (s.workEnded p ·) && (s.partTiles p).any (fun t => s.sq t != sqIdle)

/-- RAMP_DOWN_START (R92): MAC_RAMP_CTRL is latched for this ramp (R96). With ramp_en = 0 all arrays stop at once, as all
start at once under R93 (log entry 73). -/
def execRampDownStart (p : PartId) (s : State) : Host.Outcome State Fault Refusal :=
  .next (s.clocked (fun s =>
    if s.rampDownReady p.val then
      let s := s.onPart p.val (fun x => { x with ramp := s.rdN aMacRampCtrl, rampedDown := true })
      let s := s.setF aMacRampStatus (16 + p.val) (16 + p.val) 1
      let s := (s.partArrays p.val).foldl (fun s x => s.ballastOn x.1 x.2) s
      if bit (s.part p.val).ramp 0 then s
      else
        let a := s.arraysPerTile
        ((s.partArrays p.val).foldl (fun s x =>
          s.rampStopArray ((a * x.1 + x.2) % rampSlots (s.part p.val).ramp) x) s).rampDownEnd p.val
    else s))

/-- RAMP_DOWN_SLOT_STOP (R92). -/
def execRampDownSlotStop (p : PartId) (j : Fin 256) (s : State) : Host.Outcome State Fault Refusal :=
  .next (s.clocked (fun s =>
    if bit (s.rdN aMacRampStatus) (16 + p.val) then
      ((s.slotArrays p.val j.val).foldl (fun s x => s.rampStopArray j.val x) s).rampDownEnd p.val
    else s))

end Sys2Proof.Machine
end

