-- ==== Sys2Proof/Machine/Auth.lean ====
section
/-! DEFINITION. Neighbour authentication on a port in AUTH (R541–R545), and the fields of the stored fabric plan (R414). -/
namespace Sys2Proof.Machine

/-! ### The stored plan (R414) -/

/-- Field of n bytes at an offset of the stored plan. -/
def State.planField (s : State) (o n : Nat) : Nat := leVal ((s.fab.plan.drop o).take n)
def State.planId (s : State) : Nat := s.planField 8 8
def State.planExplore (s : State) : Bool := bit (s.planField 2 1) 0
/-- Kind, expected port number, expected serial and endpoint root hash of a port entry. -/
def State.planKind (s : State) (p : Nat) : Nat := s.planField (0x40 + 64 * p) 1
def State.planPort (s : State) (p : Nat) : Nat := s.planField (0x41 + 64 * p) 1
def State.planSerial (s : State) (p : Nat) : List Byte := (s.fab.plan.drop (0x48 + 64 * p)).take 16
def State.planRoot (s : State) (p : Nat) : List Byte := (s.fab.plan.drop (0x58 + 64 * p)).take 32
/-- Accepted firmware measurements. -/
def State.planFirmware (s : State) : List (List Byte) :=
  (List.range (s.planField 0x16 2)).map (fun i => (s.fab.plan.drop (0xD50 + 64 * i)).take 64)
/-- Permitted certificate serials. -/
def State.planSerials (s : State) : List (List Byte) :=
  (List.range (s.planField 0x18 2)).map (fun i => (s.fab.plan.drop (0xD50 + 64 * s.planField 0x16 2 + 16 * i)).take 16)

/-! ### Messages (R541) -/

/-- A link-local packet of channel 5 or 6: dst, ctx, epoch and seq zero (R384). -/
def State.sendLocal (s : State) (p ptype addr operand : Nat) (data : List Byte) : State :=
  s.enqueue p (pkVc ptype 0) (packetBytes (mkU0 0 s.devId 1024 0 0 0 false 0 (unitCount data.length) ptype)
    (mkU1 addr operand 0 none 0 0) data)

/-- Send an authentication message in fragments of 256 bytes. -/
def State.sendMsg (s : State) (p kind : Nat) (msg : List Byte) : State :=
  let n := (msg.length + 255) / 256
  (List.range n).foldl (fun s i =>
    s.sendLocal p 8 0 (kind * 2 ^ 24 + i * 2 ^ 20 + (n - 1) * 2 ^ 16) ((msg.drop (256 * i)).take 256)) s

/-- The own CHAIN message. -/
def State.chainMsg (s : State) : List Byte := certBlob ++ s.statement

/-- Update the exchange of a port. -/
def State.onAuth (s : State) (p : Nat) (f : Auth → Auth) : State := s.onPort p (fun q => { q with auth := f q.auth })

/-- A fresh exchange: a new nonce, HELLO and CHAIN sent at once (R541, R542, R545). -/
def State.startAuth (s : State) (p : Nat) : State :=
  let (nonce, s) := s.entropy 32
  let hello := nonce ++ fit 16 Config.serial ++ leBytes 1 p ++ leBytes 8 s.planId
  let s := (s.onAuth p (fun _ => { hello })).wrN (aSecAuth p) 0xFF
  (s.sendMsg p 1 hello).sendMsg p 2 s.chainMsg

/-- Enter AUTH. -/
def State.enterAuth (s : State) (p : Nat) : State := (s.setLk p lkAuth).startAuth p

/-- Certificates and statement of a CHAIN message, cut to their lengths. -/
def chainParts (m : List Byte) : List Byte × List Byte × List Byte :=
  let n1 := leVal ((m.drop 4).take 4)
  let n2 := leVal ((m.drop (8 + n1)).take 4)
  ((m.drop 8).take n1, (m.drop (12 + n1)).take n2, (m.drop (12 + n1 + n2)).take 266)

/-- A CHAIN message without the padding of its last fragment. -/
def chainCut (m : List Byte) : List Byte :=
  let n1 := leVal ((m.drop 4).take 4)
  m.take (12 + n1 + leVal ((m.drop (8 + n1)).take 4) + 266)

/-- The transcript (R543): the lower serial first, serials read with their first byte most significant. -/
def transcript (h1 c1 h2 c2 : List Byte) : List Byte :=
  let ser (h : List Byte) : Nat := leVal ((h.drop 32).take 16).reverse
  let (h1, c1, h2, c2) := if ser h1 ≤ ser h2 then (h1, c1, h2, c2) else (h2, c2, h1, c1)
  ascii "QKAUTH" ++ h1 ++ h2 ++ shake256 (c1 ++ c2) 64

/-- Fix the own result: it is sent, recorded with event 0xFA, and any code but 0 quarantines the port, out of a retrain once that
ends (R544, R545, R554). -/
def State.finishAuth (s : State) (p code : Nat) : State :=
  let s := (s.onAuth p (fun a => { a with code := some code })).sendMsg p 4 [BitVec.ofNat 8 code]
  let s := s.setF (aSecAuth p) 7 0 code
  let s := s.postMp 0xFA p (s.rdN (aSecAuth p) % 2 ^ 16)
  if code = 0 then s
  else if s.lk p = lkRetrain then (s.cnt aCntSecAuthFail).onPort p (fun q => { q with saved := lkQuarantine })
  else (s.cnt aCntSecAuthFail).setLk p lkQuarantine

/-- A message of a kind has arrived whole (R542, R545). -/
def State.authMsg (s : State) (p kind : Nat) (msg : List Byte) : State :=
  if s.lk p ≠ lkAuth then s.cnt (aCntLnkProto p)
  else
    match kind with
    | 1 => s.onAuth p (fun a => { a with peerHello := some (fit 57 msg) })
    | 2 => s.onAuth p (fun a => { a with peerChain := some (chainCut msg) })
    | 3 => s.onAuth p (fun a => { a with peerProof := some (fit 114 msg) })
    | 4 => (s.onAuth p (fun a => { a with peerResult := some (fit 1 msg) })).setF (aSecAuth p) 15 8 (recByte msg 0)
    | _ => s

/-- HELLO. -/
def execHello (p : PortId) (msg : List Byte) (s : State) : Host.Outcome State Fault Refusal := .next (s.clocked (·.authMsg p.val 1 msg))
/-- CHAIN. -/
def execChain (p : PortId) (msg : List Byte) (s : State) : Host.Outcome State Fault Refusal := .next (s.clocked (·.authMsg p.val 2 msg))
/-- PROOF. -/
def execProof (p : PortId) (msg : List Byte) (s : State) : Host.Outcome State Fault Refusal := .next (s.clocked (·.authMsg p.val 3 msg))
/-- RESULT. -/
def execResult (p : PortId) (msg : List Byte) (s : State) : Host.Outcome State Fault Refusal := .next (s.clocked (·.authMsg p.val 4 msg))

/-- A fragment of a message (R541): the message is handled once every fragment is there. -/
def State.authFragment (s : State) (p operand : Nat) (data : List Byte) : State :=
  let kind := bits operand 31 24
  let last := bits operand 19 16
  if s.lk p ≠ lkAuth then s.cnt (aCntLnkProto p)
  else
    let s := s.onAuth p (fun a => { a with frags := mapPut [] a.frags (16 * kind + bits operand 23 20) data })
    let fs := (List.range (last + 1)).map (fun i => mapGet [] (s.port p).auth.frags (16 * kind + i))
    if fs.any (·.isEmpty) then s
    else (s.onAuth p (fun a => { a with frags := mapDrop (fun k => k / 16 == kind) a.frags })).authMsg p kind fs.flatten

/-! ### Checks (R544) -/

/-- Check 2: the CA certificate verifies under the root whose hash OTP or the plan gives. -/
def State.caOk (s : State) (p : Nat) (ca : List Byte) : Bool :=
  let root := Config.rootKey ca
  let hash := if s.planKind p = 2 then s.planRoot p else s.otp.rootHash
  decide (keyHash root = hash) && (match parseCert ca with | some c => c.verify root | none => false)

/-- Check 3: the device certificate verifies under the CA, and its serial is that of HELLO. -/
def certOk (dev ca hello : List Byte) : Bool :=
  match parseCert dev, parseCert ca with
  | some d, some c => d.verify c.key && d.serial == (hello.drop 32).take 16
  | _, _ => false

/-- Check 4: the statement verifies under the device certificate's key, and its serial matches. -/
def statementOk (dev st : List Byte) : Bool :=
  match parseCert dev with
  | some d => edVerify d.key (ascii "qorkar-ak") (st.take 0x98) (st.drop 0x98) && d.serial == (st.drop 8).take 16
  | none => false

/-- Checks 5–7. -/
def State.proofCode (s : State) (p : Nat) (a : Auth) (h c st pr : List Byte) : Nat :=
  let endpoint := s.planKind p == 2
  if !edVerify ((st.drop 0x58).take 57) (ascii "qorkar-auth") (transcript a.hello s.chainMsg h c) pr then 5
  else if !endpoint && leVal ((h.drop 49).take 8) ≠ s.planId then 6
  else if !endpoint && !s.planFirmware.isEmpty && !s.planFirmware.contains ((st.drop 0x18).take 64) then 7
  else 0

/-- One signature job of a port: its own PROOF first, then the CA unless it is the device's own, the device certificate,
the statement, and the peer's PROOF (R542–R544). -/
def State.authJob (s : State) (p : Nat) : State :=
  let a := (s.port p).auth
  match a.peerHello, a.peerChain with
  | some h, some c =>
    if s.lk p ≠ lkAuth ∨ a.code.isSome then s
    else
      let (dev, ca, st) := chainParts c
      let bump (n : Nat) (s : State) : State := s.onAuth p (fun a => { a with jobs := n })
      let devJob (s : State) : State := if certOk dev ca h then bump 3 s else s.finishAuth p 3
      match a.jobs with
      | 0 =>
        let proof := edSign s.akKey (ascii "qorkar-auth") (transcript a.hello s.chainMsg h c)
        bump 1 ((s.onAuth p (fun a => { a with proof })).sendMsg p 3 proof)
      | 1 => if ca = Config.caCert then devJob s else if s.caOk p ca then bump 2 s else s.finishAuth p 2
      | 2 => devJob s
      | 3 => if statementOk dev st then bump 4 s else s.finishAuth p 4
      | _ => match a.peerProof with
        | some pr => s.finishAuth p (s.proofCode p a h c st pr)
        | none => s
  | _, _ => s

/-- SIGNATURE_JOB_COMPLETE. -/
def execSignatureJobComplete (p : PortId) (s : State) : Host.Outcome State Fault Refusal := .next (s.clocked (·.authJob p.val))

/-- AUTH_TIMEOUT: HELLO, CHAIN and PROOF have not all come within 5 ms (R544, check 1); a retrain does not extend the bound
(R545). -/
def State.authTimeout (s : State) (p : Nat) : State :=
  let a := (s.port p).auth
  if (s.lk p = lkAuth ∨ (s.lk p = lkRetrain ∧ (s.port p).saved = lkAuth)) ∧ a.code.isNone ∧ !(a.peerHello.isSome && a.peerChain.isSome && a.peerProof.isSome) then s.finishAuth p 1
  else s

/-- AUTH_TIMEOUT. -/
def execAuthTimeout (p : PortId) (s : State) : Host.Outcome State Fault Refusal := .next (s.clocked (·.authTimeout p.val))

end Sys2Proof.Machine
end

