-- ==== Sys2Proof/Machine/Coll.lean ====
section
/-! DEFINITION. The hub's own accesses to a partition's memory, and the collective engine (R403–R408). -/
namespace Sys2Proof.Machine

/-! ### Accesses of hub units through a translation table (R273, R404) -/

/-- What an access gave: bytes with zeros for what other devices hold, those parts by place, device, global address and
length, and the first fault, as its cause of R277 (0 for a refusing window) and address or status. -/
structure HubIo where
  data : List Byte := []
  far : List (Nat × Nat × Nat × Nat) := []
  fault : Option (Nat × Nat) := none
  deriving DecidableEq, Repr

/-- An access of a hub unit to a window of its own device. -/
def State.hubWindow (s : State) (sp off len : Nat) (write : Bool) (data : List Byte) : Nat × List Byte × State :=
  let t := bits off 30 21
  if s.isolatedTile t then (0x27, [], s)
  else
    let (st, _, d, s) := s.winAccess t (sp == 3) write (bits off 20 0) len data 0 { dev := s.devId, tile := none }
    (st, d, s)

/-- One block of an access that lies within one page: `data` is none for a read. -/
def State.hubBlock (s : State) (p va a n cls : Nat) (data : Option (List Byte)) (h : HubIo) : HubIo × State :=
  match s.walk p a with
  | (.fault c, s) => ({ h with fault := some (c, a) }, s)
  | (.outside, s) => ({ h with fault := some (3, a) }, s)
  | (.page big dev sp base wr, s) =>
    let off := pageAddr big base a
    if data.isSome && !wr then ({ h with fault := some (2, a) }, s)
    else if dev ≠ s.devId then
      let far := h.far ++ [(a - va, dev, dev * 2 ^ 48 + sp * 2 ^ 45 + off, n)]
      ({ h with data := h.data ++ List.replicate n 0, far }, s)
    else if sp = 0 then
      match data with
      | some d => (h, s.memWrite off d cls)
      | none =>
        let (d, _, s) := s.memRead off n cls
        ({ h with data := h.data ++ d }, s)
    else
      let (st, d, s) := s.hubWindow sp off n data.isSome (data.getD [])
      if st ≠ 0 then ({ h with fault := some (0, st) }, s) else ({ h with data := h.data ++ d }, s)

/-- Read n bytes at a partition address, block by block; it ends at the first fault. -/
def State.hubRead (s : State) (p va n cls : Nat) : HubIo × State :=
  (linePieces (n / 256 + 2) va n).foldl (fun (x : HubIo × State) b =>
    if x.1.fault.isSome then x else x.2.hubBlock p va b.1 b.2 cls none x.1) ({}, s)

/-- Write bytes at a partition address, block by block; it ends at the first fault. -/
def State.hubWrite (s : State) (p va : Nat) (data : List Byte) (cls : Nat) : HubIo × State :=
  (linePieces (data.length / 256 + 2) va data.length).foldl (fun (x : HubIo × State) b =>
    if x.1.fault.isSome then x else x.2.hubBlock p va b.1 b.2 cls (some ((data.drop (b.1 - va)).take b.2)) x.1) ({}, s)

/-- Send a request of a hub unit, 0 the MP or 1 the collective engine; its number. The collective engine reads with class
0b01; all else carries class 0b00 (R285). -/
def State.hubSend (s : State) (asker : Asker) (unit dev ptype addr operand : Nat) (data : List Byte) : Nat × State :=
  let (id, s) := s.newId
  (id, s.fabSend { id, asker, hub := true, unit, dev, ptype, addr, operand, data, poison := 0,
                   cls := if unit = 1 ∧ ptype = 1 then 1 else 0, reuse := 0 })

/-- Send a READ for every part that another device holds: request numbers and places. -/
def State.farReads (s : State) (asker : Asker) (unit : Nat) (far : List (Nat × Nat × Nat × Nat)) : List (Nat × Nat) × State :=
  far.foldl (fun (x : List (Nat × Nat) × State) f =>
    let (id, s) := x.2.hubSend asker unit f.2.1 1 f.2.2.1 f.2.2.2 []
    (x.1 ++ [(id, f.1)], s)) ([], s)

/-- Send a WRITE for every part that another device holds. -/
def State.farWrites (s : State) (asker : Asker) (unit : Nat) (data : List Byte) (far : List (Nat × Nat × Nat × Nat)) :
    List (Nat × Nat) × State :=
  far.foldl (fun (x : List (Nat × Nat) × State) f =>
    let (id, s) := x.2.hubSend asker unit f.2.1 2 f.2.2.1 f.2.2.2 ((data.drop f.1).take f.2.2.2)
    (x.1 ++ [(id, f.1)], s)) ([], s)

/-! ### Groups and formats (R403–R405, R407, R422) -/

/-- Algorithm of a group: 0 ring, 1 bidirectional ring, 2 tree. -/
def State.ceAlgo (s : State) (g : Nat) : Nat := s.getF (aCeGroupG0 g) 62 61
/-- Members, and the own position. -/
def State.ceSize (s : State) (g : Nat) : Nat := s.getF (aCeGroupG0 g) 60 45 + 1
def State.cePos (s : State) (g : Nat) : Nat := s.getF (aCeGroupG0 g) 44 29
/-- Device IDs of the successor, the predecessor, the tree parent and the children that exist. -/
def State.ceNext (s : State) (g : Nat) : Nat := s.getF (aCeGroupG1 g) 31 16
def State.cePrev (s : State) (g : Nat) : Nat := s.getF (aCeGroupG1 g) 15 0
def State.ceParent (s : State) (g : Nat) : Nat := s.getF (aCeGroupG2 g) 63 48
def State.ceChildren (s : State) (g : Nat) : List Nat :=
  (if s.getF (aCeGroupG2 g) 0 0 = 1 then [s.getF (aCeGroupG2 g) 47 32] else [])
    ++ (if s.getF (aCeGroupG2 g) 1 1 = 1 then [s.getF (aCeGroupG2 g) 31 16] else [])

/-- Is group g valid (R408, R422)? -/
def State.groupValid (s : State) (g : Nat) : Bool := s.getF (aCeGroupG0 g) 63 63 == 1 && s.getF (aCeGroupG0 g) 62 61 != 3
/-- Version of group g. -/
def State.groupVersion (s : State) (g : Nat) : Nat := s.getF (aCeGroupG1 g) 63 32

/-- The element format of a descriptor. -/
def CeOp.elem (o : CeOp) : Fmt := match o.fmt % 16 with | 2 => .fp16 | 3 => .bf16 | _ => .fp32
/-- Bytes of an element in memory and on the wire. -/
def CeOp.size (o : CeOp) : Nat := o.elem.width / 8
def CeOp.wireSize (o : CeOp) : Nat := if bit o.fmt 4 then 4 else o.size
/-- Is the descriptor one that the table defines? -/
def CeOp.defined (o : CeOp) : Bool := decide (1 ≤ o.op ∧ o.op ≤ 4 ∧ 1 ≤ o.fmt % 16 ∧ o.fmt % 16 ≤ 3 ∧ 1 ≤ o.count)

/-- Element codes of some bytes, and back. -/
def codesOf (size : Nat) (l : List Byte) : List Nat := (List.range (l.length / size)).map (fun i => leVal ((l.drop (size * i)).take size))
def bytesOf (size : Nat) (l : List Nat) : List Byte := l.flatMap (leBytes size ·)

/-- Widen element codes to FP32, and round FP32 codes to a format, to nearest even with infinity on overflow (R62, R64). -/
def widen (f : Fmt) (l : List Nat) : List Nat := if f = .fp32 then l else l.map (fun c => (Fmt.fp32.roundNE (f.decode c)).1)
def narrow (f : Fmt) (l : List Nat) : List Nat := if f = .fp32 then l else l.map (fun c => (f.roundNE (Fmt.fp32.decode c)).1)
/-- Add FP32 codes element by element (R407). -/
def addCodes (a b : List Nat) : List Nat := (a.zip b).map (fun p => gabSum p.1 p.2)

/-- The format of packets. -/
def CeOp.wire (o : CeOp) : Fmt := if bit o.fmt 4 then .fp32 else o.elem

/-- Segment lengths of R312: n items over k members. -/
def evenLens (n k : Nat) : List Nat := (List.range k).map (fun j => n / k + (if k - n % k ≤ j then 1 else 0))

/-- A chunk of a run: segment, chunk number, first element, elements, and whether it belongs to the descending half. -/
structure CePiece where
  seg : Nat
  chunk : Nat
  off : Nat
  n : Nat
  desc : Bool
  deriving DecidableEq, Repr

/-- Chunks of a stretch of a segment: up to 256 B of elements each. -/
def stretch (per seg first off n : Nat) (desc : Bool) : List CePiece :=
  (List.range ((n + per - 1) / per)).map (fun c =>
    { seg, chunk := (first + c) % 65536, off := off + per * c, n := min per (n - per * c), desc })

/-- Every chunk of a run's segments. -/
def pieces (algo per : Nat) (lens : List Nat) : List CePiece :=
  (lens.zipIdx.foldl (fun (x : List CePiece × Nat) l =>
    let h := (l.1 + 1) / 2
    let ps := if algo = 1 then stretch per l.2 0 x.2 h false ++ stretch per l.2 ((h + per - 1) / per) (x.2 + h) (l.1 - h) true
      else stretch per l.2 0 x.2 l.1 false
    (x.1 ++ ps, x.2 + l.1)) ([], 0)).1

/-! ### What a member knows of a chunk (R406) -/

/-- One member's view of a run: its group's shape, its contribution, and the chunks taken. -/
structure CeView where
  op : Nat
  tree : Bool
  k : Nat
  q : Nat
  next : Nat
  prev : Nat
  parent : Nat
  kids : List Nat
  elem : Fmt
  wire : Fmt
  wireSize : Nat
  /-- The contribution as element codes; for a scalar sum, its one sum as an FP32 code. -/
  x : List Nat
  /-- First element of the contribution: an all-gather gives the own segment alone. -/
  x0 : Nat
  rx : List CeChunk

/-- The nth chunk taken from a device for a piece, as wire codes. -/
def CeView.recv (v : CeView) (src n : Nat) (c : CePiece) : Option (List Nat) :=
  ((v.rx.filter (fun r => decide (r.src = src ∧ r.seg = c.seg ∧ r.chunk = c.chunk)))[n]?).map
    (fun r => (codesOf v.wireSize r.data).take c.n)

/-- The own elements of a piece, as FP32 codes. -/
def CeView.own (v : CeView) (c : CePiece) : List Nat :=
  let l := (v.x.drop (c.off - v.x0)).take c.n
  if v.op = 4 then l else widen v.elem l

/-- Where a ring piece comes from and goes to, the position it starts at, and the position after this one. -/
def CeView.from_ (v : CeView) (c : CePiece) : Nat := if c.desc then v.next else v.prev
def CeView.to_ (v : CeView) (c : CePiece) : Nat := if c.desc then v.prev else v.next
def CeView.start (v : CeView) (c : CePiece) : Nat := if c.desc then (c.seg + v.k - 1) % v.k else (c.seg + 1) % v.k
def CeView.after (v : CeView) (c : CePiece) : Nat := if c.desc then (v.q + v.k - 1) % v.k else (v.q + 1) % v.k

/-- Does the ring bring a partial of a piece to this member? -/
def CeView.partialComes (v : CeView) (c : CePiece) : Bool := v.op != 2 && decide (v.k ≠ 1) && v.q != v.start c

/-- The partial of a piece after this member's addition, FP32 codes. -/
def CeView.partial_ (v : CeView) (c : CePiece) : Option (List Nat) :=
  if v.tree then
    v.kids.foldl (fun (t : Option (List Nat)) d => match t, v.recv d 0 c with
      | some a, some b => some (addCodes a (widen v.wire b))
      | _, _ => none) (some (v.own c))
  else if v.partialComes c then (v.recv (v.from_ c) 0 c).map (fun r => addCodes (widen v.wire r) (v.own c))
  else some (v.own c)

/-- Element codes from wire codes, and back. -/
def CeView.fromWire (v : CeView) (l : List Nat) : List Nat := if v.wire = v.elem then l else narrow v.elem l
def CeView.toWire (v : CeView) (l : List Nat) : List Nat := if v.wire = v.elem then l else widen v.elem l

/-- The first chunk that a neighbour in the tree gave of a piece of an all-gather, with its device. -/
def CeView.treeGot (v : CeView) (c : CePiece) : Option CeChunk := v.rx.find? (fun r => decide (r.seg = c.seg ∧ r.chunk = c.chunk))

/-- Wire codes of a piece that is final, as they reach this member or start from it. -/
def CeView.finalWire (v : CeView) (c : CePiece) : Option (List Nat) :=
  if v.tree then
    if v.op = 2 then
      if v.q = c.seg then some (v.toWire ((v.x.drop (c.off - v.x0)).take c.n))
      else (v.treeGot c).map (fun r => (codesOf v.wireSize r.data).take c.n)
    else if v.q = 0 then (v.partial_ c).map (narrow v.wire)
    else v.recv v.parent 0 c
  else if v.q = c.seg then
    if v.op = 2 then some (v.toWire ((v.x.drop (c.off - v.x0)).take c.n))
    else (v.partial_ c).map (fun l => v.toWire (narrow v.elem l))
  else v.recv (v.from_ c) (if v.partialComes c then 1 else 0) c

/-- Packets that a piece asks this member to send: phase, devices, wire codes; nothing where the value is not known. -/
def CeView.sends (v : CeView) (c : CePiece) : List (Nat × List Nat × List Nat) :=
  let up : List (Nat × List Nat × List Nat) :=
    if v.op = 2 then []
    else
      let dst := if v.tree then (if v.q = 0 then [] else [v.parent]) else if v.q = c.seg then [] else [v.to_ c]
      match v.partial_ c with
      | some l => if dst.isEmpty then [] else [(0, dst, narrow v.wire l)]
      | none => []
  let down : List (Nat × List Nat × List Nat) :=
    let dst :=
      if v.tree then
        (if v.op = 2 then
          (v.kids ++ (if v.q = 0 then [] else [v.parent])).filter (fun d => match v.treeGot c with
            | some r => decide (v.q = c.seg ∨ d ≠ r.src)
            | none => true)
         else v.kids)
      else if v.op = 1 ∨ v.after c = c.seg then [] else [v.to_ c]
    match v.finalWire c with
    | some l => if dst.isEmpty then [] else [(1, dst, l)]
    | none => []
  up ++ down

/-- Is a piece's final value part of this member's result? -/
def CeView.wants (v : CeView) (c : CePiece) : Bool := v.op != 1 || c.seg == v.q

/-- How many chunks a member takes from a device for a piece. -/
def CeView.expects (v : CeView) (src : Nat) (c : CePiece) : Nat :=
  if v.tree then
    if v.op = 2 then (if v.q ≠ c.seg ∧ (v.treeGot c).isNone ∧ (v.kids.contains src || (v.q != 0 && src == v.parent)) then 1 else 0)
    else b2n (v.kids.contains src) + b2n (v.q != 0 && src == v.parent)
  else if src = v.from_ c then b2n (v.partialComes c) + b2n (v.op != 1 && v.q != c.seg)
  else 0

/-! ### Runs (R404, R405, R407, R408) -/

/-- Run r waits for this value of its trigger object. -/
def CeOp.threshold (o : CeOp) : Nat := (o.trigBase + (o.runs + 1) * o.trigInc) % 2 ^ 32

/-- The scalar sum of a member's own elements, in index order (R406). -/
def scalarOwn (l : List Nat) : List Nat := match l with | [] => [0] | a :: r => [r.foldl gabSum a]

/-- The view of a run. -/
def State.ceView (s : State) (o : CeOp) (u : CeRun) : CeView :=
  let g := o.group
  let codes := codesOf o.size u.raw
  { op := o.op, tree := o.op == 4 || s.ceAlgo g == 2, k := s.ceSize g, q := s.cePos g, next := s.ceNext g,
    prev := s.cePrev g, parent := s.ceParent g, kids := s.ceChildren g, elem := o.elem, wire := o.wire,
    wireSize := o.wireSize, x := if o.op = 4 then scalarOwn (widen o.elem codes) else codes,
    x0 := if o.op = 2 then (u.lens.take (s.cePos g)).sum else 0, rx := u.rx }

/-- The pieces of a run. -/
def State.cePieces (s : State) (o : CeOp) (u : CeRun) : List CePiece :=
  pieces (if o.op = 4 then 2 else s.ceAlgo o.group) (256 / o.wireSize) u.lens

/-- Put descriptor d of partition p. -/
def State.putCe (s : State) (p d : Nat) (o : CeOp) : State := s.onPart p (fun x => { x with ce := mapPut none x.ce d (some o) })

/-- Take the received chunks that a run expects. -/
def takeChunks (v : CeView) (o : CeOp) (ps : List CePiece) : List CeChunk → List CeChunk → List CeChunk × List CeChunk
  | [], rx => ([], rx)
  | c :: l, rx =>
    let v' := { v with rx }
    let had := (rx.filter (fun r => decide (r.src = c.src ∧ r.seg = c.seg ∧ r.chunk = c.chunk))).length
    let ok := decide (c.run = o.runs % 2 ^ 32 ∧ c.group = o.group) &&
      ps.any (fun x => decide (x.seg = c.seg ∧ x.chunk = c.chunk ∧ had < v'.expects c.src x))
    let (rest, rx) := takeChunks v o ps l (if ok then rx ++ [c] else rx)
    (if ok then rest else c :: rest, rx)

/-- Send the packets of one piece that are due and not sent. -/
def State.ceSend (s : State) (p d : Nat) (o : CeOp) (u : CeRun) (v : CeView) (c : CePiece) : CeRun × State :=
  (v.sends c).foldl (fun (x : CeRun × State) m =>
    if x.1.sent.contains (m.1, c.seg, c.chunk) then x
    else
      let data := bytesOf o.wireSize m.2.2
      let (ids, s) := m.2.1.foldl (fun (y : List Nat × State) dev =>
        let (id, s) := (y.2.cnt aCntCeBytes data.length).hubSend (.ce p d) 1 dev 6
          (o.runs % 2 ^ 32 * 2 ^ 32 + c.seg * 65536 + c.chunk) (o.group * 2 ^ 22 + s.groupVersion o.group % 65536) data
        (y.1 ++ [id], s)) ([], x.2)
      ({ x.1 with sent := x.1.sent ++ [(m.1, c.seg, c.chunk)], open_ := x.1.open_ ++ ids }, s)) (u, s)

/-- The result of a run once every wanted piece is final, as bytes; a group of one member returns its own x (R406). -/
def CeView.result (v : CeView) (o : CeOp) (ps : List CePiece) : Option (List Byte) :=
  if v.k = 1 ∧ v.op ≠ 4 then some (bytesOf o.size v.x)
  else (ps.filter (v.wants ·)).foldl (fun (r : Option (List Byte)) c => match r, v.finalWire c with
    | some l, some x => some (l ++ bytesOf o.size (v.fromWire x))
    | _, _ => none) (some [])

/-- A run whose contribution is read goes on: it takes chunks, sends what it can, and writes its result once it is final. -/
def State.ceAdvance (s : State) (p d : Nat) : State :=
  match mapGet none (s.part p).ce d with
  | none => s
  | some o =>
    match o.run with
    | none => s
    | some u =>
      if u.table ∨ !u.reads.isEmpty then s
      else
        let ps := s.cePieces o u
        let (coll, rx) := takeChunks (s.ceView o u) o ps s.coll u.rx
        let s := { s with coll }
        let u := { u with rx }
        let v := s.ceView o u
        let (u, s) := ps.foldl (fun (x : CeRun × State) c => x.2.ceSend p d o x.1 v c) (u, s)
        match (if u.written then none else v.result o ps) with
        | none => s.putCe p d { o with run := some u }
        | some r =>
          let s := s.putCe p d { o with run := some u }
          match s.hubWrite p o.dst r 0 with
          | ({ fault := some (c, a), .. }, s) => s.ceFail p d (if c = 0 then 4 else 5) a
          | ({ far, .. }, s) =>
            let (ids, s) := s.farWrites (.ce p d) 1 r far
            s.putCe p d { o with run := some { u with written := true, open_ := u.open_ ++ ids.map (·.1) } }

/-- A run with its segment lengths reads its contribution (R405, R407). -/
def State.ceSource (s : State) (p d : Nat) (o : CeOp) (lens : List Nat) : State :=
  match s.hubRead p o.src (o.size * (if o.op = 2 then nth lens (s.cePos o.group) else o.count)) 1 with
  | ({ fault := some (c, a), .. }, s) => s.ceFail p d (if c = 0 then 4 else 5) a
  | ({ data, far, .. }, s) =>
    let (reads, s) := s.farReads (.ce p d) 1 far
    s.putCe p d { o with run := some { raw := data, reads, lens := if o.op = 4 then [1] else lens } }

/-- A run whose segment table is read takes its lengths from it; a table whose lengths do not sum to n fails it (R405). -/
def State.ceTable (s : State) (p d : Nat) : State :=
  match mapGet none (s.part p).ce d with
  | none => s
  | some o =>
    match o.run with
    | none => s
    | some u =>
      if !u.table ∨ !u.reads.isEmpty then s
      else
        let l := codesOf 4 u.raw
        if l.sum = o.count then s.ceSource p d o l else s.ceFail p d 2 0

/-- A run goes on, from its segment table to its result. -/
def State.ceProgress (s : State) (p d : Nat) : State := (s.ceTable p d).ceAdvance p d

/-- Every run goes on. -/
def State.ceAll (s : State) : State :=
  s.parts.foldl (fun s x => x.2.ce.foldl (fun s y => s.ceProgress x.1 y.1) s) s

/-- COLLECTIVE_RUN_START: an armed descriptor's trigger object has reached the threshold of its next run; the run reads
its segment table, where it has one, and its contribution, and sends its first chunks (R404–R407). -/
def State.ceStart (s : State) (p d : Nat) : State :=
  match mapGet none (s.part p).ce d with
  | none => s
  | some o =>
    if o.run.isSome ∨ o.failed ∨ !o.defined ∨ !waitHolds (s.obj ((s.part p).syncBase + o.trig)) o.threshold then s
    else
      let k := s.ceSize o.group
      let s := s.putCe p d { o with run := some { raw := [], lens := [] } }
      if !s.groupValid o.group then s.ceFail p d 1 o.group
      else if o.segTable = 0 then (s.ceSource p d o (evenLens o.count k)).ceProgress p d
      else match s.hubRead p o.segTable (4 * k) 0 with
      | ({ fault := some (c, a), .. }, s) => s.ceFail p d (if c = 0 then 4 else 5) a
      | ({ data, far, .. }, s) =>
        let (reads, s) := s.farReads (.ce p d) 1 far
        (s.putCe p d { o with run := some { table := true, raw := data, reads, lens := [] } }).ceProgress p d

/-- COLLECTIVE_RUN_START. -/
def execCollectiveRunStart (p : PartId) (desc : Fin 1024) (s : State) : Host.Outcome State Fault Refusal :=
  .next (s.clocked (·.ceStart p.val desc.val))

/-- Has a run sent every piece that it must? -/
def State.ceAllSent (s : State) (o : CeOp) (u : CeRun) : Bool :=
  let v := s.ceView o u
  (s.cePieces o u).all (fun c => (v.sends c).all (fun m => u.sent.contains (m.1, c.seg, c.chunk)) &&
    (v.op == 2 || (v.partial_ c).isSome) && ((v.op == 1 && !v.tree) || (v.finalWire c).isSome))

/-- COLLECTIVE_RUN_COMPLETE: the result is written, and every member sent to has answered: done_obj is signalled (R404). -/
def State.ceComplete (s : State) (p d : Nat) : State :=
  match mapGet none (s.part p).ce d with
  | none => s
  | some o =>
    match o.run with
    | none => s
    | some u =>
      if !u.written ∨ !u.open_.isEmpty ∨ !s.ceAllSent o u then s
      else
        let s := (s.putCe p d { o with run := none, runs := o.runs + 1 }).cnt aCntCeRuns
        s.sendOp { src := 2049, obj := (s.part p).syncBase + o.done, set := false, val := o.doneAmt, reply := none }

/-- COLLECTIVE_RUN_COMPLETE. -/
def execCollectiveRunComplete (p : PartId) (desc : Fin 1024) (s : State) : Host.Outcome State Fault Refusal :=
  .next (s.clocked (·.ceComplete p.val desc.val))

/-- COLLECTIVE_RUN_FAIL: a run ends with a cause of CE_STATUS (R408). -/
def execCollectiveRunFail (p : PartId) (desc : Fin 1024) (cause : Byte) (s : State) : Host.Outcome State Fault Refusal :=
  .next (s.clocked (·.ceFail p.val desc.val cause.toNat 0))

end Sys2Proof.Machine
end

