-- ==== Sys2Proof/Machine/Counters.lean ====
section
/-! DEFINITION. Counter domains, their epochs and their clears (R556–R558). -/
namespace Sys2Proof.Machine

/-- Set registers to zero. -/
def State.zeroRegs (s : State) (as : List Nat) : State := as.foldl (fun s a => s.wr a 0) s

/-- Counters of unit u of tile t (R556). -/
def unitCounters (t u : Nat) : List Nat :=
  let stall (e : Nat) : List Nat := aCntSlip t e :: (List.range 8).map (fun k => aCntStall t e k)
  match u with
  | 4 => [aCntVeIssue t, aCntVeHeld t, aCntVeBank t] ++ stall 4
  | 5 => [aCntSeRdBytes t, aCntSeWrBytes t, aCntSeFarWait t, aCntSeCapWait t, aCntSePoison t, aCntSeBusy t] ++ stall 5
  | 6 => [aCntSqEntries t, aCntSqSync t, aCntSqQfull t, aCntSqFetch t, aCntSqDrain t, aCntSqRewind t, aCntSqRefetch t,
          aCntTileAclk t]
  | 7 => [aCntSpadCorr t, aCntSpadParity t, aCntSpadUncorr t, aCntSpadConflict t, aCntSpadRdBytes t, aCntSpadWrBytes t,
          aCntWinRefused t, aCntGabRdBytes t, aCntGabWrBytes t, aCntGabAddBytes t]
  | m => if m < 4 then [aCntMacUseful t m, aCntMacBallast t m, aCntMacHeld t m] ++ stall m else []

/-- Counters of a tile, by address. -/
def tileCounters (t : Nat) : List Nat := (List.range 8).flatMap (unitCounters t ·)

/-- Counters of port p. -/
def portCounters (p : Nat) : List Nat :=
  [aCntLnkTxBytes p, aCntLnkRxBytes p, aCntLnkFecCorr p, aCntLnkFecUncorr p, aCntLnkCrc p, aCntLnkReplay p,
   aCntLnkRetrain p, aCntLnkDiscard p, aCntLnkProto p]
    ++ (List.range 9).map (aCntLnkLaneSym p ·) ++ (List.range 8).map (aCntLnkVcWait p ·)

/-- Counters of DDR channel c. -/
def chanCounters (c : Nat) : List Nat :=
  [aCntDdrCorr c, aCntDdrUncorr c, aCntDdrPoison c, aCntDdrCapar c, aCntDdrRdBytes c, aCntDdrWrBytes c]

/-- Counters of hub domain h. -/
def hubCounters (h : Nat) : List Nat :=
  match h with
  | 0 => [aCntHifPackets, aCntHifReplies, aCntHifEvents, aCntHifBadWrite, aCntHifBadAccess, aCntHifEventLost,
          aCntHifCreditHold]
  | 1 => (List.range 4).map (aCntCapWait ·) ++
         (List.range 16).flatMap (fun c => [aCntL2HitBytes c, aCntL2MissBytes c, aCntL2WbBytes c, aCntL2Pf c])
  | 2 => [aCntFabFwdBytes, aCntFabRetx, aCntFabTimeout, aCntFabStale, aCntFabBusy, aCntFabHoplimit, aCntFabNoroute,
          aCntFabCtxWait, aCntCeBytes, aCntCeRuns]
  | 3 => (List.range 16).flatMap (fun p => [aCntPartPreempt p, aCntPartSaveHclk p, aCntWaleStall p, aCntWaleCopyBytes p,
          aCntWaleMirrorBytes p])
  | 4 => [aCntPwrDip, aCntClkThrottle, aCntPwrWake, aCntPwrOffAccess] ++ (List.range 4).map (aCntPwrState ·)
  | 5 => [aCntSecOtpRepair, aCntSecAuthFail, aCntSecUnlockFail, aCntSecQuotes]
  | 6 => [aCntDdrErrLost]
  | 7 => [aCntDbgFreeze, aCntDbgFrozen]
  | _ => []

/-- Count byte i of an epoch register up by one, modulo 256. -/
def State.bumpEpoch (s : State) (a i : Nat) : State := s.setF a (8 * i + 7) (8 * i) (s.getF a (8 * i + 7) (8 * i) + 1)

/-- Clear the counters of unit u of tile t; its epoch counts on and a clear armed for it is discarded (R557, R558). -/
def State.clearUnit (s : State) (t u : Nat) : State :=
  ((s.zeroRegs (unitCounters t u)).bumpEpoch (aTileCntEpoch t) u).onTile t (fun x => { x with armed := x.armed.erase u })

/-- Clear the counters of port p. -/
def State.clearPort (s : State) (p : Nat) : State :=
  (s.zeroRegs (portCounters p)).bumpEpoch (aCntEpochPort (p / 8)) (p % 8)

/-- Clear the counters of channel c. -/
def State.clearChan (s : State) (c : Nat) : State :=
  (s.zeroRegs (chanCounters c)).bumpEpoch (aCntEpochCh (c / 8)) (c % 8)

/-- Clear the counters of hub domain h. -/
def State.clearHub (s : State) (h : Nat) : State := (s.zeroRegs (hubCounters h)).bumpEpoch aCntEpochHub h

end Sys2Proof.Machine
end

