-- ==== Sys2Proof/Machine/VeMath.lean ====
section
/-! DEFINITION. The vector engine's lane arithmetic: registers as lanes, exact functions, Philox (R103–R105, R117–R124, R126–R130). -/
namespace Sys2Proof.Machine

/-- Lane width in bits of a format in a VE register (R103, R104). -/
def Fmt.laneBits (f : Fmt) : Nat := if f.width < 8 then 8 else f.width

/-- Lane count L of a format (R103). -/
def Fmt.lanes (f : Fmt) : Nat := 1024 / f.laneBits

/-- The lanes of a register at a lane width; bits above a sub-byte element are ignored on input (R104). -/
def lanesOf (f : Fmt) (r : Nat) : List Nat := (unpackBits f.laneBits f.lanes r).map (· % 2 ^ f.width)

/-- Raw lanes at a lane width, element bits not masked. -/
def rawLanes (f : Fmt) (r : Nat) : List Nat := unpackBits f.laneBits f.lanes r

/-- A register from lanes. -/
def ofLanes (f : Fmt) (l : List Nat) : Nat := packBits f.laneBits l

/-- Write lanes under a mask: lane i from `new` where its mask bit is set, else kept (R105). -/
def mergeLanes (mask : Nat) (old new : List Nat) : List Nat :=
  (List.range old.length).map (fun i => if bit mask i then nth new i else nth old i)

/-- Squaring root by digits: floor(√n) for n < 4^k. -/
def isqrtAux (n : Nat) : Nat → Nat → Nat
  | 0, r => r
  | k + 1, r =>
    let c := r + 2 ^ k
    isqrtAux n k (if c * c ≤ n then c else r)

/-- Floor of the square root. -/
def isqrt (n : Nat) : Nat := isqrtAux n (Nat.log2 n / 2 + 1) 0

/-- ln 2 × 2^320, rounded down. -/
def ln2fix : Nat := 1480553391661173448385607439722553250922680800745876974795605978609098082859138712941075737848984

/-- Fixed-point exponential series of y × 2^−320 for 0 ≤ y < 1, k terms from term number i on. -/
def expSeries (y : Nat) : Nat → Nat → Nat → Nat
  | 0, _, _ => 0
  | k + 1, i, t => t + expSeries y k (i + 1) (t * y / (2 ^ 320 * (i + 1)))

/-- 2^(m × 2^e), as an exact value or one whose last bit stands for the infinite remainder (R118). -/
def exp2Fin (neg : Bool) (m : Nat) (e : Int) : FVal :=
  if m = 0 then .fin false 1 0
  else if (Nat.log2 m : Int) + e > 15 then .fin false 3 (if neg then -70000 else 70000)
  else
    -- x × 2^320 as an integer; e ≥ −200 in every format, so nothing is lost
    let x : Int := (if neg then -1 else 1) * (if -320 ≤ e then (m <<< (e + 320).toNat : Nat) else (m >>> (-320 - e).toNat : Nat))
    let n := x / (2 ^ 320 : Nat)
    let f := (x % (2 ^ 320 : Nat)).toNat
    if f = 0 then .fin false 1 n
    else .fin false (2 * expSeries (f * ln2fix / 2 ^ 320) 90 0 (2 ^ 320) + 1) (n - 321)

/-- EXP2 (R118). -/
def FVal.exp2 : FVal → FVal
  | .nan => .nan
  | .inf neg => if neg then .fin false 0 0 else .inf false
  | .fin neg m e => exp2Fin neg m e

/-- Series Σ t^(2i+1)/(2i+1) in 320-bit fixed point, p = t^(2i+1). -/
def atanhSeries (t2 : Nat) : Nat → Nat → Nat → Nat
  | 0, _, _ => 0
  | k + 1, i, p => p / (2 * i + 1) + atanhSeries t2 k (i + 1) (p * t2 / 2 ^ 320)

/-- log2 of a positive value m × 2^e (R118). -/
def log2Fin (m : Nat) (e : Int) : FVal :=
  let k := Nat.log2 m
  let n : Int := k + e
  if m = 2 ^ k then .fin (n < 0) n.natAbs 0
  else
    -- z = m / 2^k in (1, 2); ln z = 2 atanh((z − 1) / (z + 1))
    let t := (m - 2 ^ k) * 2 ^ 320 / (m + 2 ^ k)
    let lnz := 2 * atanhSeries (t * t / 2 ^ 320) 110 0 t
    let v : Int := 2 * (n * (2 ^ 320 : Nat) + (lnz * 2 ^ 320 / ln2fix : Nat)) + 1
    .fin (v < 0) v.natAbs (-321)

/-- LOG2 (R118). -/
def FVal.log2 : FVal → FVal
  | .nan => .nan
  | .inf neg => if neg then .nan else .inf false
  | .fin neg m e => if m = 0 then .inf true else if neg then .nan else log2Fin m e

/-- Exact quotient, its last bit standing for any remainder. -/
def divFin (m : Nat) (e : Int) (n : Nat) (f : Int) : Nat × Int :=
  let k := Nat.log2 n + 200
  let q := (m <<< k) / n
  (2 * q + b2n ((m <<< k) % n ≠ 0), e - f - k - 1)

/-- Quotient of two values by IEEE 754. -/
def FVal.div : FVal → FVal → FVal
  | .nan, _ => .nan
  | _, .nan => .nan
  | .inf _, .inf _ => .nan
  | .inf a, .fin b _ _ => .inf (xor a b)
  | .fin a _ _, .inf b => .fin (xor a b) 0 0
  | .fin a m e, .fin b n f =>
    if n = 0 then (if m = 0 then .nan else .inf (xor a b))
    else if m = 0 then .fin (xor a b) 0 0
    else .fin (xor a b) (divFin m e n f).1 (divFin m e n f).2

/-- RCP (R118). -/
def FVal.rcp (v : FVal) : FVal := FVal.div (.fin false 1 0) v

/-- 1 ÷ √(m × 2^e). -/
def rsqFin (m : Nat) (e : Int) : FVal :=
  let (m, e) := if e % 2 = 0 then (m, e) else (2 * m, e - 1)
  let k := Nat.log2 m + 200
  let q := isqrt (2 ^ (2 * k) / m)
  .fin false (2 * q + b2n (q * q * m ≠ 2 ^ (2 * k))) (-(k : Int) - e / 2 - 1)

/-- RSQ (R118). -/
def FVal.rsq : FVal → FVal
  | .nan => .nan
  | .inf neg => if neg then .nan else .fin false 0 0
  | .fin neg m e => if m = 0 then .inf neg else if neg then .nan else rsqFin m e

/-- Round to nearest even with every flag of R67: `ins` says whether some operand was a NaN. -/
def arith (f : Fmt) (anyNaN : Bool) (v : FVal) : Nat × Nat :=
  if v.isNaN then (f.nanCode, if anyNaN then fNanSeen else fInvalid)
  else ((f.roundNE v).1, (f.roundNE v).2 + b2n anyNaN)

/-- INT8 result saturated to −128 and 127 (R117). -/
def satInt8 (i : Int) : Nat × Nat :=
  if i > 127 then (127, fSaturated) else if i < -128 then (128, fSaturated) else (unsignedOf 8 i, 0)

/-- The integer an exact value holds (integer formats only). -/
def FVal.toInt : FVal → Int
  | .fin neg m _ => if neg then -(m : Int) else m
  | _ => 0

/-- Sign of an ADD, MUL or FMA operand under na and nc (R114). -/
def negIf (b : Bool) (v : FVal) : FVal := if b then v.negate else v

/-- One lane of ADD: va + vb, A negated by na, B by nc (R114, R117). -/
def laneAdd (f : Fmt) (na nc : Bool) (a b : Nat) : Nat × Nat :=
  let x := negIf na (f.decode a); let y := negIf nc (f.decode b)
  if f = .int8 then satInt8 (x.toInt + y.toInt)
  else arith f (x.isNaN || y.isNaN) (x.add y)

/-- One lane of MUL (R114, R117). -/
def laneMul (f : Fmt) (na : Bool) (a b : Nat) : Nat × Nat :=
  let x := negIf na (f.decode a); let y := f.decode b
  if f = .int8 then satInt8 (x.toInt * y.toInt)
  else arith f (x.isNaN || y.isNaN) (x.mul y)

/-- One lane of FMA: one rounding of ±(va × vb) ± vc (R114, R117). -/
def laneFma (f : Fmt) (na nc : Bool) (a b c : Nat) : Nat × Nat :=
  let x := f.decode a; let y := f.decode b; let z := negIf nc (f.decode c)
  if f = .int8 then satInt8 ((if na then -1 else 1) * x.toInt * y.toInt + z.toInt)
  else arith f (x.isNaN || y.isNaN || z.isNaN) ((negIf na (x.mul y)).add z)

/-- The code of one of two lanes, or the canonical NaN (R48). -/
def lanePick (f : Fmt) (max : Bool) (a b : Nat) : Nat × Nat :=
  let x := f.decode a; let y := f.decode b
  let fl := if x.isNaN || y.isNaN then fNanSeen else 0
  if x.isNaN && y.isNaN then (f.nanCode, fl)
  else if x.isNaN then (b, fl) else if y.isNaN then (a, fl)
  else if (if max then x.ltz y else y.ltz x) then (b, fl) else (a, fl)

/-- The comparison conditions of CMP (R114, R121). -/
def laneCmp (f : Fmt) (cond a b : Nat) : Bool × Nat :=
  let x := f.decode a; let y := f.decode b
  (match cond with
   | 0 => x.eqv y
   | 1 => !x.eqv y
   | 2 => x.lt y
   | 3 => x.lt y || x.eqv y
   | 4 => y.lt x
   | _ => y.lt x || x.eqv y,
   if x.isNaN || y.isNaN then fNanSeen else 0)

/-- One lane of a one-operand function rounded to nearest even (R118). -/
def laneFn (f : Fmt) (g : FVal → FVal) (a : Nat) : Nat × Nat :=
  arith f (f.decode a).isNaN (g (f.decode a))

/-- One lane of LOG: bitwise operation (R114). -/
def laneLog (op a b w : Nat) : Nat :=
  match op with
  | 0 => a &&& b
  | 1 => a ||| b
  | 2 => a ^^^ b
  | _ => a &&& ((2 ^ w - 1) ^^^ b)

/-- One level of the fixed binary tree of R119, with flags. -/
def treeLevel (f : Fmt) : List Nat → List Nat × Nat
  | a :: b :: r =>
    let (t, fl) := treeLevel f r
    let (s, fs) := laneAdd f false false a b
    (s :: t, fs ||| fl)
  | l => (l, 0)

/-- The tree sum of a power-of-two list of codes (R119). -/
def treeSum (f : Fmt) : Nat → List Nat → Nat × Nat
  | 0, l => (nth l 0, 0)
  | k + 1, l =>
    let (t, fl) := treeLevel f l
    let (s, fs) := treeSum f k t
    (s, fs ||| fl)

/-! Philox-4x32-10 (R126). -/

/-- One round on counter words c0–c3 under key words k0, k1. -/
def philoxRound (c : Nat × Nat × Nat × Nat) (k0 k1 : Nat) : Nat × Nat × Nat × Nat :=
  let (c0, c1, c2, c3) := c
  let p0 := 0xD2511F53 * c0
  let p1 := 0xCD9E8D57 * c2
  ((p1 / 2 ^ 32) ^^^ c1 ^^^ k0, p1 % 2 ^ 32, (p0 / 2 ^ 32) ^^^ c3 ^^^ k1, p0 % 2 ^ 32)

/-- Rounds with the key increments between them. -/
def philoxRounds : Nat → Nat × Nat × Nat × Nat → Nat → Nat → Nat × Nat × Nat × Nat
  | 0, c, _, _ => c
  | n + 1, c, k0, k1 =>
    philoxRounds n (philoxRound c k0 k1) ((k0 + 0x9E3779B9) % 2 ^ 32) ((k1 + 0xBB67AE85) % 2 ^ 32)

/-- The 128-bit output for a 64-bit key and a 128-bit counter (R126). -/
def philox (key ctr : Nat) : Nat :=
  let c := (ctr % 2 ^ 32, (ctr >>> 32) % 2 ^ 32, (ctr >>> 64) % 2 ^ 32, (ctr >>> 96) % 2 ^ 32)
  let (r0, r1, r2, r3) := philoxRounds 10 c (key % 2 ^ 32) ((key >>> 32) % 2 ^ 32)
  r0 + r1 * 2 ^ 32 + r2 * 2 ^ 64 + r3 * 2 ^ 96

/-- The 32-bit word that lane i of a Bernoulli or uniform draw takes (R127). -/
def rndWord (key ctr i : Nat) : Nat :=
  (philox key ((ctr + i / 4) % 2 ^ 128) >>> (32 * (i % 4))) % 2 ^ 32

/-- The 16 random bits of lane i of a stochastic convert (R61). -/
def rndHalf (key ctr i : Nat) : Nat :=
  (philox key ((ctr + i / 8) % 2 ^ 128) >>> (16 * (i % 8))) % 2 ^ 16

/-! Row statistics (R122–R124). All values are FP32 or FP64 codes. -/

/-- A code with the flags its computation has set so far (R67). -/
abbrev FCode := Nat × Nat

/-- Float sum, difference, product, quotient and 2^x of codes, each rounded once, flags gathered. -/
def fAdd (f : Fmt) (a b : FCode) : FCode :=
  let r := laneAdd f false false a.1 b.1
  (r.1, r.2 ||| a.2 ||| b.2)
def fSub (f : Fmt) (a b : FCode) : FCode :=
  let r := laneAdd f false true a.1 b.1
  (r.1, r.2 ||| a.2 ||| b.2)
def fMul (f : Fmt) (a b : FCode) : FCode :=
  let r := laneMul f false a.1 b.1
  (r.1, r.2 ||| a.2 ||| b.2)
def fDiv (f : Fmt) (a b : FCode) : FCode :=
  let x := f.decode a.1; let y := f.decode b.1
  let r := arith f (x.isNaN || y.isNaN) (x.div y)
  (r.1, r.2 ||| a.2 ||| b.2)
def fApp (f : Fmt) (g : FVal → FVal) (a : FCode) : FCode :=
  let r := laneFn f g a.1
  (r.1, r.2 ||| a.2)

/-- round32 or round64 of a code of another width (R122). -/
def fCvt (from_ to_ : Fmt) (a : FCode) : FCode :=
  let v := from_.decode a.1
  let r := arith to_ v.isNaN v
  (r.1, r.2 ||| a.2)

/-- One level of the tree of R119 on codes with flags. -/
def fTreeLevel (f : Fmt) : List FCode → List FCode
  | a :: b :: r => fAdd f a b :: fTreeLevel f r
  | l => l

/-- tree32 and tree64 of R122 over 32 lane positions (k = 5 levels). -/
def fTree (f : Fmt) : Nat → List FCode → FCode
  | 0, l => l.getD 0 (0, 0)
  | k + 1, l => fTree f k (fTreeLevel f l)

/-- A code without flags. -/
def fc (a : Nat) : FCode := (a, 0)

/-- −∞ in FP32. -/
def negInf32 : Nat := 0xFF800000

/-- Masked lanes: +0 where a mask bit is clear (R119). -/
def maskZero (mask : Nat) (l : List Nat) : List Nat :=
  (List.range l.length).map (fun i => if bit mask i then nth l i else 0)

/-- The state slots of a mode read from a state register: FP32 lanes 0–2 or FP64 lanes 0–3 (R122). -/
def rowSlots (mode r : Nat) : List FCode :=
  (if mode < 2 then (unpackBits 32 3 r) else unpackBits 64 4 r).map fc

/-- The initial state of a mode (R122). -/
def rowInit (mode : Nat) : List FCode := (if mode < 2 then [negInf32, 0, 0] else [0, 0, 0, 0]).map fc

/-- Put the mode's slots back into a state register; bytes outside the mode's slots are kept. -/
def rowPut (mode r : Nat) (l : List FCode) : Nat :=
  let l := l.map (·.1)
  match mode with
  | 0 => setBits r 63 0 (packBits 32 (l.take 2))
  | 1 => setBits r 95 0 (packBits 32 (l.take 3))
  | 2 => setBits r 127 0 (packBits 64 (l.take 2))
  | 3 => setBits r 255 0 (packBits 64 (l.take 4))
  | 4 => setBits r 127 64 (nth l 1)
  | _ => setBits (setBits r 127 64 (nth l 1)) 255 192 (nth l 3)

/-- The canonical NaN in each slot of a mode (R122). -/
def rowNaN (mode : Nat) : List FCode :=
  if mode < 2 then List.replicate 3 (fc 0x7FC00000) else List.replicate 4 (fc 0x7FF8000000000000)

/-- The slots that a mode uses (R122). -/
def rowUsed (mode : Nat) : List Nat :=
  match mode with
  | 0 | 2 => [0, 1]
  | 1 => [0, 1, 2]
  | 3 => [0, 1, 2, 3]
  | 4 => [1]
  | _ => [1, 3]

/-- Do all slots of the mode hold the canonical NaN? -/
def rowIsNaN (mode : Nat) (l : List FCode) : Bool :=
  (rowUsed mode).all (fun i => (l.getD i (fc 0)).1 == (if mode < 2 then Fmt.fp32 else Fmt.fp64).nanCode)

/-- Does some slot of the mode hold a NaN, which an instruction that reads the state sees (R67)? -/
def rowHasNaN (mode : Nat) (l : List FCode) : Bool :=
  (rowUsed mode).any (fun i => ((if mode < 2 then Fmt.fp32 else Fmt.fp64).decode (l.getD i (fc 0)).1).isNaN)

/-- A code passed on, a NaN as the canonical one (R47). -/
def Fmt.passOn (f : Fmt) (a : FCode) : FCode := if (f.decode a.1).isNaN then (f.nanCode, a.2) else a

/-- RSTA in the softmax modes 0 and 1 (R122): `u` the input, `dy` the gradient term. -/
def rstaSoftmax (mode mask : Nat) (st : List FCode) (u dy : List Nat) : List FCode :=
  let m := st.getD 0 (fc 0); let z := st.getD 1 (fc 0); let w := st.getD 2 (fc 0)
  let act := (List.range 32).filter (bit mask ·)
  let mc := act.foldl (fun a i => (lanePick .fp32 true a (nth u i)).1) negInf32
  if act.isEmpty || mc == negInf32 then st
  else
    let m' := fc (lanePick .fp32 true m.1 mc).1
    let a := if m.1 == negInf32 then fc 0 else fApp .fp32 FVal.exp2 (fSub .fp32 m m')
    let e := (List.range 32).map (fun i =>
      if bit mask i then fApp .fp32 FVal.exp2 (fSub .fp32 (fc (nth u i)) m') else fc 0)
    let z' := fAdd .fp32 (fMul .fp32 z a) (fTree .fp32 5 e)
    let de := (List.range 32).map (fun i =>
      if bit mask i then fMul .fp32 (fc (nth dy i)) (e.getD i (fc 0)) else fc 0)
    let w' := if mode = 1 then fAdd .fp32 (fMul .fp32 w a) (fTree .fp32 5 de) else w
    [m', z', w']

/-- RSTA in the moment modes 2–5 (R122): S1, S2, Sg, Sgx in FP64; products of FP32 values are exact in FP64. -/
def rstaMoment (mode mask : Nat) (st : List FCode) (x g : List Nat) : List FCode :=
  let w (l : List Nat) (i : Nat) : FCode := fCvt .fp32 .fp64 (fc (nth l i))
  let sum (h : Nat → FCode) : FCode :=
    fTree .fp64 5 ((List.range 32).map (fun i => if bit mask i then h i else fc 0))
  let at_ (i : Nat) : FCode := st.getD i (fc 0)
  [ (if mode = 2 ∨ mode = 3 then fAdd .fp64 (at_ 0) (sum (w x)) else at_ 0),
    (fAdd .fp64 (at_ 1) (sum (fun i => fMul .fp64 (w x i) (w x i)))),
    (if mode = 3 then fAdd .fp64 (at_ 2) (sum (w g)) else at_ 2),
    (if mode = 3 ∨ mode = 5 then fAdd .fp64 (at_ 3) (sum (fun i => fMul .fp64 (w g i) (w x i)))
      else at_ 3) ]

/-- Flags of a whole instruction: nan_seen comes from its operands alone (R67). -/
def rowFlags (anyNaN : Bool) (l : List FCode) : Nat :=
  let f := (l.map (·.2)).foldl (· ||| ·) 0
  (f - f % 2) + b2n anyNaN

/-- RSTA on a state register (R122): `init` when first = 1 and the level-0 index is 0. -/
def rsta (mode : Nat) (init : Bool) (mask reg a b : Nat) : FCode :=
  let st := if init then rowInit mode else rowSlots mode reg
  let u := unpackBits 32 32 a
  let g := unpackBits 32 32 b
  let grad := mode = 1 ∨ mode = 3 ∨ mode = 5
  let anyNaN := (List.range 32).any (fun i => bit mask i &&
    ((Fmt.fp32.decode (nth u i)).isNaN || (decide grad && (Fmt.fp32.decode (nth g i)).isNaN)))
  let st' :=
    if rowIsNaN mode st then st
    else if anyNaN then rowNaN mode
    else if mode < 2 then rstaSoftmax mode mask st u g else rstaMoment mode mask st u g
  (rowPut mode reg st', rowFlags (anyNaN || (!init && rowHasNaN mode st)) st')

/-- RSTF (R123): the parameters in lanes 0–3, +0 elsewhere. -/
def rstf (mode reg vb : Nat) : FCode :=
  let st := rowSlots mode reg
  let at_ (i : Nat) : FCode := st.getD i (fc 0)
  let out :=
    if mode < 2 then
      let r := fApp .fp32 FVal.rcp (at_ 1)
      [Fmt.fp32.passOn (at_ 0), r, if mode = 1 then fMul .fp32 (at_ 2) r else fc 0, fc 0]
    else
      let n := fCvt .fp32 .fp64 (fc (vb % 2 ^ 32))
      let eps := fCvt .fp32 .fp64 (fc (bits vb 63 32))
      let mu := if mode < 4 then fDiv .fp64 (at_ 0) n else fc 0
      let var0 := fSub .fp64 (fDiv .fp64 (at_ 1) n) (fMul .fp64 mu mu)
      let var := if (Fmt.fp64.decode var0.1).lt (.fin false 0 0) then (0, var0.2) else var0
      let r := fApp .fp64 FVal.rsq (fAdd .fp64 var eps)
      let sg := if mode = 3 then fDiv .fp64 (at_ 2) n else fc 0
      let mgx := fCvt .fp64 .fp32
        (fMul .fp64 (fSub .fp64 (fDiv .fp64 (at_ 3) n) (fMul .fp64 mu sg)) r)
      [ (if mode < 4 then fCvt .fp64 .fp32 mu else fc 0), fCvt .fp64 .fp32 r,
        (if mode = 3 then fCvt .fp64 .fp32 sg else fc 0),
        (if mode = 3 ∨ mode = 5 then mgx else fc 0) ]
  let anyNaN := rowHasNaN mode st ||
    (decide (2 ≤ mode) && ((Fmt.fp32.decode (vb % 2 ^ 32)).isNaN || (Fmt.fp32.decode (bits vb 63 32)).isNaN))
  (packBits 32 (out.map (·.1)), rowFlags anyNaN out)

/-- RAPP on one lane (R124) with parameters p0–p3. -/
def rappLane (mode a b p0 p1 p2 p3 : Nat) : FCode :=
  let x := fSub .fp32 (fc a) (fc p0)
  let r :=
    match mode with
    | 0 => fMul .fp32 (fApp .fp32 FVal.exp2 x) (fc p1)
    | 1 => fMul .fp32 (fMul .fp32 (fApp .fp32 FVal.exp2 x) (fc p1)) (fSub .fp32 (fc b) (fc p2))
    | 2 => fMul .fp32 x (fc p1)
    | _ =>
      let xh := fMul .fp32 x (fc p1)
      let h := fSub .fp32 (fc b) (fc p2)
      let f := laneFma .fp32 true false xh.1 p3 h.1
      fMul .fp32 (fc p1) (f.1, f.2 ||| xh.2 ||| h.2)
  let nan (c : Nat) : Bool := (Fmt.fp32.decode c).isNaN
  (r.1, rowFlags (nan a || nan p0 || nan p1 || ((mode = 1 || mode = 3) && (nan b || nan p2))
    || (mode = 3 && nan p3)) [r])

/-- TRN (R104, R120): element (register i, lane 8b + j) goes to (register j, lane 8b + i). -/
def trn (f : Fmt) (src : List Nat) : List Nat :=
  let ls := src.map (lanesOf f)
  (List.range 8).map (fun j => ofLanes f ((List.range f.lanes).map
    (fun x => nth (ls.getD (x % 8) []) (8 * (x / 8) + j))))

end Sys2Proof.Machine
end

