-- ==== Sys2Proof/Machine/Kernel.lean ====
section
/-! DEFINITION. VE instruction words: fields, checks, the registers they name (R109, R110, R114–R116). -/
namespace Sys2Proof.Machine

/-- Opcode of an instruction word (R114). -/
def wOp (w : Nat) : Nat := bits w 63 58

/-- The fields of an instruction word (R114). -/
def fieldsOf (w : Nat) : VFields :=
  { ph := BitVec.ofNat 2 (bits w 57 56), pos := BitVec.ofNat 2 (bits w 55 54), fmt := BitVec.ofNat 4 (bits w 53 50),
    vd := BitVec.ofNat 6 (bits w 49 44), va := BitVec.ofNat 6 (bits w 43 38), vb := BitVec.ofNat 6 (bits w 37 32),
    vc := BitVec.ofNat 6 (bits w 31 26), lm := BitVec.ofNat 2 (bits w 25 24), mod := BitVec.ofNat 24 (bits w 23 0) }

/-- Opcodes (R115). -/
def opNop : Nat := 0x00
def opMov : Nat := 0x01
def opMovi : Nat := 0x02
def opAdd : Nat := 0x08
def opMul : Nat := 0x09
def opFma : Nat := 0x0A
def opMin : Nat := 0x0B
def opMax : Nat := 0x0C
def opCmp : Nat := 0x0D
def opSel : Nat := 0x0E
def opLog : Nat := 0x0F
def opExp2 : Nat := 0x10
def opLog2 : Nat := 0x11
def opRcp : Nat := 0x12
def opRsq : Nat := 0x13
def opRsum : Nat := 0x18
def opRmax : Nat := 0x19
def opRmin : Nat := 0x1A
def opTrn : Nat := 0x1B
def opCvt : Nat := 0x20
def opRnd : Nat := 0x24
def opLd : Nat := 0x28
def opSt : Nat := 0x29
def opRsta : Nat := 0x30
def opRstf : Nat := 0x31
def opRapp : Nat := 0x32

/-- Modifier fields (R114). -/
def mDfmt (m : Nat) : Nat := bits m 23 20
def mRnd (m : Nat) : Nat := bits m 19 18
def mOvf (m : Nat) : Nat := bits m 17 16
def mStream (m : Nat) : Nat := bits m 15 12
def mPart (m : Nat) : Nat := bits m 11 10
def mBq (m : Nat) : Bool := bit m 9
def mSidx (m : Nat) : Nat := bits m 8 2
def mLmd (m : Nat) : Nat := bits m 4 3
def mOperand (m : Nat) : Nat := bits m 23 22
def mGab (m : Nat) : Bool := bit m 21
def mClr (m : Nat) : Bool := bit m 20

/-- Modifier bits that an opcode defines; every other bit is rsvd (R114). -/
def modMask (op : Nat) : Nat :=
  if op = opAdd ∨ op = opMul ∨ op = opFma ∨ op = opLog then 3
  else if op = opCmp then 0x1F
  else if op = opSel then 0x18
  else if op = opCvt then 0xFFFFFC
  else if op = opRnd then 0xF01B
  else if op = opLd then 0xF00000
  else if op = opSt then 0xE00000
  else if op = opRsta then 0x1F
  else if op = opRstf ∨ op = opRapp then 0xF
  else 0

/-- Formats that an opcode's row admits (R115). -/
def fmtAllowed (op mod fmt : Nat) : Bool :=
  if op = opAdd ∨ op = opMul ∨ op = opFma ∨ op = opRmax ∨ op = opRmin then decide (fmt < 4 ∨ fmt = 9)
  else if op = opExp2 ∨ op = opLog2 then decide (1 ≤ fmt ∧ fmt ≤ 3)
  else if op = opRcp ∨ op = opRsq ∨ op = opRsum then decide (fmt < 4)
  else if op = opRsta ∨ op = opRstf ∨ op = opRapp then fmt == 1
  else if op = opRnd ∧ bits mod 1 0 = 1 then fmt == 1
  else if (op = opLd ∨ op = opSt) ∧ mGab mod then fmt == 1
  else decide (fmt ≤ 10)

/-- Lane count of a format code (R103). -/
def codeLanes (c : Nat) : Nat := match Fmt.ofCode c with | some f => f.lanes | none => 128

/-- Lanes L of a CVT: those of the wider of its formats (R129). -/
def cvtLanes (fmt mod : Nat) : Nat := min (codeLanes fmt) (codeLanes (mDfmt mod))

/-- Is a code a wide float other than FP64; is it a short float (R39)? -/
def wideNot64 (c : Nat) : Bool := decide (1 ≤ c ∧ c ≤ 3)
def shortCode (c : Nat) : Bool := decide (4 ≤ c ∧ c ≤ 8)

/-- Is a CVT block-quantise, or dequantise (R130)? -/
def cvtQuant (fmt mod : Nat) : Bool := mBq mod && wideNot64 fmt && shortCode (mDfmt mod)
def cvtDequant (fmt mod : Nat) : Bool := mBq mod && shortCode fmt && wideNot64 (mDfmt mod)

/-- The checks on a CVT (R59, R64, R129, R130). -/
def cvtOk (fmt mod : Nat) : Bool :=
  let l := cvtLanes fmt mod
  decide (mDfmt mod ≤ 10) && mDfmt mod != fmt && mRnd mod != 3 && mOvf mod != 3 &&
  decide (mPart mod * l + l ≤ max (codeLanes fmt) (codeLanes (mDfmt mod))) &&
  (!mBq mod ||
   (cvtQuant fmt mod && decide (mSidx mod + l / 32 - 1 ≤ 127)) ||
   (cvtDequant fmt mod && decide (mSidx mod + (mPart mod * l + l - 1) / 32 ≤ 127)))

/-- The check of one instruction word under R116: opcode, format, reserved values and rsvd bits. -/
def instrOk (w : Nat) : Bool :=
  let op := wOp w
  let fmt := bits w 53 50
  let mod := bits w 23 0
  let known := [opNop, opMov, opMovi, opAdd, opMul, opFma, opMin, opMax, opCmp, opSel, opLog, opExp2, opLog2, opRcp, opRsq,
    opRsum, opRmax, opRmin, opTrn, opCvt, opRnd, opLd, opSt, opRsta, opRstf, opRapp].contains op
  let lanesBits := 1024 / codeLanes fmt
  known && bits w 57 56 != 3 && bits w 55 54 != 3 && decide (fmt ≤ 10) && fmtAllowed op mod fmt &&
  (if op = opMovi then bits w 37 33 == 0 && (decide (lanesBits = 64) || bits w 32 32 == 0)
   else
    (mod &&& (0xFFFFFF - modMask op)) == 0 &&
    (if op = opCmp then mLmd mod != 0 && decide (bits mod 2 0 ≤ 5)
     else if op = opSel then mLmd mod != 0
     else if op = opCvt then cvtOk fmt mod
     else if op = opRnd then bits mod 1 0 != 3
     else if op = opLd then bits w 43 38 == 0 && bits w 37 32 == 0 && bits w 31 26 == 0
     else if op = opSt then bits w 49 44 == 0 && bits w 37 32 == 0 && bits w 31 26 == 0
     else if op = opRsta then decide (bits mod 3 0 ≤ 5)
     else if op = opRstf then decide (bits mod 3 0 ≤ 5)
     else if op = opRapp then decide (bits mod 3 0 ≤ 3)
     else if op = opTrn then bits w 46 44 == 0 && bits w 40 38 == 0
     else true))

/-- Source registers that an instruction reads, by number in the word, its destination's old contents apart. -/
def srcRegs (w : Nat) : List Nat :=
  let op := wOp w
  let mod := bits w 23 0
  let va := bits w 43 38; let vb := bits w 37 32; let vc := bits w 31 26
  if op = opNop ∨ op = opMovi ∨ op = opLd then []
  else if op = opFma then [va, vb, vc]
  else if op = opAdd ∨ op = opMul ∨ op = opMin ∨ op = opMax ∨ op = opCmp ∨ op = opSel ∨ op = opLog then [va, vb]
  else if op = opTrn then (List.range 8).map (va + ·)
  else if op = opCvt then (if cvtDequant (bits w 53 50) mod then [va, vc] else [va])
  else if op = opRnd then (if bits mod 1 0 = 2 then [va] else [])
  else if op = opRsta then
    (if mod % 16 = 1 ∨ mod % 16 = 3 ∨ mod % 16 = 5 then [va, vb] else [va])
  else if op = opRstf then (if mod % 16 < 2 then [va] else [va, vb])
  else if op = opRapp then (if mod % 16 = 1 ∨ mod % 16 = 3 then [va, vb, vc] else [va, vc])
  else [va]

/-- Destination registers of an instruction. -/
def dstRegs (w : Nat) : List Nat :=
  let op := wOp w
  let mod := bits w 23 0
  let vd := bits w 49 44
  if op = opNop ∨ op = opCmp ∨ op = opSt then []
  else if op = opTrn then (List.range 8).map (vd + ·)
  else if op = opCvt ∧ cvtQuant (bits w 53 50) mod then [vd, bits w 31 26]
  else if op = opRnd ∧ bits mod 1 0 = 2 then []
  else [vd]

/-- Lane masks read: the write mask, and the choice of SEL; 0 is LM0. -/
def srcMasks (w : Nat) : List Nat :=
  let op := wOp w
  let l := if op = opMovi ∨ op = opNop ∨ op = opRstf then [] else [bits w 25 24]
  (if op = opSel then mLmd (bits w 23 0) :: l else l).filter (· != 0)

/-- Lane masks written: by CMP and Bernoulli RND; LM0 is read-only (R105). -/
def dstMasks (w : Nat) : List Nat :=
  let op := wOp w
  let mod := bits w 23 0
  (if op = opCmp ∨ (op = opRnd ∧ bits mod 1 0 = 2) then [mLmd mod] else []).filter (· != 0)

/-- May a register be named under interleave F (R109)? -/
def regOkF (f r : Nat) : Bool := f == 1 || decide (r ≤ 11) || decide (48 ≤ r)

/-- The check of one instruction word under R109 for interleave F: no V12–V47, and no TRN block that leaves V0–V11 or
the shared registers. -/
def instrOkF (f w : Nat) : Bool := (srcRegs w ++ dstRegs w).all (fun r => regOkF f r && decide (r < 64))

/-- An LD of the kernel that clears GAB entries (R113). -/
def isClrLoad (w : Nat) : Bool := wOp w == opLd && mClr (bits w 23 0) && mGab (bits w 23 0)

/-- Bytes that an LD or ST moves (R112). -/
def accessBytes (fmt : Nat) : Nat :=
  match Fmt.ofCode fmt with
  | some f => f.lanes * f.width / 8
  | none => 128

/-- The physical register that a number names in window w (R109). -/
def physReg (f w r : Nat) : Nat := if f = 1 then r else if r ≤ 11 then 12 * w + r else r

end Sys2Proof.Machine
end

