-- ==== Sys2Proof/Machine/EngineQ.lean ====
section
/-! DEFINITION. Engine commands from start through commit to completion; withy queues (R211–R241). -/
namespace Sys2Proof.Machine

/-! ### Withy queues (R233–R237, R242, R243) -/

def State.wqHead (s : State) (t q : Nat) : Nat := s.getF (aTileWqStatus t q) 4 0
def State.wqCount (s : State) (t q : Nat) : Nat := s.getF (aTileWqStatus t q) 13 8
def State.wqPending (s : State) (t q : Nat) : Nat := s.getF (aTileWqStatus t q) 19 14

/-- The i-th handle from the head of queue q. -/
def State.wqHandle (s : State) (t q i : Nat) : Nat := s.rdN (aTileWqHandle t q ((s.wqHead t q + i) % 32))

/-- Push a handle at the tail of queue q. -/
def State.wqPush (s : State) (t q h : Nat) : State :=
  let n := s.wqCount t q
  (s.wrN (aTileWqHandle t q ((s.wqHead t q + n) % 32)) h).setF (aTileWqStatus t q) 13 8 (n + 1)

/-- Pop the head handle of queue q. -/
def State.wqPop (s : State) (t q : Nat) : Nat × State :=
  let h := s.wqHandle t q 0
  let hd := s.wqHead t q
  let s := (s.setF (aTileWqStatus t q) 13 8 (s.wqCount t q - 1)).setF (aTileWqStatus t q) 4 0 ((hd + 1) % 32)
  (h, s.onTile t (fun x => { x with pops := mapPut 0 x.pops q (mapGet 0 x.pops q + 1) }))

/-- A handle as engine e pushes it: fill, producer and tag (R234). -/
def pushedHandle (h e tag fill : Nat) : Nat := setBits (setBits (setBits h 63 63 fill) 62 60 e) 47 32 tag

/-- Commands that engine e has committed since release (R234). -/
def State.commits (s : State) (t e : Nat) : Nat := mapGet 0 (s.tile t).seq.commits e

/-- Empty a queue: head, count and reservations (R237). -/
def State.wqClear (s : State) (t q : Nat) : State := s.wrN (aTileWqStatus t q) 0

/-! ### Start (R212, R231) -/

/-- Word in kernel slot n. -/
def VeState.word (v : VeState) (n : Nat) : Nat := (mapGet 0 v.kmem (n % 512)).toNat

/-- The kernel of a RUN. -/
def VeState.kernel (v : VeState) (p : Nat) : List Nat := (List.range (veKn p)).map (fun k => v.word (veKslot p + k))

/-- Has the run issued its last instruction? -/
def VeRun.issuedAll (r : VeRun) : Bool := r.stopped || decide (r.iters ≤ r.group * veF r.cmd.payload)

/-- The RUN whose instructions are issuing. -/
def VeState.issuing (v : VeState) : Option VeRun := v.run.filter (fun r => !r.issuedAll)

/-- The engine can take the command at the head of its queue: no compute part runs in the array; every earlier VE command
has issued its last instruction, and no KLOAD copies (R107, R108); the stream context that a COPY names is free, and no
PLOAD or QPUSH holds the head (R231). -/
def Tile.canTake (x : Tile) (e : Nat) (c : Cmd) : Bool :=
  if e < 4 then (x.array e).runs.all (fun r => decide (r.stage ≠ MacStage.compute ∧ r.stage ≠ MacStage.held))
  else if e = 4 then x.ve.kload.isNone && x.ve.issuing.isNone
  else x.seAux.isNone && (decide (seSop c.payload ≠ 0) || (x.ctx (seCtxNo c.payload)).cmd.isNone)

/-- A command that R196 lets start only when every earlier command of its segment has completed without a parity event: a RUN
that clears GAB entries (R113), a COPY to a global address. -/
def Tile.onceOnly (x : Tile) (e : Nat) (c : Cmd) : Bool :=
  (e == 4 && veVop c.payload == 0 && (x.ve.kernel c.payload).any isClrLoad) ||
  (e == 5 && seSop c.payload == 0 && seDkind c.payload == 3)

/-- A command held back for good by R196: it completes with parity status and makes no change of its own. -/
def State.dropHeld (s : State) (t e : Nat) : State :=
  let s := (s.setQueue t e ((s.tile t).queue e).tail).dropWaits t (fun w => w == .guard e)
  s.onSeq t (fun q => { q with completed := q.completed + 1 })

/-- Mark the head of queue e started: its guard is registered, and an armed counter clear of the unit takes effect. A
command under R196 waits for the earlier ones, and never starts once one of them met a parity event. -/
def State.startHead (s : State) (t e : Nat) : State :=
  match (s.tile t).queue e with
  | [] => s
  | c :: rest =>
    if c.started || !(s.tile t).canTake e c then s
    else if (s.tile t).onceOnly e c && (s.tile t).seq.parityDone then s.dropHeld t e
    else if (s.tile t).onceOnly e c && !(s.tile t).clearBefore c.issue then s
    else
      let s := s.setQueue t e ({ c with started := true, waited := 0 } :: rest)
      let s := if (s.tile t).armed.contains e then s.clearUnit t e else s
      let s := if e < 4 then s.setF (aMacStatus t e) 0 0 0 else if e = 4 then s.setF (aVeStatus t) 2 2 0 else s
      if guardEn e c.payload then
        s.register { tile := t, who := .guard e, obj := s.absObj t (guardObj e c.payload), val := c.guardVal,
                     released := false, delivered := false }
      else s

/-- COMMAND_START (R212, R558). -/
def execCommandStart (t : TileId) (e : Fin 6) (s : State) : Host.Outcome State Fault Refusal :=
  .next (s.clocked (·.startHead t.val e.val))

/-! ### Start conditions (R213) -/

/-- Is a slot that the payload names being written by a PLOAD? -/
def Tile.patternBusy (x : Tile) (target p : Nat) : Bool :=
  match x.seAux with
  | some (a, _) => seSop a.payload == 1 && (cmdPatterns target p).any (fun k =>
      decide (ploadSlot a.payload ≤ k ∧ k < ploadSlot a.payload + ploadCount a.payload))
  | none => false

/-- Pops of a command: operand, queue and whether the operand is an input, in operand order (R235). -/
def cmdPops (target p : Nat) : List (Nat × Nat × Bool) :=
  ((cmdQueues target p).filter (fun x => qfPen x.2)).map (fun x => (x.1, qfPq x.2, !qfRole x.2))

/-- How many earlier pops of the list take from the same queue. -/
def popsBefore (l : List (Nat × Nat × Bool)) (i q : Nat) : Nat := countIdx (fun j => (l.getD j (0, 99, false)).2.1 == q) i

/-- Start conditions 3 and 4. -/
def State.popsOk (s : State) (t : Nat) (l : List (Nat × Nat × Bool)) (needFill : Bool) : Bool :=
  (List.range l.length).all (fun i =>
    let x := l.getD i (0, 0, false)
    let k := popsBefore l i x.2.1
    if needFill then !x.2.2 || handleFill (s.wqHandle t x.2.1 k) else decide (k < s.wqCount t x.2.1))

/-- Start condition 5: room after the command's own pops for its start pushes and reservations. -/
def State.roomOk (s : State) (t target p : Nat) : Bool :=
  let qs := cmdQueues target p
  if target = 5 ∧ seSop p = 2 then
    decide (s.wqCount t (qpushQ p) + s.wqPending t (qpushQ p) + qpushN p ≤ 32)
  else
    (List.range 16).all (fun q =>
      let pushes := (qs.filter (fun x => qfHen x.2 && qfHq x.2 == q)).length
      let pops := (qs.filter (fun x => qfPen x.2 && qfPq x.2 == q)).length
      pushes == 0 || decide (s.wqCount t q - pops + s.wqPending t q + pushes ≤ 32))

/-- The wait cause of a started command, 0 when every start condition holds (R213). -/
def State.waitCause (s : State) (t e : Nat) (c : Cmd) : Nat :=
  let pops := cmdPops e c.payload
  if (s.tile t).patternBusy e c.payload then 1
  else if guardEn e c.payload && !s.delivered t (.guard e) then 2
  else if !s.popsOk t pops false then 3
  else if !s.popsOk t pops true then 4
  else if !s.roomOk t e c.payload then 5
  else 0

/-- The head of queue e has waited one more ACLK. -/
def State.headWaited (s : State) (t e : Nat) : List Cmd → State
  | [] => s
  | c :: rest => s.setQueue t e ({ c with waited := c.waited + 1 } :: rest)

/-- One ACLK of slip of engine e (R239, R562). -/
def State.slip (s : State) (t e cause : Nat) : State :=
  let s := s.cnt (aCntSlip t e)
  let s := s.stall t e (if cause = 2 then 3 else if cause = 5 then 2 else 4)
  s.headWaited t e ((s.tile t).queue e)

/-- The started head of queue e where the test admits it. -/
def Tile.startedHead (x : Tile) (e : Nat) (p : Nat → Bool) : Option Cmd :=
  match x.queue e with
  | c :: _ => if c.started && p c.payload then some c else none
  | [] => none

/-- The command of engine e that can commit now; a start condition that fails costs one ACLK of slip. -/
def State.tryCommit (s : State) (t e : Nat) (p : Nat → Bool) : Option Cmd × State :=
  match (s.tile t).startedHead e p with
  | none => (none, s)
  | some c =>
    let cause := s.waitCause t e c
    if cause = 0 then (some c, s) else (none, s.slip t e cause)

/-! ### Commit (R214, R235) -/

/-- The pop of one operand at commit. -/
def State.commitPop (s : State) (t : Nat) (x : Nat × Nat) : OpHandle × State :=
  let q := x.2
  let r : OpHandle := { operand := x.1, handle := none, hen := qfHen q, hq := qfHq q, slot := 0, role := qfRole q,
                        qfill := qfFill q }
  if qfPen q then
    let (h, s) := s.wqPop t (qfPq q)
    ({ r with handle := some (BitVec.ofNat 64 h) }, s)
  else (r, s)

/-- The start push or the reservation of one operand at commit. -/
def State.commitPush (s : State) (t e : Nat) (h : OpHandle) : OpHandle × State :=
  if h.hen && h.role then
    let place := mapGet 0 (s.tile t).pops h.hq + s.wqCount t h.hq
    ({ h with slot := place },
      s.wqPush t h.hq (pushedHandle ((h.handle.map (·.toNat)).getD 0) e (s.commits t e) 0))
  else if h.hen then (h, s.setF (aTileWqStatus t h.hq) 19 14 (s.wqPending t h.hq + 1))
  else (h, s)

/-- All pops of a command, then its start pushes and reservations, each in operand order. -/
def State.commitQueues (s : State) (t e p : Nat) : List OpHandle × State :=
  let qs := (cmdQueues e p).filter (fun x => qfPen x.2 || qfHen x.2)
  let a := qs.foldl (fun (a : List OpHandle × State) x =>
    let r := a.2.commitPop t x
    (a.1 ++ [r.1], r.2)) ([], s)
  a.1.foldl (fun (b : List OpHandle × State) h =>
    let r := b.2.commitPush t e h
    (b.1 ++ [r.1], r.2)) ([], a.2)

/-- Commit the head of queue e: it leaves the queue, is counted, and does its queue work. -/
def State.commit (s : State) (t e : Nat) (c : Cmd) : List OpHandle × State :=
  let s := s.setQueue t e ((s.tile t).queue e).tail
  let s := s.dropWaits t (fun w => w == .guard e)
  let s := s.onSeq t (fun q => { q with commits := mapPut 0 q.commits e (mapGet 0 q.commits e + 1) })
  s.commitQueues t e c.payload

/-- Does a payload name a pattern slot with a word that decodes as uncorrectable? Slot 0 is fixed (R215). -/
def Tile.patternBad (x : Tile) (target p : Nat) : Bool :=
  (cmdPatterns target p).any (fun k => k != 0 && (mapGet false x.patBad (2 * k) || mapGet false x.patBad (2 * k + 1)))

/-- Base of operand k: its handle's base plus the base field, or the base field alone (R232). -/
def operandBase (hs : List OpHandle) (k field : Nat) : Nat :=
  match hs.find? (fun h => h.operand == k) with
  | some { handle := some h, .. } => handleBase h.toNat + field
  | _ => field

/-- Does operand k's extent lie within its handle's range, where it has a handle (R236)? -/
def extentOk (hs : List OpHandle) (k : Nat) (pat : List Level) (base size : Nat) : Bool :=
  match hs.find? (fun h => h.operand == k) with
  | some { handle := some h, .. } =>
    let lo : Int := base + patLow pat
    let hi : Int := base + patHigh pat + size
    decide ((handleBase h.toNat : Int) ≤ lo ∧ hi ≤ handleBase h.toNat + handleLen h.toNat)
  | _ => true

/-! ### Completion (R212, R235, R237) -/

/-- Release the reservations that a command's completion pushes would have used. -/
def State.releaseReservations (s : State) (t : Nat) (hs : List OpHandle) : State :=
  (hs.filter (fun h => h.hen && !h.role)).foldl (fun s h =>
    s.setF (aTileWqStatus t h.hq) 19 14 (s.wqPending t h.hq - 1)) s

/-- Fill sets and completion pushes (R235); a fill set that comes after its handle was taken is dropped with event
0x83. -/
def State.completeQueues (s : State) (t e entry : Nat) (hs : List OpHandle) : State :=
  hs.foldl (fun s h =>
    if !h.hen then s
    else if h.role then
      let popped := mapGet 0 (s.tile t).pops h.hq
      if popped ≤ h.slot then
        let a := aTileWqHandle t h.hq ((s.wqHead t h.hq + (h.slot - popped)) % 32)
        s.setF a 63 63 1
      else s.post (rimTile t (e + 1)) 0x83 entry h.hq
    else
      let s := s.setF (aTileWqStatus t h.hq) 19 14 (s.wqPending t h.hq - 1)
      s.wqPush t h.hq (pushedHandle ((h.handle.map (·.toNat)).getD 0) e (s.commits t e) (b2n h.qfill))) s

/-- Post the completion of a command: with parity status nothing is filled, pushed or signalled (R193, R237). -/
def State.complete (s : State) (t e : Nat) (c : Cmd) (hs : List OpHandle) (parity : Bool) : State :=
  let s := s.onSeq t (fun q => { q with completed := q.completed + 1, parityDone := q.parityDone || parity })
  if parity then s.releaseReservations t hs
  else (s.completeQueues t e c.entry hs).fireSigs t c.issue c.sigs

/-- End a command that an uncorrectable word or an overrun stopped: nothing is filled, pushed or signalled (R147, R203, R237). -/
def State.endStopped (s : State) (t : Nat) (hs : List OpHandle) : State :=
  (s.releaseReservations t hs).onSeq t (fun q => { q with completed := q.completed + 1 })

/-- A command fault: the command does not run and completes without effect, event 0x85 names the operand, and a
contained fault with cause 0x07 is posted (R218, R237). -/
def State.cmdFault (s : State) (t : Nat) (c : Cmd) (hs : List OpHandle) (operand : Nat) : State :=
  let s := s.onSeq t (fun q => { q with completed := q.completed + 1 })
  let s := (s.releaseReservations t hs).post (rimTile t (c.target + 1)) 0x85 c.entry operand
  s.contained t 0x07 c.entry

/-- A command whose commit reads a pattern word that decodes as uncorrectable: it ends without effect, with a contained fault
(R147, R215; DEDUCED, log entry 74). -/
def State.badPattern (s : State) (t : Nat) (c : Cmd) : State :=
  let s := (s.setQueue t c.target ((s.tile t).queue c.target).tail).dropWaits t (fun w => w == .guard c.target)
  let s := s.onSeq t (fun q => { q with completed := q.completed + 1 })
  (s.cnt (aCntSpadUncorr t)).contained t 0x04 c.entry

/-- A zero count: event 0x86 names the slot; the command completes without work (R217, R248). -/
def State.zeroEvent (s : State) (t : Nat) (c : Cmd) (z : Option Nat) : State :=
  match z with
  | some p => s.post (rimTile t (c.target + 1)) 0x86 c.entry p
  | none => s

/-- WAIT_AT_START_PASSED_1024 (R248). -/
def execWaitAtStartPassed1024 (t : TileId) (e : Fin 6) (s : State) : Host.Outcome State Fault Refusal :=
  .next (s.clocked (fun s =>
    match (s.tile t.val).startedHead e.val (fun _ => true) with
    | some c =>
      let cause := s.waitCause t.val e.val c
      if cause = 0 then s else s.post (rimTile t.val (e.val + 1)) 0x80 c.entry cause
    | none => s))

end Sys2Proof.Machine
end

