-- ==== Sys2Proof/Machine/Mac.lean ====
section
/-! DEFINITION. The bit-serial MAC arrays: commands, compute, drain, parity, ballast (R52–R56, R68–R99, R220–R223). -/
namespace Sys2Proof.Machine

/-! ### Operand addresses (R221, R222) -/

/-- Storage width of a format code in bits. -/
def codeWidth (c : Nat) : Nat := match Fmt.ofCode c with | some f => f.width | none => 8

/-- Bytes of a serial row. -/
def rowBytes (fmt : Nat) : Nat := 4 * codeWidth fmt

/-- Bytes of a stationary tile's packed image: offset o lies in one of two banks, 64 B a read (R222). -/
def tileAddr (a o : Nat) : Nat :=
  (bits a 20 18 * 2 + o % 64 / 32) * 0x20000 + 32 * ((bits a 16 5 + o / 64) % 4096) + o % 32

/-- Addresses of a tile's image of width w, and of its 32 scales in the word after it, in the even bank. -/
def tileAddrs (a w : Nat) : List Nat := (List.range (128 * w)).map (tileAddr a ·)
def tileScaleAddrs (a w : Nat) : List Nat :=
  (List.range 32).map (fun n => bits a 20 18 * 2 * 0x20000 + 32 * ((bits a 16 5 + 2 * w) % 4096) + n)

/-- Elements of a packed byte string (R45). -/
def elements (fmt n : Nat) (data : List Byte) : List Nat := unpackBits (codeWidth fmt) n (leVal data)

/-! ### Cells and columns (R51–R55) -/

/-- Integer value of an integer format's element. -/
def intOf (fmt v : Nat) : Int := signedOf (codeWidth fmt) v

/-- Exact product of a serial and a stationary element with both scales (R51, R53). -/
def macProduct (sf tf s t ss ts : Nat) : FVal :=
  match Fmt.ofCode sf, Fmt.ofCode tf with
  | some a, some b =>
    match scaleExp ss, scaleExp ts with
    | some x, some y => ((a.macOperand s).mul (b.macOperand t)).scale (x + y)
    | _, _ => .nan
  | _, _ => .nan

/-- One addition of a column: round_acc for FP64 (kind 0) and FP32 (kind 1), two's complement for INT32 (kind 2). -/
def macStep (kind acc : Nat) (sf tf s t ss ts : Nat) : Nat :=
  if kind = 2 then unsignedOf 32 ((acc : Int) + intOf sf s * intOf tf t)
  else
    let f := if kind = 0 then Fmt.fp64 else Fmt.fp32
    f.roundAcc ((f.decode acc).add (macProduct sf tf s t ss ts))

/-- Accumulator value of (row, column) (R79). -/
def ArrayState.accGet (a : ArrayState) (kind r n : Nat) : Nat :=
  if kind = 0 then
    (mapGet 0 a.acc (64 * r + 2 * n)).toNat + (mapGet 0 a.acc (64 * r + 2 * n + 1)).toNat * 2 ^ 32
  else (mapGet 0 a.acc (32 * r + n)).toNat

/-- Store an accumulator value. -/
def ArrayState.accPut (a : ArrayState) (kind r n v : Nat) : ArrayState :=
  if kind = 0 then
    let lo := mapPut 0 a.acc (64 * r + 2 * n) (BitVec.ofNat 32 v)
    { a with acc := mapPut 0 lo (64 * r + 2 * n + 1) (BitVec.ofNat 32 (v / 2 ^ 32)) }
  else { a with acc := mapPut 0 a.acc (32 * r + n) (BitVec.ofNat 32 v) }

/-! ### A compute part -/

/-- Stationary tiles of the command. -/
def MacOps.tiles (o : MacOps) : Nat := patSteps o.pat1

/-- Address of a stored row of the serial operand. -/
def MacOps.rowAddr (o : MacOps) (step : Nat) : Nat := genAddr 21 o.pat0 o.base0 step

/-- Address of a stationary tile. -/
def MacOps.tileBaseAddr (o : MacOps) (t : Nat) : Nat := genAddr 21 o.pat1 o.base1 t

/-- Serial rows of the compute part, over all its tiles (R221). -/
def MacOps.steps (o : MacOps) : Nat := o.tiles * macRows o.payload

/-- 32 B words that a serial row touches, in ascending address (R74). -/
def MacOps.rowWords (o : MacOps) (n : Nat) : List Nat :=
  ((bankRange (o.rowAddr n) (rowBytes (macSfmt o.payload))).map (· / 32)).eraseDups

/-- The word that holds the scale of a serial row, where the operand is scaled. -/
def MacOps.scaleWords (o : MacOps) (n : Nat) : List Nat :=
  if macSsc o.payload then [genAddr 21 o.pat3 o.base3 n / 32] else []

/-- The reads of a stationary tile: 64 B from two banks at a time, then the word of its scales (R71, R222). -/
def MacOps.tileReads (o : MacOps) (t : Nat) : List (List Nat) :=
  let a := o.tileBaseAddr t
  let w := codeWidth (macTfmt o.payload)
  (List.range (2 * w)).map (fun j => [tileAddr a (64 * j) / 32, tileAddr a (64 * j + 32) / 32]) ++
    (if macTsc o.payload then ((tileScaleAddrs a w).head?.map (fun x => [[x / 32]])).getD [] else [])

/-- The words of a step that are not the word last read before it. -/
def freshWords (before now : List Nat) : List Nat := if now.isEmpty ∨ before.getLast? ≠ now.head? then now else now.drop 1

/-- Every access of the compute part's ports in turn, each with the 32 B words it reads: before the first row of a tile its
load, for each row the words not read last (R71, R74). The order between a tile's load and the rows before it is timing. -/
def MacOps.accesses (o : MacOps) : List (List Nat) :=
  (List.range o.steps).flatMap (fun n =>
    let was (f : Nat → List Nat) : List Nat := if n = 0 then [] else f (n - 1)
    (if n % macRows o.payload = 0 then o.tileReads (n / macRows o.payload) else []) ++
      (freshWords (was o.scaleWords) (o.scaleWords n)).map ([·]) ++ (freshWords (was o.rowWords) (o.rowWords n)).map ([·]))

/-- The elements of one serial row as the array takes it (R74–R76). -/
def Tile.serialRow (x : Tile) (o : MacOps) (t m : Nat) : List Nat :=
  let p := o.payload
  let fmt := macSfmt p
  let stored (n : Nat) : List Nat :=
    elements fmt 32 ((bankRange (o.rowAddr n) (rowBytes fmt)).map (x.byte ·))
  if macForm p = 2 then
    (List.range 32).map (fun k => nth (stored (t * macRows p + m / 32 * 32 + k)) (m % 32))
  else stored (t * macRows p + m)

/-- The cells of stationary tile t, cell 32k + n (R73). -/
def Tile.stationary (x : Tile) (o : MacOps) (t : Nat) : List Nat :=
  let p := o.payload
  let a := o.tileBaseAddr t
  let img := elements (macTfmt p) 1024 ((tileAddrs a (codeWidth (macTfmt p))).map (x.byte ·))
  if macForm p = 1 then (List.range 1024).map (fun c => nth img (32 * (c % 32) + c / 32)) else img

/-- Scale codes of the tile's columns; 127 is a factor of one. -/
def Tile.tileScales (x : Tile) (o : MacOps) (t : Nat) : List Nat :=
  if macTsc o.payload then
    (tileScaleAddrs (o.tileBaseAddr t) (codeWidth (macTfmt o.payload))).map (fun a => (x.byte a).toNat)
  else List.replicate 32 127

/-- Scale code of a serial row. -/
def Tile.rowScale (x : Tile) (o : MacOps) (step : Nat) : Nat :=
  if macSsc o.payload then (x.byte (genAddr 21 o.pat3 o.base3 step)).toNat else 127

/-- One tile's worth of one serial row over the columns written: the recurrence of R53. -/
def macRow (p kind : Nat) (row cells scales : List Nat) (ss : Nat) (acc : Nat → Nat) (n : Nat) : Nat :=
  (List.range (macK p)).foldl (fun s k =>
    macStep kind s (macSfmt p) (macTfmt p) (nth row k) (nth cells (32 * k + n)) ss (nth scales n)) (acc n)

/-- Show a serial row in the stager, and its elements in their column of the corner-turn buffer (R74, R76). -/
def ArrayState.stage (a : ArrayState) (row : List Nat) (step : Nat) (turn : Bool) (col : Nat) : ArrayState :=
  let put (base stride : Nat) (l : List (Nat × W64)) : List (Nat × W64) :=
    (List.range 32).foldl (fun l k => mapPut 0 l (base + stride * k) (BitVec.ofNat 64 (nth row k))) l
  let a := { a with stager := put (32 * (step % 2)) 1 a.stager }
  if turn then { a with corner := put (1024 * (step / 32 % 2) + col) 32 a.corner } else a

/-- Accumulate one stationary tile into the rows of the command. -/
def ArrayState.macTile (a : ArrayState) (x : Tile) (o : MacOps) (kind t : Nat) : ArrayState :=
  let p := o.payload
  let cells := x.stationary o t
  let scales := x.tileScales o t
  let loaded := (List.range 1024).foldl (fun m c => mapPut 0 m c (BitVec.ofNat 64 (nth cells c))) a.shadow
  let a := { a with shadow := a.active, active := loaded }
  (List.range (macRows p)).foldl (fun a m =>
    let step := t * macRows p + m
    let row := x.serialRow o t m
    let ss := x.rowScale o step
    let r := macAccBase p + m
    let fresh := t == 0 && !macKeep p
    let a := a.stage row step (macForm p == 2) (m % 32)
    (List.range (macN p)).foldl (fun b n =>
      b.accPut kind r n (macRow p kind row cells scales ss (fun n => if fresh then 0 else a.accGet kind r n) n)) a) a

/-- The whole compute part (R53, R80–R82). -/
def ArrayState.compute (a : ArrayState) (x : Tile) (o : MacOps) : ArrayState :=
  match accKind (macSfmt o.payload) (macTfmt o.payload) with
  | some kind => (List.range o.tiles).foldl (fun a t => a.macTile x o kind t) { a with lastFmt := macSfmt o.payload }
  | none => a

/-! ### Checks at issue and commit -/

/-- Does a command break the row bounds of R79 and R83? -/
def macBoundFault (p : Nat) : Bool :=
  let rows := match accKind (macSfmt p) (macTfmt p) with | some k => accRows k | none => 512
  (macCen p && decide (rows < macAccBase p + macRows p)) || decide (0 < macDrainRows p ∧ rows < macAccBase p + macDrainRows p)

/-- The region check of R163: 0 passes, 1 no region, 2 with the region whose producer differs. -/
def State.regionFault (s : State) (t m p : Nat) : Nat × Nat :=
  if !macDgab p ∨ macDrainRows p = 0 then (0, 0)
  else match s.regionOf t (macBase p 2 % 2 ^ 18) (32 * macDrainRows p) with
    | none => (1, 0)
    | some k => if regionProducer (s.rdN (aGabRegion t k)) = m then (0, 0) else (2, k)

/-- Alignment of the serial operand (R221): FP6 counts 24 B from the start of the bank. -/
def serialAligned (fmt : Nat) (pat : List Level) (base : Nat) : Bool :=
  if codeWidth fmt = 6 then bits base 16 0 % 24 == 0 && patAligned 24 pat 0
  else patAligned (if codeWidth fmt = 4 then 16 else 32) pat base

/-- The first operand that fails the checks of R218 and R236, which leave no MAC operand out. -/
def macOperandFault (hs : List OpHandle) (o : MacOps) : Option Nat :=
  let p := o.payload
  let w := codeWidth (macTfmt p)
  let rowSize := match accKind (macSfmt p) (macTfmt p) with | some 0 => 256 | _ => 128
  if !serialAligned (macSfmt p) o.pat0 o.base0 || !extentOk hs 0 o.pat0 o.base0 (rowBytes (macSfmt p)) then some 0
  else if !patAligned 32 o.pat1 o.base1 || !extentOk hs 1 o.pat1 o.base1 (64 * w + (if macTsc p then 32 else 0)) then some 1
  else if o.base2 % (if macDgab p then 8 else 32) != 0 || !extentOk hs 2 [] o.base2 (rowSize * macDrainRows p) then some 2
  else if !extentOk hs 3 o.pat3 o.base3 1 then some 3
  else none

/-- The operands of a MAC command as its commit latches them: patterns, and bases with the popped handles (R214, R232). -/
def State.macOps (s : State) (t p : Nat) (hs : List OpHandle) : MacOps :=
  { payload := p, pat0 := s.pattern t (macPat0 p), pat1 := s.pattern t (macPat1 p), pat3 := s.pattern t (macPat3 p),
    base0 := operandBase hs 0 (macBase p 0), base1 := operandBase hs 1 (macBase p 1),
    base2 := if macDgab p then macBase p 2 % 2 ^ 18 else operandBase hs 2 (macBase p 2),
    base3 := operandBase hs 3 (macBase p 3) }

/-- New work takes the array out of ballast, with event 0x44 (R89, R99). -/
def State.ballastEnd (s : State) (t m entry : Nat) : State :=
  if s.getF (aMacStatus t m) 3 3 = 1 then
    let (n, s) := s.ballastOff t m
    s.post (rimTile t (m + 1)) 0x44 entry n
  else s

/-! ### Runs (R84) -/

/-- Replace run number i of an array. -/
def State.setRun (s : State) (t m i : Nat) (r : MacRun) : State :=
  s.onArray t m (fun a => { a with runs := setNth a.runs i r })

/-- Take run number i out of an array. -/
def State.dropRun (s : State) (t m i : Nat) : State := s.onArray t m (fun a => { a with runs := a.runs.eraseIdx i })

/-- Index of the run in a stage. -/
def ArrayState.inStage (a : ArrayState) (g : MacStage) : Option (Nat × MacRun) :=
  match a.runs.findIdx? (fun r => r.stage == g) with
  | some i => (a.runs[i]?).map (fun r => (i, r))
  | none => none

/-- Does a compute part hold the array: one that runs, or waits for rows? -/
def ArrayState.computing (a : ArrayState) : Bool := a.runs.any (fun r => r.stage == .compute || r.stage == .held)

/-- 32 B accumulator words of one row, with whether the n columns cover the word (R79). -/
def accRowWords (kind r n : Nat) : List (Nat × Bool) :=
  let z := if kind = 0 then 8 else 4
  (List.range ((z * n + 31) / 32)).map (fun i => (z * r + i, decide (32 * (i + 1) ≤ z * n)))

/-- Accumulator words from a row on, n rows, as a range. -/
def accSpan (p n : Nat) : Nat × Nat :=
  let z := match accKind (macSfmt p) (macTfmt p) with | some 0 => 8 | _ => 4
  (z * macAccBase p, z * (macAccBase p + n))

/-- Does the compute part of a command share a row with the drain part of an earlier command that has not drained (R84)? -/
def ArrayState.overlaps (a : ArrayState) (p : Nat) : Bool :=
  a.runs.any (fun r => decide (r.stage = .drain) &&
    decide ((accSpan r.cmd.payload (macDrainRows r.cmd.payload)).1 < (accSpan p (macRows p)).2 ∧
      (accSpan p (macRows p)).1 < (accSpan r.cmd.payload (macDrainRows r.cmd.payload)).2))

/-- Overwrite the rows that a stopped compute part touched with free values: they are unusable (R85). -/
def State.spoilRows (s : State) (t m p : Nat) : State :=
  match accKind (macSfmt p) (macTfmt p) with
  | none => s
  | some kind =>
    (List.range (macRows p)).foldl (fun s r => (List.range (macN p)).foldl (fun s n =>
      let (v, s) := s.freeNat 64
      s.onArray t m (·.accPut kind (macAccBase p + r) n v)) s) s

/-- Count the cycles of a compute part as it ends: P useful cycles for each serial row, of a part that was stopped for some
of its rows; the holds of R82 and the waits of R71 and R74, whose number is free (R98), and of which a free number are lost bank contests
(R562, R563). -/
def State.countCompute (s : State) (t m : Nat) (o : MacOps) (whole : Bool) : State :=
  let passes := match Fmt.ofCode (macSfmt o.payload) with | some f => f.passes | none => 1
  let (rows, s) := if whole then (o.steps, s) else
    let (n, s) := s.freeNat 48
    (n % (o.steps + 1), s)
  let (waits, s) := s.freeNat 48
  let holds := if whole then (o.tiles - 1) * (32 - passes * macRows o.payload) else 0
  let (lost, s) := s.freeNat 48
  let k1 := lost % (waits + 1)
  (((s.cnt (aCntMacUseful t m) (passes * rows)).cnt (aCntMacHeld t m) (holds + waits)).stall t m 0 (holds + waits - k1)).stall t m 1 k1

/-- A compute part that an error or an overrun ends: its rows hold what it left, and the command ends (R147, R203). -/
def State.abandonCompute (s : State) (t m i : Nat) (r : MacRun) : State :=
  let s := (s.dropRun t m i).setF (aMacStatus t m) 1 1 0
  let s := if r.stage = .held then s else (s.spoilRows t m r.cmd.payload).countCompute t m r.ops false
  s.endStopped t r.handles

/-- What a 32 B word read meets: the failing 8 B group of a light-class word, or an uncorrectable strong-class word (true). -/
def Tile.wordCheck (x : Tile) (w : Nat) : Option (Nat × Bool) :=
  (firstIdx (fun i => mapGet false x.spadBad (4 * w + i)) (if lightAddr (32 * w) then 4 else 1)).map (fun i =>
    (32 * w + 8 * i, !lightAddr (32 * w)))

/-- What a sequence of accesses meets first: which access, the address, and whether it is uncorrectable, which goes before
parity within one access (R147). -/
def Tile.firstBad (x : Tile) (as : List (List Nat)) : Option (Nat × Nat × Bool) :=
  let met (ws : List Nat) : Option (Nat × Bool) :=
    let l := ws.filterMap x.wordCheck
    match l.find? (·.2) with | some b => some b | none => l.head?
  match as.findIdx? (fun ws => (met ws).isSome) with
  | some i => (met (as.getD i [])).map (fun b => (i, b.1, b.2))
  | none => none

/-- Does a compute part read an accumulator word that decodes as uncorrectable: with acc_init = keep any of its words, else,
from its second tile on, one that it does not write whole (R80, R87)? -/
def ArrayState.keepsBad (a : ArrayState) (o : MacOps) : Bool :=
  let p := o.payload
  match accKind (macSfmt p) (macTfmt p) with
  | none => false
  | some kind => (List.range (macRows p)).any (fun r => (accRowWords kind (macAccBase p + r) (macN p)).any (fun w =>
      mapGet false a.accBad w.1 && (macKeep p || (!w.2 && decide (1 < o.tiles)))))

/-- The words that a compute part has written whole decode again; a partly written one stays as it was (R80, R146). -/
def ArrayState.cleaned (a : ArrayState) (o : MacOps) : ArrayState :=
  let p := o.payload
  match accKind (macSfmt p) (macTfmt p) with
  | none => a
  | some kind => { a with accBad := (List.range (macRows p)).foldl (fun l r =>
      (accRowWords kind (macAccBase p + r) (macN p)).foldl (fun l w => if w.2 then mapPut false l w.1 false else l) l) a.accBad }

/-- Run the compute part of run i: operands are read access by access; the first that is uncorrectable ends the command
with a contained fault, the first parity mismatch stops the staging and spoils the rows; an uncorrectable accumulator word
that the part reads is a contained fault (R80, R85, R87, R147). -/
def State.runCompute (s : State) (t m i : Nat) (r : MacRun) : State :=
  let o := r.ops
  let as := o.accesses
  let r := { r with stage := .compute }
  let bad := (s.tile t).firstBad as
  let made := match bad with | some (n, _) => as.take (n + 1) | none => as
  let s := s.cnt (aCntSpadRdBytes t) (32 * (made.map (·.length)).sum)
  match bad with
  | some (_, a, true) => ((s.abandonCompute t m i r).spadErr t 2 false r.cmd.entry a).contained t 0x04 r.cmd.entry
  | some (_, a, false) => (s.setRun t m i { r with parity := some a }).spoilRows t m r.cmd.payload
  | none =>
    if ((s.tile t).array m).keepsBad o then
      ((s.abandonCompute t m i r).cnt (aCntSpadUncorr t)).contained t 0x04 r.cmd.entry
    else
      let x := s.tile t
      (s.setRun t m i r).onArray t m (fun a => (a.compute x o).cleaned o)

/-- The compute part that waits for rows of an earlier drain runs once none of them is left (R84). -/
def State.startHeld (s : State) (t m : Nat) : State :=
  match ((s.tile t).array m).inStage .held with
  | some (i, r) => if ((s.tile t).array m).overlaps r.cmd.payload then s else s.runCompute t m i r
  | none => s

/-- Append a run to an array's list. -/
def State.addRun (s : State) (t m : Nat) (c : Cmd) (o : MacOps) (hs : List OpHandle) (stage : MacStage) (zero : Option Nat) :
    State :=
  s.onArray t m (fun a => { a with runs := a.runs ++
    [{ cmd := c, ops := o, stage, handles := hs, zero, parity := none, reported := false }] })

/-- Begin the compute part of a committed command, with event 0x40; its accesses to rows of an earlier drain wait (R84). -/
def State.beginCompute (s : State) (t m : Nat) (c : Cmd) (hs : List OpHandle) (o : MacOps) : State :=
  let s := (s.ballastEnd t m c.entry).post (rimTile t (m + 1)) 0x40 c.entry (macAccBase c.payload)
  ((s.setF (aMacStatus t m) 1 1 1).addRun t m c o hs .held none).startHeld t m

/-- MAC_COMMAND: commit and run (R79, R163, R213–R218, R220). R79's 'at issue' is here the commit: the row bounds are
checked once the command heads its queue and its start conditions hold (DEDUCED, log entry 73). -/
def State.doMac (s : State) (t m : Nat) : State :=
  if ((s.tile t).array m).computing then s
  else
    match s.tryCommit t m (fun _ => true) with
    | (none, s) => s
    | (some c, s) =>
      let p := c.payload
      let rf := s.regionFault t m p
      if macBoundFault p ∨ rf.1 ≠ 0 then
        let s := (s.setQueue t m ((s.tile t).queue m).tail).dropWaits t (fun w => w == .guard m)
        let s := s.onSeq t (fun q => { q with completed := q.completed + 1 })
        let s := if macBoundFault p then s.post (rimTile t (m + 1)) 0x49 c.entry (macAccBase p)
          else (s.wrN (aGabStatus t) (1 + rf.1 * 2 + rf.2 * 8)).post (rimTile t 0) 0x66 c.entry (macBase p 2 % 2 ^ 18)
        s.contained t 0x07 c.entry
      else if (s.tile t).patternBad m p then s.badPattern t c
      else
        let (hs, s) := s.commit t m c
        let o := s.macOps t p hs
        match macOperandFault hs o with
        | some k => s.cmdFault t c hs k
        | none =>
          match s.zeroSlot t (cmdPatterns m p) with
          | some z => (s.zeroEvent t c (some z)).addRun t m c o hs .done (some z)
          | none => if macCen p then s.beginCompute t m c hs o else s.addRun t m c o hs .drain none

/-- MAC_COMMAND. -/
def execMacCommand (t : TileId) (m : Fin 4) (s : State) : Host.Outcome State Fault Refusal :=
  .next (s.clocked (·.doMac t.val m.val))

/-- Does ballast follow the compute part: as the mode asks, and in the clock ramp after a supply dip whatever the mode
(R88, R90)? -/
def State.ballastApplies (s : State) (t : Nat) (c : Cmd) : Bool :=
  let mode := s.getF (aMacBallastCtrl t) 1 0
  mode == 2 || (mode == 1 && c.bh) || s.getF aPwrDipStatus 2 2 == 1

/-- Ballast begins after the last useful digit, with event 0x43 (R89, R90, R99). -/
def State.ballastStart (s : State) (t m entry : Nat) : State :=
  let s := (s.setF (aMacStatus t m) 3 3 1).onArray t m (fun a => { a with rampBallast := s.getF aPwrDipStatus 2 2 == 1 })
  s.post (rimTile t (m + 1)) 0x43 entry (s.getF (aMacBallastCtrl t) 26 16)

/-- MAC_COMPUTE_COMPLETE (R84): event 0x41; the drain starts, or the command is done. A parity stop skips the drain (R85)
and posts no 0x41, since the part did not complete (DESIGN CHOICE, log entry 73). -/
def State.computeComplete (s : State) (t m : Nat) : State :=
  match ((s.tile t).array m).inStage .compute with
  | none => s
  | some (i, r) =>
    if r.parity.isSome ∧ !r.reported then s
    else
      let p := r.cmd.payload
      let s := (s.setF (aMacStatus t m) 1 1 0).countCompute t m r.ops r.parity.isNone
      let s := if r.parity.isSome then s
        else s.post (rimTile t (m + 1)) 0x41 r.cmd.entry (macAccBase p + macRows p - 1)
      let drain := r.parity.isNone && decide (0 < macDrainRows p)
      let s := s.setRun t m i { r with stage := if drain then .drain else .done }
      if s.ballastApplies t r.cmd then s.ballastStart t m r.cmd.entry else s

/-- MAC_COMPUTE_COMPLETE. -/
def execMacComputeComplete (t : TileId) (m : Fin 4) (s : State) : Host.Outcome State Fault Refusal :=
  .next (s.clocked (·.computeComplete t.val m.val))

/-- Address of the drain destination: the handle's base plus the base field (R232). -/
def MacRun.drainBase (r : MacRun) : Nat :=
  if macDgab r.cmd.payload then macBase r.cmd.payload 2 % 2 ^ 18 else operandBase r.handles 2 (macBase r.cmd.payload 2)

/-- Accumulator reads of a drain of some rows in order: row and 32 B beat in it (R83). -/
def drainBeats (kind p rows : Nat) : List (Nat × Nat) :=
  (List.range rows).flatMap (fun r => (List.range (accRowWords kind r (macN p)).length).map (fun i => (r, i)))

/-- Columns below n_cols of a beat (R81). -/
def beatCols (kind p i : Nat) : List Nat :=
  let c := if kind = 0 then 4 else 8
  ((List.range c).map (c * i + ·)).filter (fun n => decide (n < macN p))

/-- Scratchpad bytes that one beat writes (R81, R83). -/
def drainBytes (a : ArrayState) (kind base p : Nat) (b : Nat × Nat) : List (Nat × Byte) :=
  let size := if kind = 0 then 8 else 4
  (beatCols kind p b.2).flatMap (fun n =>
    let v := a.accGet kind (macAccBase p + b.1) n
    (List.range size).map (fun i => ((base + 32 * size * b.1 + size * n + i) % 2 ^ 21, BitVec.ofNat 8 (v / 256 ^ i))))

/-- Is the accumulator word of a beat uncorrectable? -/
def ArrayState.beatBad (a : ArrayState) (kind p : Nat) (b : Nat × Nat) : Bool :=
  mapGet false a.accBad ((if kind = 0 then 8 else 4) * (macAccBase p + b.1) + b.2)

/-- Add one beat into its GAB granule; an uncorrectable granule ends the drain with its stored bits kept (R147, R161). The
flag tells whether the drain still runs. -/
def State.addBeat (s : State) (t base p entry : Nat) (a : ArrayState) (b : Nat × Nat) : Bool × State :=
  let es := (beatCols 1 p b.2).map (base + 32 * b.1 + ·)
  match (s.tile t).gabUncorr (es ++ es.filterMap (s.compPair t ·)) with
  | some x => (false, (s.spadErr t 2 true entry (4 * x)).contained t 0x04 entry)
  | none =>
    let s := (beatCols 1 p b.2).foldl (fun s n => s.gabAdd t (base + 32 * b.1 + n) (a.accGet 1 (macAccBase p + b.1) n)) s
    (true, s.cnt (aCntGabAddBytes t) (4 * es.length))

/-- The first rows of a run's drain part: whether no error stopped it, and the state. An uncorrectable accumulator word
ends it with a contained fault; what was drained before stands (R87). -/
def State.drain (s : State) (t m : Nat) (r : MacRun) (rows : Nat) : Bool × State :=
  let p := r.cmd.payload
  let a := (s.tile t).array m
  match accKind (macSfmt p) (macTfmt p) with
  | none => (true, s)
  | some kind =>
    let bs := drainBeats kind p rows
    let good := bs.takeWhile (fun b => !a.beatBad kind p b)
    let (ok, s) :=
      if macDgab p then
        good.foldl (fun (b : Bool × State) x => if b.1 then b.2.addBeat t r.drainBase p r.cmd.entry a x else b) (true, s)
      else
        let cs := good.flatMap (drainBytes a kind r.drainBase p ·)
        (true, (s.onTile t (·.writeAt cs)).cnt (aCntSpadWrBytes t) cs.length)
    if ok ∧ good.length < bs.length then (false, (s.cnt (aCntSpadUncorr t)).contained t 0x04 r.cmd.entry) else (ok, s)

/-- A drain that an error or an overrun ends: the command ends, and a compute part that waited for its rows may run. -/
def State.abandonDrain (s : State) (t m i : Nat) (r : MacRun) : State :=
  ((s.dropRun t m i).endStopped t r.handles).startHeld t m

/-- Address field of event 0x42 (R99). -/
def MacRun.lastDrained (r : MacRun) : Nat :=
  let p := r.cmd.payload
  let k := macDrainRows p - 1
  if macDgab p then r.drainBase + 32 * k + (macN p - 1) / 8 * 8
  else
    let size := match accKind (macSfmt p) (macTfmt p) with | some 0 => 8 | _ => 4
    (r.drainBase + 32 * size * k + size * macN p - 1) / 32 * 32 % 2 ^ 21

/-- Does R86 still keep a drain from starting? -/
def Tile.drainHeld (x : Tile) (r : MacRun) : Bool := macDgab r.cmd.payload && !x.clearBefore r.cmd.issue

/-- Is a drain part of array m running: the first that is due, and not held by R86 (R94)? -/
def Tile.drainBusy (x : Tile) (m : Nat) : Bool :=
  match (x.array m).inStage .drain with | some (_, r) => !x.drainHeld r | none => false

/-- MAC_DRAIN_COMPLETE (R83, R86, R196): a GAB drain waits for every earlier command of the segment; where one of them
completed with parity status the drain is skipped and the command completes with parity status. -/
def State.drainComplete (s : State) (t m : Nat) : State :=
  match ((s.tile t).array m).inStage .drain with
  | none => s
  | some (i, r) =>
    if macDgab r.cmd.payload ∧ (s.tile t).seq.parityDone then
      (s.setRun t m i { r with stage := .done, parity := some 0, reported := true }).startHeld t m
    else if (s.tile t).drainHeld r then s
    else match s.drain t m r (macDrainRows r.cmd.payload) with
      | (true, s) => ((s.post (rimTile t (m + 1)) 0x42 r.cmd.entry r.lastDrained).setRun t m i { r with stage := .done }).startHeld t m
      | (false, s) => s.abandonDrain t m i r

/-- MAC_DRAIN_COMPLETE. -/
def execMacDrainComplete (t : TileId) (m : Fin 4) (s : State) : Host.Outcome State Fault Refusal :=
  .next (s.clocked (·.drainComplete t.val m.val))

/-- OPERAND_PARITY_EVENT (R85, R87): the array stops staging; rows touched are unusable, the drain is skipped, the
event goes to the sequencer. `stored` tells an upset of the stored word from one in the read path (R300). -/
def State.operandParity (s : State) (t m addr : Nat) (stored : Bool) : State :=
  match ((s.tile t).array m).inStage .compute with
  | none => s
  | some (i, r) =>
    if r.reported then s
    else
      let a := r.parity.getD addr
      let s := if r.parity.isNone then
          (if stored && lightAddr addr then s.onTile t (·.markBad [addr]) else s).spoilRows t m r.cmd.payload
        else s
      let s := (s.spadErr t 1 false r.cmd.entry a).post (rimTile t (m + 1)) 0x48 r.cmd.entry a
      let s := s.setRun t m i { r with parity := some a, reported := true }
      s.parityDue t r.cmd.entry a

/-- OPERAND_PARITY_EVENT. -/
def execOperandParityEvent (t : TileId) (m : Fin 4) (addr : BitVec 21) (stored : Bool) (s : State) :
    Host.Outcome State Fault Refusal :=
  .next (s.clocked (·.operandParity t.val m.val addr.toNat stored))

/-- May ballast of tile t expire: not in the clock ramp after a supply dip, not in a ramp of its partition, and not once the
tile has reached END (R89–R92)? -/
def State.mayExpire (s : State) (t : Nat) : Bool :=
  s.getF aPwrDipStatus 2 2 == 0 && s.sq t != sqDone &&
  (match s.tilePart t with
   | some p => !bit (s.rdN aMacRampStatus) p && !bit (s.rdN aMacRampStatus) (16 + p)
   | none => true)

/-- BALLAST_EXPIRED (R89): BALLAST_GAP cycles of ballast, or for ballast that began in a ramp a free number of them. The entry
field of 0x45, as of 0x46 and 0x47, is 0: the event belongs to no slath entry (DESIGN CHOICE, log entry 73). -/
def State.ballastExpired (s : State) (t m : Nat) : State :=
  if s.getF (aMacStatus t m) 3 3 = 1 ∧ s.mayExpire t then
    let gap := s.getF (aMacBallastCtrl t) 26 16
    let s := if ((s.tile t).array m).rampBallast then (s.ballastOff t m).2
      else (s.setF (aMacStatus t m) 3 3 0).ballastRan t m gap
    s.post (rimTile t (m + 1)) 0x45 0 gap
  else s

/-- BALLAST_EXPIRED. -/
def execBallastExpired (t : TileId) (m : Fin 4) (s : State) : Host.Outcome State Fault Refusal :=
  .next (s.clocked (·.ballastExpired t.val m.val))

end Sys2Proof.Machine
end

