-- ==== Sys2Proof/Machine/DdrPolicy.lean ====
section
/-! DEFINITION. The firmware's policy on DDR error records, and what it rebuilds at a cold boot (R333, R334, R340). -/
namespace Sys2Proof.Machine

/-- Row of a space 0 offset within its bank (R329). -/
def State.rowOf (s : State) (off : Nat) : Nat := localOf off / (2 ^ 19 * s.ranks)

/-- 24 hours in HCLK. -/
def dayHclk : Nat := 24 * 3600 * 1200000000

/-- How many corrected codewords of the last 24 hours satisfy a test. -/
def State.seenCount (s : State) (p : DdrSeen → Bool) : Nat := (s.mem.seen.filter p).length

/-- Queue a row for hard repair at the next cold reset, once (R333). -/
def State.queueRepair (s : State) (x : DdrSeen) : State :=
  let r := (x.chan, x.bank, x.row, x.dev)
  s.onDdrLog (fun l => if l.repairs.contains r then l else { l with repairs := l.repairs ++ [r] })

/-- Name a device in DDR_CH_ERASE_c, in the first place not in use, and log it; a device named already, or a third one of a
channel, changes nothing (R323, R333). -/
def State.eraseDevice (s : State) (c d : Nat) : State :=
  let r := s.rdN (aDdrChErase c)
  if (bit r 5 && bits r 4 0 == d) || (bit r 13 && bits r 12 8 == d) || (bit r 5 && bit r 13) then s
  else
    let s := s.onDdrLog (fun l => { l with erased := l.erased ++ [(c, d)] })
    if bit r 5 then (s.setF (aDdrChErase c) 12 8 d).setF (aDdrChErase c) 13 13 1
    else (s.setF (aDdrChErase c) 4 0 d).setF (aDdrChErase c) 5 5 1

/-- A corrected codeword at an offset on a device: sixteen in a page retire it, four on one device in one row queue the row,
sixty-four on one device of a channel erase it, each within 24 hours (R333). -/
def State.correctedSeen (s : State) (off dev : Nat) : State :=
  let x : DdrSeen := { hoop := s.hoop, page := off / 2 ^ 21, chan := chanOf off, dev, bank := s.bankKey off, row := s.rowOf off }
  let s := { s with mem := { s.mem with seen := s.mem.seen.filter (fun y => decide (s.hoop - y.hoop < dayHclk)) ++ [x] } }
  let s := if 4 ≤ s.seenCount (fun y => y.dev == dev && y.bank == x.bank && y.row == x.row) then s.queueRepair x else s
  let s := if 64 ≤ s.seenCount (fun y => y.dev == dev && y.chan == x.chan) then s.eraseDevice x.chan dev else s
  if 16 ≤ s.seenCount (fun y => y.page == x.page) then s.retirePage x.page else s

/-- What firmware does with an error record that it has read: a corrected codeword is counted, an uncorrectable one retires
its page (R333, R340). -/
def State.policy (s : State) (rec : Nat) : State :=
  if !bit rec 63 then s
  else match bits rec 62 61 with
  | 0 => s.correctedSeen (bits rec 41 0) (bits rec 55 51)
  | 1 => s.retirePage (bits rec 41 0 / 2 ^ 21)
  | _ => s

/-- At a cold boot firmware rebuilds the remap table and DDR_CH_ERASE from its log, without copying (R333). -/
def State.rebuildDdr (s : State) : State :=
  let l := s.otp.ddrLog
  let s := (l.retired.zip (List.range 512)).foldl (fun s x =>
    s.wrN (aDdrRemap x.2) (2 ^ 63 + x.1.2 * 2 ^ 42 + x.1.1 * 2 ^ 21)) s
  l.erased.foldl (fun s x => s.eraseDevice x.1 x.2) (s.onDdrLog (fun l => { l with erased := [] }))

/-- The queued rows that stay after a training has repaired the first of each bank group of each channel (R333, R334). -/
def rowsLeft : List Nat → List (Nat × Nat × Nat × Nat) → List (Nat × Nat × Nat × Nat)
  | _, [] => []
  | groups, r :: rest => if groups.contains (r.2.1 / 4) then r :: rowsLeft groups rest else rowsLeft (r.2.1 / 4 :: groups) rest

/-- The hard repairs of a training that succeeds are dropped from the log (R333, R334). -/
def State.rowsRepaired (s : State) : State := s.onDdrLog (fun l => { l with repairs := rowsLeft [] l.repairs })

end Sys2Proof.Machine
end

