-- ==== Sys2Proof/Machine/Se.lean ====
section
/-! DEFINITION. The stream engine: COPY, PLOAD, QPUSH, far requests, translation, stream faults (R227–R231, R261–R298). -/
namespace Sys2Proof.Machine

/-! ### The plan of a COPY (R262, R263, R271) -/

/-- Payload of the context's command. -/
def SeCtx.pay (k : SeCtx) : Nat := (k.cmd.map (·.payload)).getD 0
/-- Slath entry of the context's command. -/
def SeCtx.entry (k : SeCtx) : Nat := (k.cmd.map (·.entry)).getD 0
/-- Bytes per step. -/
def SeCtx.bytes (k : SeCtx) : Nat := seBytes k.pay
/-- Rows of a transposed block: E = B ÷ esize (R271). -/
def transposeRows (p : Nat) : Nat := seBytes p / seEsize p
/-- Steps of one unit of work. -/
def SeCtx.rows (k : SeCtx) : Nat := if seTrn k.pay then transposeRows k.pay else 1
/-- Step number of row r of the present unit. -/
def SeCtx.stepOf (k : SeCtx) (r : Nat) : Nat := k.unit * k.rows + r
/-- Source and destination address of a step. -/
def SeCtx.srcAddr (k : SeCtx) (n : Nat) : Nat := genAddr (seKindWidth (seSkind k.pay)) k.srcPat k.srcBase n
def SeCtx.dstAddr (k : SeCtx) (n : Nat) : Nat := genAddr (seKindWidth (seDkind k.pay)) k.dstPat k.dstBase n
/-- Is a kind outside the tile? -/
def farKind (kind : Nat) : Bool := decide (2 ≤ kind)

/-- Requests of one row: row, address, length, each within one aligned 256 B block (R263). -/
def rowPieces (bytes row a : Nat) : List (Nat × Nat × Nat) :=
  (linePieces (bytes / 256 + 2) a bytes).map (fun x => (row, x.1, x.2))

/-- Rows that the unit still issues: from its first row on (R278). -/
def SeCtx.rowList (k : SeCtx) : List Nat := (List.range k.rows).filter (fun r => decide (k.row0 ≤ r))

/-- Read and write requests of the present unit, in issue order (R263). -/
def SeCtx.reads (k : SeCtx) : List (Nat × Nat × Nat) :=
  if farKind (seSkind k.pay) then k.rowList.flatMap (fun r => rowPieces k.bytes r (k.srcAddr (k.stepOf r))) else []
def SeCtx.writes (k : SeCtx) : List (Nat × Nat × Nat) :=
  if farKind (seDkind k.pay) then k.rowList.flatMap (fun r => rowPieces k.bytes r (k.dstAddr (k.stepOf r))) else []

/-- The next request of a context: whether it is a write, its row, address and length. -/
def SeCtx.nextReq (k : SeCtx) : Option (Bool × Nat × Nat × Nat) :=
  if k.units ≤ k.unit then none
  else
    let rs := k.reads
    if k.sub < rs.length then (rs[k.sub]?).map (fun x => (false, x))
    else if k.arrived < rs.length then none
    else (k.writes[k.sub - rs.length]?).map (fun x => (true, x))

/-- Move to the next unit once every request of this one has been issued; a transposed block goes on only when its
rows have arrived. -/
def SeCtx.advance (k : SeCtx) : SeCtx :=
  if k.unit < k.units ∧ k.sub = k.reads.length + k.writes.length ∧ (!seTrn k.pay || decide (k.reads.length ≤ k.arrived)) then
    { k with unit := k.unit + 1, row0 := 0, sub := 0, arrived := 0, buf := [], bufBad := [] }
  else k

/-- The smallest step of the present unit that holds a request not issued or data not written (R277). -/
def SeCtx.openStep (k : SeCtx) : Nat :=
  if k.units ≤ k.unit then k.units * k.rows
  else if k.sub ≤ k.reads.length then k.stepOf k.row0
  else match k.writes[k.sub - k.reads.length]? with
    | some (r, _) => k.stepOf r
    | none => k.stepOf k.row0

/-! ### Buffered data: plain, or transposed (R271) -/

/-- Source byte of the buffer that byte b of destination row r holds, as its buffer address. -/
def SeCtx.bufAddr (k : SeCtx) (r b : Nat) : Nat :=
  if seTrn k.pay then
    let es := seEsize k.pay
    (b / es) * k.bytes + r * es + b % es
  else r * k.bytes + b

/-- Destination bytes b to b + n − 1 of row r. -/
def SeCtx.outBytes (k : SeCtx) (r b n : Nat) : List Byte :=
  (List.range n).map (fun i => mapGet 0 k.buf (k.bufAddr r (b + i)))

/-- Poison of the destination's 32 B words from byte b of row r on. -/
def SeCtx.outPoison (k : SeCtx) (r b n : Nat) : Nat :=
  (List.range ((n + 31) / 32)).foldl (fun m w =>
    m + b2n ((List.range 32).any (fun i => mapGet false k.bufBad (k.bufAddr r (b + 32 * w + i) / 32))) * 2 ^ w) 0

/-- Put arrived bytes of row r from byte b on into the buffer. -/
def SeCtx.putBuf (k : SeCtx) (r b : Nat) (data : List Byte) (poison : Nat) : SeCtx :=
  let a := r * k.bytes + b
  { k with
    buf := (data.zip (List.range data.length)).foldl (fun m x => mapPut 0 m (a + x.2) x.1) k.buf,
    bufBad := (List.range (data.length / 32)).foldl (fun m w => mapPut false m (a / 32 + w) (bit poison w)) k.bufBad }

/-! ### Local sides (R262, R265, R270) -/

/-- Read n bytes of the tile at a local address of a kind. -/
def State.seRead (s : State) (t kind a n : Nat) : SpadRead × State :=
  if kind = 0 then s.spadRead t (spadRange a n)
  else
    let es := (List.range (n / 4)).map (fun i => (a + i) % 262144)
    let bad := (s.tile t).gabUncorr es
    let (l, s) := s.gabRead t es
    ({ data := gabBytes l, parity := none, uncorr := bad.map (4 * ·) }, s)

/-- Count poisoned words written, with event 0x95 (R270, R298). -/
def State.sePoison (s : State) (t c entry a words : Nat) : State :=
  if words = 0 then s else (s.cnt (aCntSePoison t) words).post (rimTile t (7 + c)) 0x95 entry a

/-- How many of the low n bits are set. -/
def popCount (v n : Nat) : Nat := countIdx (bit v ·) n

/-- Write bytes into the tile with poison per 32 B word: inverted parity or uncorrectable check bytes (R270). -/
def State.seWrite (s : State) (t c entry kind a : Nat) (data : List Byte) (poison : Nat) : State :=
  let bad := (List.range data.length).filter (fun i => bit poison (i / 32))
  let s :=
    if kind = 0 then
      (s.spadWrite t (spadRange a data.length) data).onTile t (·.markBad (bad.map (fun i => (a + i) % 2 ^ 21)))
    else
      let es := (List.range (data.length / 4)).map (fun i => (a + i) % 262144)
      (s.gabStore t (es.zip (gabOfBytes data))).onTile t (fun x =>
        { x with gabBad := bad.foldl (fun m i => mapPut false m ((a + i / 4) % 262144 / 8) true) x.gabBad })
  s.sePoison t c entry a (popCount poison ((data.length + 31) / 32))

/-- Place in a row's bytes of a local address of a kind: GAB addresses count entries. -/
def kindStep (kind a bytes : Nat) : Nat := if kind = 1 then a + bytes / 4 else a + bytes

/-- Bytes before the word that holds the failing address, counted from local address a of a kind (R147). -/
def bytesBefore (kind a bad : Nat) : Nat :=
  if kind = 0 then ((bad / 32 * 32) + 2 ^ 21 - a) % 2 ^ 21 else ((bad / 32 * 32) + 2 ^ 20 - 4 * a) % 2 ^ 20

/-- A local read met a parity event or an uncorrectable word: the error is recorded, the command issues nothing more
(R147). -/
def State.seReadError (s : State) (t c : Nat) (k : SeCtx) (r : SpadRead) : State :=
  match r.uncorr, r.parity with
  | some x, _ =>
    ((s.spadErr t 2 (seSkind k.pay == 1) k.entry x).contained t 0x04 k.entry).setCtx t c { k with err := some (0, 0) }
  | none, some x =>
    ((s.spadErr t 1 false k.entry x).parityDue t k.entry x).setCtx t c
      { k with parity := some x }
  | none, none => s

/-- Is the read clean? -/
def SpadRead.ok (r : SpadRead) : Bool := r.uncorr.isNone && r.parity.isNone

/-- Read the source rows of a unit whose source is local into the buffer; none where a read fails. -/
def State.loadRows (s : State) (t c : Nat) (k : SeCtx) : List Nat → SeCtx × Option SpadRead × State
  | [] => (k, none, s)
  | r :: rest =>
    let (d, s) := s.seRead t (seSkind k.pay) (k.srcAddr (k.stepOf r)) k.bytes
    if d.ok then loadRows s t c (k.putBuf r 0 d.data 0) rest else (k, some d, s)

/-- Write the rows of a unit whose destination is local from the buffer. -/
def State.storeRows (s : State) (t c : Nat) (k : SeCtx) : State :=
  k.rowList.foldl (fun s r =>
    s.seWrite t c k.entry (seDkind k.pay) (k.dstAddr (k.stepOf r)) (k.outBytes r 0 k.bytes) (k.outPoison r 0 k.bytes)) s

/-- Move the units of a COPY with both sides local, until one meets a read error (R228, R262). -/
def State.localCopy (t c : Nat) : Nat → State → State
  | 0, s => s
  | n + 1, s =>
    let k := (s.tile t).ctx c
    match s.loadRows t c k k.rowList with
    | (k', none, s) =>
      let s := s.storeRows t c k'
      localCopy t c n (s.setCtx t c { k with unit := k.unit + 1, buf := [], bufBad := [] })
    | (k', some r, s) =>
      -- the words before the failing one are written, unless the block is transposed
      let s := match r.uncorr, r.parity with
        | none, some x =>
          if seTrn k.pay then s
          else
            let n := bytesBefore (seSkind k.pay) (k.srcAddr k.unit) x
            if n = 0 then s else s.seWrite t c k.entry (seDkind k.pay) (k'.dstAddr k.unit) (r.data.take n) 0
        | _, _ => s
      s.seReadError t c k r

/-! ### COPY (R217, R218, R227, R228, R236, R271) -/

/-- The operand whose check fails at commit; the transpose checks name operand 0. -/
def copyFault (p : Nat) (hs : List OpHandle) (sp dp : List Level) (sb db : Nat) : Option Nat :=
  let unit (kind : Nat) : Nat := if kind = 1 then 8 else 32
  if !patAligned (unit (seSkind p)) sp sb then some 0
  else if seSkind p = 0 && !extentOk hs 0 sp sb (seBytes p) then some 0
  else if !patAligned (unit (seDkind p)) dp db then some 1
  else if seDkind p = 0 && !extentOk hs 1 dp db (seBytes p) then some 1
  else if (sp ++ dp).any (fun l => l.count == 0) then none
  else if patSteps sp ≠ patSteps dp then some 1
  else if seTrn p then
    let e := transposeRows p
    if e < 4 ∨ 2048 < e * e * seEsize p ∨ patSteps sp % e ≠ 0 then some 0 else none
  else none

/-- Base of operand k of a COPY in its kind's address width (R227, R232). -/
def copyBase (hs : List OpHandle) (kind k field : Nat) : Nat :=
  if kind = 0 then operandBase hs k (field % 2 ^ 21) else if kind = 1 then field % 2 ^ 18 else field

/-- Put a committed COPY on its context. -/
def State.beginCopy (s : State) (t : Nat) (c : Cmd) (hs : List OpHandle) (sp dp : List Level) (sb db : Nat) : State :=
  let p := c.payload
  let n := seCtxNo p
  let s := s.wrN (aSeCtxStatus t n) 0
  let k : SeCtx := { state := .running, cmd := some c, handles := hs, srcPat := sp, dstPat := dp, srcBase := sb,
                     dstBase := db }
  match s.zeroSlot t (cmdPatterns 5 p) with
  | some z => (s.zeroEvent t c (some z)).setCtx t n { k with zero := some z }
  | none =>
    let k := { k with units := patSteps sp / k.rows }
    let s := s.setCtx t n k
    if farKind (seSkind p) || farKind (seDkind p) then s else State.localCopy t n k.units s

/-- COPY: commit on its context. -/
def State.doCopy (s : State) (t : Nat) : State :=
  match (s.tile t).startedHead 5 (fun p => seSop p == 0) with
  | none => s
  | some c0 =>
    let x := s.tile t
    if x.seAux.isSome ∨ (x.ctx (seCtxNo c0.payload)).cmd.isSome then s
    else if x.patternBad 5 c0.payload ∧ s.waitCause t 5 c0 = 0 then s.badPattern t c0
    else
      match s.tryCommit t 5 (fun p => seSop p == 0) with
      | (none, s) => s
      | (some c, s) =>
        let p := c.payload
        let (hs, s) := s.commit t 5 c
        let sp := s.pattern t (sePat0 p)
        let dp := s.pattern t (sePat1 p)
        let sb := copyBase hs (seSkind p) 0 (seBase0 p)
        let db := copyBase hs (seDkind p) 1 (seBase1 p)
        match copyFault p hs sp dp sb db with
        | some k => s.cmdFault t c hs k
        | none => s.beginCopy t c hs sp dp sb db

/-- COPY. -/
def execCopy (t : TileId) (s : State) : Host.Outcome State Fault Refusal := .next (s.clocked (·.doCopy t.val))

/-! ### PLOAD and QPUSH (R147, R229–R231) -/

/-- Copy pattern slots in order: 0 when all are copied, 1 at a parity event, 2 at an uncorrectable word, 3 at a slot
that R229 rejects, with the failing address. -/
def State.copySlots (t : Nat) : List (Nat × Nat) → State → Nat × Nat × State
  | [], s => (0, 0, s)
  | (slot, a) :: rest, s =>
    let (r, s) := s.spadRead t (spadRange a 64)
    match r.uncorr, r.parity with
    | some x, _ => (2, x, s)
    | none, some x => (1, x, s)
    | none, none =>
      let ws := (List.range 8).map (fun w => leVal ((r.data.drop (8 * w)).take 8))
      if (ws.take 6).any (fun w => decide (2 ^ 20 < bits w 20 0)) ∨ nth ws 6 ≠ 0 ∨ nth ws 7 ≠ 0 then (3, 0, s)
      else copySlots t rest (((List.range 6).foldl (fun s w => s.wrN (aTilePat t slot w) (nth ws w)) s).onTile t
        (fun x => { x with patBad := mapPut false (mapPut false x.patBad (2 * slot) false) (2 * slot + 1) false }))

/-- PLOAD. -/
def State.doPload (s : State) (t : Nat) : State :=
  match (s.tile t).startedHead 5 (fun p => seSop p == 1) with
  | none => s
  | some _ =>
    if (s.tile t).seAux.isSome then s
    else
      match s.tryCommit t 5 (fun p => seSop p == 1) with
      | (none, s) => s
      | (some c, s) =>
        let p := c.payload
        let (hs, s) := s.commit t 5 c
        if auxBase p % 32 ≠ 0 then s.cmdFault t c hs 0
        else
          let slots := (List.range (ploadCount p)).map (fun i => (ploadSlot p + i, auxBase p + 64 * i))
          match State.copySlots t slots s with
          | (0, _, s) => s.onTile t (fun x => { x with seAux := some (c, false) })
          | (1, x, s) => ((s.spadErr t 1 false c.entry x).parityDue t c.entry x).onTile t
              (fun y => { y with seAux := some (c, true) })
          | (2, x, s) => ((s.spadErr t 2 false c.entry x).endStopped t hs).contained t 0x04 c.entry
          | (_, _, s) => s.cmdFault t c hs 0

/-- PLOAD. -/
def execPload (t : TileId) (s : State) : Host.Outcome State Fault Refusal := .next (s.clocked (·.doPload t.val))

/-- QPUSH: the handles read, pushed with their stored bits; none where the read fails. -/
def State.doQpush (s : State) (t : Nat) : State :=
  match (s.tile t).startedHead 5 (fun p => seSop p == 2) with
  | none => s
  | some _ =>
    if (s.tile t).seAux.isSome then s
    else
      match s.tryCommit t 5 (fun p => seSop p == 2) with
      | (none, s) => s
      | (some c, s) =>
        let p := c.payload
        let (hs, s) := s.commit t 5 c
        if auxBase p % 32 ≠ 0 then s.cmdFault t c hs 0
        else
          let (r, s) := s.spadRead t (spadRange (auxBase p) (8 * qpushN p))
          match r.uncorr, r.parity with
          | some x, _ => ((s.spadErr t 2 false c.entry x).endStopped t hs).contained t 0x04 c.entry
          | none, some x => ((s.spadErr t 1 false c.entry x).parityDue t c.entry x).onTile t
              (fun y => { y with seAux := some (c, true) })
          | none, none =>
            let s := (List.range (qpushN p)).foldl (fun s i =>
              s.wqPush t (qpushQ p) (leVal ((r.data.drop (8 * i)).take 8))) s
            s.onTile t (fun x => { x with seAux := some (c, false) })

/-- QPUSH. -/
def execQpush (t : TileId) (s : State) : Host.Outcome State Fault Refusal := .next (s.clocked (·.doQpush t.val))

/-! ### Translation (R273–R276) -/

/-- The cached page of a partition address. -/
def Tile.xlFind (x : Tile) (p va : Nat) : Option XlEntry :=
  x.xl.find? (fun e => decide (e.part = p) && decide (e.page = if e.big then va / 2 ^ 30 else va / 2 ^ 21))

/-- Put a page at the front of the cache of 32, least recently used last (R275). -/
def Tile.xlUse (x : Tile) (e : XlEntry) : Tile :=
  { x with xl := (e :: x.xl.filter (fun y => !(decide (y.part = e.part) && decide (y.page = e.page) && (y.big == e.big)))).take 32 }

/-- The page that a tile's cache holds for a partition address; with no table none is used (R275, R295). -/
def State.xlHit (s : State) (t va : Nat) : Option XlEntry :=
  if bit (s.rdN (aSeXlateBase (s.tilePartD t))) 0 then (s.tile t).xlFind (s.tilePartD t) va else none

/-- The outcome of a walk for tile t: the page, which enters its cache, or the fault's cause (R275). -/
def State.intoCache (t va : Nat) : Walk × State → (Nat ⊕ XlEntry) × State
  | (.fault c, s) => (.inl c, s)
  | (.outside, s) => (.inl 3, s)
  | (.page big dev sp base wr, s) =>
    let e : XlEntry :=
      { part := s.tilePartD t, page := if big then va / 2 ^ 30 else va / 2 ^ 21, big, dev, space := sp, base, wr }
    (.inr e, s.onTile t (·.xlUse e))

/-- Walk and cache (R275). -/
def State.walkInto (s : State) (t va : Nat) : (Nat ⊕ XlEntry) × State := State.intoCache t va (s.walk (s.tilePartD t) va)

/-- A context meets a stream fault: it issues nothing further and drains; a later fault only lowers the step (R277). -/
def SeCtx.streamFault (k : SeCtx) (step cause addr : Nat) : SeCtx :=
  match k.fault with
  | none => { k with state := .draining, fault := some (step, cause, addr), walk := none }
  | some (n, c, a) => { k with fault := some (min n step, c, a) }

/-! ### Far requests (R263–R269, R289) -/

/-- Is a request one of context c of tile t? -/
def Req.ofCtx (r : Req) (t c : Nat) : Bool := r.origin == .ctx t c && !r.prefetch

/-- Far-request entries of tile t in use (R264, R281). -/
def State.farUsed (s : State) (t : Nat) : Nat :=
  (s.mem.reqs.filter (fun r => !r.prefetch && (match r.origin, r.stage with
    | _, .capWait _ _ => false
    | .ctx a _, _ => a == t
    | _, _ => false))).length

/-- Outstanding requests of a context. -/
def State.outs (s : State) (t c : Nat) : List Req := s.mem.reqs.filter (·.ofCtx t c)

/-- The requests of a context that wait after a CAP_WAIT (R281). -/
def State.capWaits (s : State) (t c : Nat) : List Req :=
  (s.outs t c).filter (fun r => match r.stage with | .capWait _ _ => true | _ => false)

/-- Can context c issue: running, with nothing that stops its requests? -/
def SeCtx.issuing (k : SeCtx) : Bool :=
  k.state == .running && k.err.isNone && k.parity.isNone && k.fault.isNone && k.walk.isNone

/-- Has context c a request ready, for the turn of R264? -/
def State.seReady (s : State) (t c : Nat) : Bool :=
  let k := (s.tile t).ctx c
  k.issuing &&
    (if (s.capWaits t c).isEmpty then k.nextReq.isSome
     else (s.capWaits t c).any (fun r => r.stage == .capWait true true || r.stage == .capWait false true))

/-- Is it the turn of context c: no ready context lies between the last that issued and c (R264)? -/
def State.seTurn (s : State) (t c : Nat) : Bool :=
  let d := (c + 7 - (s.tile t).lastCtx) % 8
  (List.range d).all (fun i => !s.seReady t (((s.tile t).lastCtx + 1 + i) % 8))

/-- Offset of a request after remapping. -/
def State.reqOff (s : State) (r : Req) : Nat := s.remap r.off
/-- Agent of a request. -/
def State.reqAgent (s : State) (r : Req) : Nat := chanOf (s.reqOff r) / 4

/-- The source or destination that R31 orders: a tile, or the router core. -/
def Origin.source : Origin → Nat
  | .ctx t _ => t
  | .fabric _ => 1024

/-- Who answers a request: the tile of a window, an agent, or the router core for another device (R31). -/
def State.responder (s : State) (r : Req) : Nat :=
  if r.dev ≠ s.devId then 1024 else if r.space = 0 then 1025 + s.reqAgent r else bits r.off 30 21

/-- Is an answer the first on its way from its responder to its tile (R31)? -/
def State.firstAnswer (s : State) (r : Req) : Bool :=
  match s.mem.reqs.find? (fun q => q.stage == .answered && q.origin.source == r.origin.source
      && s.responder q == s.responder r) with
  | some q => q.id == r.id
  | none => false

/-- Is a request the first of its source on its way to its window tile (R31)? -/
def State.firstToWindow (s : State) (r : Req) : Bool :=
  match s.mem.reqs.find? (fun q => q.stage == .window && q.origin.source == r.origin.source
      && bits q.off 30 21 == bits r.off 30 21) with
  | some q => q.id == r.id
  | none => false

/-- Where a request for the own device goes: its agent's lane, a window, or nowhere (status 0x22) (R273, R380). -/
def State.localStage (s : State) (r : Req) : Req :=
  if r.space = 0 then
    if s.ddrBytes < r.off + r.len then { r with stage := .answered, status := 0x22 } else { r with stage := .lane }
  else if r.off / 2 ^ 31 ≠ 0 ∨ (r.space = 3 ∧ bit r.off 20) then { r with stage := .answered, status := 0x22 }
  else { r with stage := .window }

/-- Where a request of a tile goes: to its place in the own device, or to another device (R273, R380–R382). -/
def State.sendReq (s : State) (t : Nat) (r : Req) : State :=
  let put (r : Req) (s : State) : State := { s with mem := { s.mem with reqs := s.mem.reqs ++ [r] } }
  if r.dev ≠ s.devId then
    let s := put { r with stage := .remote } s
    s.fabSend { id := r.id, asker := .ctx t (match r.origin with | .ctx _ c => c | _ => 0) r.step, hub := false, unit := t,
                dev := r.dev, ptype := if r.write then 2 else 1,
                addr := r.dev * 2 ^ 48 + r.space * 2 ^ 45 + r.off, operand := r.len,
                data := r.data, poison := r.poison, cls := r.cls, reuse := r.reuse }
  else put (s.localStage r) s

/-- The page of a prefetch: from the cache, which counts as a use, or by a walk whose table reads have their slots; a fault
drops it silently (R275, R289). -/
def State.prefetchPage (s : State) (t va : Nat) : Option XlEntry × State :=
  match s.xlHit t va with
  | some e => (some e, s.onTile t (·.xlUse e))
  | none =>
    if !s.walkFree (s.tilePartD t) va then (none, s)
    else match State.intoCache t va (s.walkQuiet (s.tilePartD t) va) with
      | (.inr e, s) => (some e, s)
      | (.inl _, s) => (none, s)

/-- One prefetch, of the 256 B block that starts at partition address va, where the page maps the own device's space 0
(R289, R290). -/
def State.prefetchOne (s : State) (t c : Nat) (p va : Nat) : State :=
  match s.prefetchPage t va with
  | (none, s) => s
  | (some e, s) =>
    let off := pageAddr e.big e.base va
    if e.dev = s.devId ∧ e.space = 0 ∧ s.pageAllowed (s.tilePartD t) e.dev 0 off ∧ off + 256 ≤ s.ddrBytes then
      let (id, s) := s.newId
      s.sendReq t { id, origin := .ctx t c, step := 0, pos := 0, va, write := false, prefetch := true, dev := e.dev,
                    space := 0, off, len := 256, data := [], poison := 0, cls := seClass p, reuse := seReuse p,
                    part := s.tilePartD t, lane := t % 16, stage := .lane, bank := none, status := 0, win := none }
    else s

/-- First addresses of the 256 B blocks of the source ranges of some steps, each once. -/
def SeCtx.blocks (k : SeCtx) (steps : List Nat) : List Nat :=
  (steps.flatMap (fun m => (linePieces (k.bytes / 256 + 2) (k.srcAddr m) k.bytes).map (fun x => x.1 / 256 * 256))).eraseDups

/-- Prefetch the blocks of the steps that the issue of step n brings within depth; a block of a step prefetched before and
still ahead is not asked for again (R289; DESIGN CHOICE, log entry 80). -/
def State.prefetchFrom (s : State) (t c n : Nat) : State :=
  let k := (s.tile t).ctx c
  let r := s.rdN (aSePfCtrl t)
  if bit r 0 ∧ seSkind k.pay = 2 ∧ (seClass k.pay = 0 ∨ seClass k.pay = 2) then
    let lo := max (n + 1) k.prefetched
    let hi := min (n + 1 + bits r 7 4) (k.units * k.rows)
    let old := k.blocks ((List.range (lo - (n + 1))).map (n + 1 + ·))
    let new := (k.blocks ((List.range (hi - lo)).map (lo + ·))).filter (fun a => !old.contains a)
    let s := new.foldl (fun s va => s.prefetchOne t c k.pay va) s
    s.setCtx t c { (s.tile t).ctx c with prefetched := max hi k.prefetched }
  else s

/-- Issue the next request of context c, translated to (dev, space, offset): a write reads its local source now; the
context moves on (R263–R265, R297). -/
def State.issueReq (s : State) (t c : Nat) (w : Bool) (row a len dev sp off : Nat) : State :=
  let k := (s.tile t).ctx c
  let n := k.stepOf row
  let first := if w then k.dstAddr n else k.srcAddr n
  let s := s.prefetchFrom t c n
  let k := (s.tile t).ctx c
  -- source data of a write
  let loadAll := w && !farKind (seSkind k.pay) && seTrn k.pay && k.sub == 0
  let (k, bad, s) := if loadAll then s.loadRows t c k (List.range k.rows) else (k, none, s)
  let src := kindStep (seSkind k.pay) (k.srcAddr n) (a - first)
  let (data, poison, bad, s) : List Byte × Nat × Option SpadRead × State :=
    if !w then ([], 0, bad, s)
    else if farKind (seSkind k.pay) || seTrn k.pay then (k.outBytes row (a - first) len, k.outPoison row (a - first) len, bad, s)
    else
      let (r, s) := s.seRead t (seSkind k.pay) src len
      (r.data, 0, if r.ok then none else some r, s)
  let keep := match bad with
    | none => len
    | some r => match r.uncorr, r.parity with
      | none, some x => if seTrn k.pay then 0 else bytesBefore (seSkind k.pay) src x
      | _, _ => 0
  let s := s.setCtx t c { k with sub := k.sub + 1 }.advance
  let s :=
    if keep = 0 then s
    else
      let (id, s) := s.newId
      let s := (s.onTile t (fun x => { x with lastCtx := c })).cnt (if w then aCntSeWrBytes t else aCntSeRdBytes t) keep
      let s := s.sePoison t c k.entry a (popCount poison ((keep + 31) / 32))
      s.sendReq t { id, origin := .ctx t c, step := n, pos := a - first, va := a, write := w, prefetch := false, dev,
                    space := sp, off, len := keep, data := data.take keep, poison, cls := seClass k.pay,
                    reuse := seReuse k.pay, part := s.tilePartD t, lane := t % 16, stage := .lane, bank := none,
                    status := 0, win := none }
  match bad with
  | none => s
  | some r => s.seReadError t c ((s.tile t).ctx c) r

/-- FAR_REQUEST_ISSUE (R263, R264, R273–R277, R281, R282). -/
def State.doFarIssue (s : State) (t c : Nat) : State :=
  let k := (s.tile t).ctx c
  if k.state = .running ∧ k.walk.isSome then s.stall t 5 0
  else if !k.issuing then s
  else
    let waits := s.capWaits t c
    let again := waits.find? (fun r => r.stage == .capWait true true || r.stage == .capWait false true)
    if !waits.isEmpty ∧ again.isNone then s.cnt (aCntSeCapWait t)
    else if !s.seReady t c ∨ !s.seTurn t c then s
    else if 64 ≤ s.farUsed t then (s.cnt (aCntSeFarWait t)).stall t 5 0
    else match again with
    | some r => (s.requeue r.id (fun r => { r with stage := .lane })).onTile t (fun x => { x with lastCtx := c })
    | none =>
      match k.nextReq with
      | none => s
      | some (w, row, a, len) =>
        let n := k.stepOf row
        let kind := if w then seDkind k.pay else seSkind k.pay
        if kind = 3 then
          let sp := bits a 47 45
          let dev := if seDevreg k.pay = 0 then s.devId else (k.cmd.map (·.dev)).getD 0
          if sp = 1 ∨ sp = 3 then s.issueReq t c w row a len dev sp (bits a 44 0)
          else s.setCtx t c (k.streamFault n 3 (dev * 2 ^ 48 + a))
        else
          match s.xlHit t a with
          | none => s.setCtx t c { k with walk := some a }
          | some e =>
            let s := s.onTile t (·.xlUse e)
            let off := pageAddr e.big e.base a
            if w ∧ !e.wr then s.setCtx t c (k.streamFault n 2 a)
            else if !s.pageAllowed (s.tilePartD t) e.dev e.space off then
              (s.postMp 0xE5 (s.tilePartD t) a).setCtx t c (k.streamFault n 3 a)
            else s.issueReq t c w row a len e.dev e.space off

/-- FAR_REQUEST_ISSUE. -/
def execFarRequestIssue (t : TileId) (c : Fin 8) (s : State) : Host.Outcome State Fault Refusal :=
  .next (s.clocked (·.doFarIssue t.val c.val))

/-- TRANSLATION_WALK_COMPLETE: the page enters the cache, or the context meets the fault; `uncorrectable` tells a table
read that fails (R274, R275, R277). A walk whose reads have no slot yet goes on waiting (R280, R281). -/
def State.doWalk (s : State) (t c : Nat) (uncorrectable : Bool) : State :=
  let k := (s.tile t).ctx c
  match k.walk with
  | none => s
  | some va =>
    let k := { k with walk := none }
    let step := match k.nextReq with | some (_, row, _) => k.stepOf row | none => k.openStep
    if !s.walkFree (s.tilePartD t) va then s.turnedAway (s.walkAddr1 (s.tilePartD t) va)
    else if uncorrectable then s.setCtx t c (k.streamFault step 5 va)
    else match s.walkInto t va with
      | (.inr _, s) => s.setCtx t c k
      | (.inl cause, s) => s.setCtx t c (k.streamFault step cause va)

/-- TRANSLATION_WALK_COMPLETE. -/
def execTranslationWalkComplete (t : TileId) (c : Fin 8) (uncorrectable : Bool) (s : State) :
    Host.Outcome State Fault Refusal :=
  .next (s.clocked (·.doWalk t.val c.val uncorrectable))

/-- SE_XLATE_INV: invalidation of one partition or of all starts (R276, R295). -/
def State.xlateInv (s : State) (part : Nat) (all : Bool) : State :=
  let s := { s with mem := { s.mem with xlInv := s.mem.xlInv ||| (if all then 0xFFFF else 2 ^ part) } }
  s.setF aSeXlateInv 31 31 1

/-- SE_XLATE_INV. -/
def execSeXlateInv (part : PartId) (all : Bool) (s : State) : Host.Outcome State Fault Refusal :=
  .next (s.clocked (·.xlateInv part.val all))

/-- XLATE_INV_COMPLETE (R295). -/
def State.xlateInvDone (s : State) : State :=
  if s.getF aSeXlateInv 31 31 = 0 then s
  else
    let m := s.mem.xlInv
    let s := forTiles (s.tiles.map (·.1)) (fun s t =>
      s.onTile t (fun x => { x with xl := x.xl.filter (fun e => !bit m e.part) })) s
    ({ s with mem := { s.mem with xlInv := 0 } }).setF aSeXlateInv 31 31 0

/-- XLATE_INV_COMPLETE. -/
def execXlateInvComplete (s : State) : Host.Outcome State Fault Refusal := .next (s.clocked (·.xlateInvDone))

/-! ### Responses and the ends of a command (R266–R270, R277–R279) -/

/-- Data of a read arrive: a plain copy to the tile writes them at once; otherwise they wait in the buffer (R264, R265,
R271). -/
def State.readArrived (s : State) (t c : Nat) (r : Req) : State :=
  let k := (s.tile t).ctx c
  let here := decide (r.step / k.rows = k.unit ∧ k.unit < k.units)
  if !farKind (seDkind k.pay) && !seTrn k.pay then
    let a := kindStep (seDkind k.pay) (k.dstAddr r.step) r.pos
    let s := s.seWrite t c k.entry (seDkind k.pay) a r.data r.poison
    if here then s.setCtx t c { k with arrived := k.arrived + 1 }.advance else s
  else if !here then s
  else
    let k : SeCtx := { k.putBuf (r.step % k.rows) r.pos r.data r.poison with arrived := k.arrived + 1 }
    let s := if !farKind (seDkind k.pay) && decide (k.reads.length ≤ k.arrived) then s.storeRows t c k else s
    s.setCtx t c k.advance

/-- Error completion begins: no further request; the first error stands (R268). -/
def State.seError (s : State) (t c cause st : Nat) (step addr : Nat) : State :=
  let k := (s.tile t).ctx c
  if k.fault.isSome then s.setCtx t c (k.streamFault step cause addr)
  else if k.err.isSome then s
  else (s.setCtx t c { k with err := some (cause, st) }).setF (aSeCtxStatus t c) 11 4 cause

/-- FAR_RESPONSE: the answer of a request reaches its context, in the order of R31 (R266, R268–R270). A command that an
uncorrectable word or an overrun has stopped makes no further access (R147, R203). -/
def State.doFarResponse (s : State) (t c id : Nat) : State :=
  match s.findReq id with
  | none => s
  | some r =>
    if !r.ofCtx t c ∨ r.stage ≠ .answered ∨ !s.firstAnswer r then s
    else
      let s := s.dropReq id
      let k := (s.tile t).ctx c
      -- a global-kind address takes in the device
      let addr := if (if r.write then seDkind k.pay else seSkind k.pay) = 3 then r.dev * 2 ^ 48 + r.va else r.va
      let wrong := r.write && seWen k.pay && decide (r.space = 1 ∨ r.space = 3) && decide (r.win ≠ some (seWnum k.pay))
      if k.err = some (0, 0) then s
      else if r.status = 0 ∧ wrong then s.seError t c 0x11 (r.win.getD 0) r.step addr
      else if r.status = 0 then (if r.write then s else s.readArrived t c r)
      else if r.status = 0x30 then
        if k.err.isSome then s else s.setCtx t c (k.streamFault r.step 4 addr)
      else if r.status = 0x25 ∨ r.status = 0x26 then s.seError t c 0x12 r.status r.step addr
      else s.seError t c 0x10 r.status r.step addr

/-- FAR_RESPONSE. -/
def execFarResponse (t : TileId) (c : Fin 8) (id : Nat) (s : State) : Host.Outcome State Fault Refusal :=
  .next (s.clocked (·.doFarResponse t.val c.val id))

/-- The requests of a context that wait after a CAP_WAIT are not sent again; reservations held for them pass on. -/
def State.dropCapWaits (s : State) (t c : Nat) : State := (s.capWaits t c).foldl (fun s r => s.cancelReq r.id) s

/-- Stop a partition: every tile of it is asked to stop (R202). -/
def State.stopPart (s : State) (p cause : Nat) : State :=
  forTiles (s.partTiles p) (fun s t => s.askStop t cause) s

/-- CONTEXT_HALT: drained, the context records step, cause and address, posts event 0x90 and a stream fault, on which
the MP stops the partition (R277, R279). -/
def State.doHalt (s : State) (t c : Nat) : State :=
  let k := (s.tile t).ctx c
  match k.state, k.fault with
  | .draining, some (n, cause, addr) =>
    if !((s.outs t c).filter (fun r => match r.stage with | .capWait _ _ => false | _ => true)).isEmpty then s
    else
      let waits := s.capWaits t c
      let n := waits.foldl (fun m r => min m r.step) (min n k.openStep)
      let s := s.dropCapWaits t c
      let s := s.setCtx t c { k with state := .halted, fault := some (n, cause, addr) }
      let s := (s.wrN (aSeCtxStep t c) (n % 2 ^ 48)).wrN (aSeCtxFaddr t c) addr
      let s := (s.setF (aSeCtxStatus t c) 11 4 cause).post (rimTile t (7 + c)) 0x90 k.entry addr
      s.stopPart (s.tilePartD t) 1
  | _, _ => s

/-- CONTEXT_HALT. -/
def execContextHalt (t : TileId) (c : Fin 8) (s : State) : Host.Outcome State Fault Refusal :=
  .next (s.clocked (·.doHalt t.val c.val))

/-- Return a halted context to its saved step, with event 0x91 (R278). -/
def State.resumeCtx (s : State) (t c : Nat) : State :=
  let k := (s.tile t).ctx c
  match k.state, k.fault with
  | .halted, some (n, _, _) =>
    let row0 := n % k.rows
    let keep (m : List Host.Cell) : List Host.Cell := mapDrop (fun a => decide (row0 * k.bytes ≤ a)) m
    let k' := { k with state := .running, fault := none, unit := n / k.rows, row0, sub := 0, arrived := 0,
                       buf := if k.unit = n / k.rows then keep k.buf else [],
                       bufBad := if k.unit = n / k.rows then mapDrop (fun w => decide (row0 * k.bytes ≤ 32 * w)) k.bufBad else [] }
    ((s.setCtx t c k').setF (aSeCtxStatus t c) 11 4 0).post (rimTile t (7 + c)) 0x91 k.entry n
  | _, _ => s

/-- An SE_CTX_CTRL write that does not apply is ignored and logged (R293, R474). -/
def State.ctxIgnored (s : State) (t c v : Nat) : State := s.postMp 0xD6 v (aSeCtxCtrl t c)

/-- SE_CTX_CTRL.resume. -/
def State.ctxResume (s : State) (t c : Nat) (v : Nat := 1) : State :=
  if ((s.tile t).ctx c).state = .halted then s.resumeCtx t c else s.ctxIgnored t c v

/-- SE_CTX_RESUME. -/
def execSeCtxResume (t : TileId) (c : Fin 8) (s : State) : Host.Outcome State Fault Refusal :=
  .next (s.clocked (·.ctxResume t.val c.val))

/-- Free a context; its cause stays readable (R292). -/
def State.freeCtx (s : State) (t c : Nat) : State := s.setCtx t c {}

/-- SE_CTX_CTRL.abort: the command completes with error status, with event 0x92 and a contained fault with cause 0x08
(R279, R298). -/
def State.ctxAbort (s : State) (t c : Nat) (v : Nat := 2) : State :=
  let k := (s.tile t).ctx c
  if k.state = .halted then
    let s := ((s.freeCtx t c).endStopped t k.handles).post (rimTile t (7 + c)) 0x92 k.entry c
    s.containedBy t 0x08 k.entry 2 (s.rdN (aSeCtxFaddr t c))
  else s.ctxIgnored t c v

/-- SE_CTX_ABORT. -/
def execSeCtxAbort (t : TileId) (c : Fin 8) (s : State) : Host.Outcome State Fault Refusal :=
  .next (s.clocked (·.ctxAbort t.val c.val))

/-- Has the context's command done all that R267 and R268 ask before it completes? One that issues nothing more does not
wait for a request that CAP_WAIT turned away. -/
def State.copyDone (s : State) (t c : Nat) : Bool :=
  let k := (s.tile t).ctx c
  k.state == .running && k.cmd.isSome &&
    (if k.err.isSome || k.parity.isSome then (s.outs t c).length == (s.capWaits t c).length
     else (s.outs t c).isEmpty && decide (k.units ≤ k.unit))

/-- Completion of a COPY: plain, with parity status, or with error status and event 0x94 (R147, R267, R268). -/
def State.completeCopy (s : State) (t c : Nat) : State :=
  if !s.copyDone t c then s
  else
    let k := (s.tile t).ctx c
    match k.cmd with
    | none => s
    | some cmd =>
      let s := (s.dropCapWaits t c).freeCtx t c
      match k.err with
      | some (0, _) => s.endStopped t k.handles
      | some (_, st) =>
        ((s.endStopped t k.handles).post (rimTile t (7 + c)) 0x94 k.entry st).containedBy t 0x08 k.entry 2 st
      | none => s.complete t 5 cmd k.handles k.parity.isSome

/-- Completion of a PLOAD or QPUSH, with event 0x84 for a PLOAD (R229, R231). -/
def State.completeAux (s : State) (t : Nat) : State :=
  match (s.tile t).seAux with
  | none => s
  | some (c, parity) =>
    let s := s.onTile t (fun x => { x with seAux := none })
    let s := if seSop c.payload = 1 ∧ !parity then s.post (rimTile t 6) 0x84 c.entry (ploadSlot c.payload) else s
    s.complete t 5 c [] parity

end Sys2Proof.Machine
end

