-- ==== Sys2Proof/Machine/Mem.lean ====
section
/-! DEFINITION. Arbiters, request slots and bank caps, the L2, DDR training, refresh, scrub and retirement
(R249–R258, R280–R288, R325–R337). -/
namespace Sys2Proof.Machine

/-! ### Request slots and bank caps (R280–R283) -/

/-- Does a request meet a CAP_WAIT with the retry flag (R332, R336)? -/
def State.mustRetry (s : State) (r : Req) : Bool := s.offRetry r.off

/-- Is a slot of its bank reserved for the request? -/
def State.reservedFor (s : State) (id : Nat) : Bool := s.mem.waiters.any (fun w => decide (w.id = id) && w.reserved)

/-- Does the router core keep a request that has met a CAP_WAIT (R399)? -/
def State.heldByRouter (s : State) (r : Req) : Bool :=
  r.origin.source == 1024 && (s.mem.waiters.any (fun w => decide (w.id = r.id)) || (mapGet none s.mem.retries r.id).isSome)

/-- Does the router core hold 1,024 requests of ports and take no further one (R399)? -/
def State.routerFull (s : State) (r : Req) : Bool :=
  r.origin.source == 1024 && !s.heldByRouter r && decide (1024 ≤ (s.mem.reqs.filter s.heldByRouter).length)

/-- Is a request the first of its source to its channel in a stage (R31)? Those that the router core does not take yet have
set out for no lane. -/
def State.firstOfPath (s : State) (r : Req) (st : ReqStage) : Bool :=
  match s.mem.reqs.find? (fun q => q.stage == st && q.origin.source == r.origin.source && !s.routerFull q
      && decide (chanOf (s.reqOff q) = chanOf (s.reqOff r))) with
  | some q => q.id == r.id
  | none => false

/-- Is a request at its lane with its bank below its cap, or a slot reserved for it, so that its lane presents (R258)? -/
def State.presents (s : State) (r : Req) : Bool :=
  r.stage == .lane && !s.mustRetry r &&
    (s.reservedFor r.id || decide (s.bankSlots (s.bankKey (s.reqOff r)) < s.bankCap (s.reqAgent r)))

/-- Lanes of agent q that present a slot request: one first of its path, which has come to the lane. -/
def State.liveLanes (s : State) (q : Nat) : List Nat :=
  (List.range 16).filter (fun x => s.mem.reqs.any (fun r =>
    decide (r.lane = x) && decide (s.reqAgent r = q) && s.presents r && s.firstOfPath r .lane))

/-- A request has left lane x of agent q unserved: a lane that presents nothing more leaves no state (R254). -/
def State.laneLeft (s : State) (q x : Nat) : State :=
  if (s.liveLanes q).contains x then s else s.arbWithdraw (33792 + q) x

/-- Waiters that an agent lists. -/
def State.waitersOf (s : State) (q : Nat) : Nat := (s.mem.waiters.filter (fun w => decide (w.bank / 512 = q))).length

/-- Answer CAP_WAIT: counted, and listed with the bank's waiters, or with the retry flag (R281, R282). The router core
stands in for the requester of the fabric, and re-issues a request under the retry flag after 512 NCLK, 256 HCLK (R399). -/
def State.capWait (s : State) (r : Req) (retry : Bool) : State :=
  let q := s.reqAgent r
  let k := s.bankKey (s.reqOff r)
  let listed := s.mem.waiters.any (fun w => decide (w.id = r.id))
  let retry := retry || (!listed && decide (4096 ≤ s.waitersOf q))
  let s := (s.cnt (aCntCapWait q)).onReq r.id (fun r => { r with stage := .capWait retry false })
  let s := if retry && r.origin.source == 1024 then
      { s with mem := { s.mem with retries := mapPut none s.mem.retries r.id (some 256) } }
    else s
  let s := if retry || listed then s
    else { s with mem := { s.mem with waiters := s.mem.waiters ++ [{ id := r.id, bank := k, reserved := false }] } }
  s.laneLeft q r.lane

/-- A request takes a slot of its bank: its waiter record and its retry count end. -/
def State.takeSlot (s : State) (id bank : Nat) : State :=
  let s := { s with mem := { s.mem with waiters := s.mem.waiters.filter (fun w => decide (w.id ≠ id)),
                                        retries := mapPut none s.mem.retries id none } }
  s.onReq id (fun r => { r with stage := .slot, bank := some bank })

/-- The lanes of agent q decide (R251, R254): the winner's request takes its slot; a winner that finds no slot free lapses;
where every live lane sits out the decision passes. A request whose lane does not win waits on. -/
def State.laneGrant (s : State) (r : Req) (q : Nat) : State :=
  let live := s.liveLanes q
  match s.arbWinner (33792 + q) live with
  | none => s.arbBook (33792 + q) live none false
  | some w =>
    if w ≠ r.lane then s
    else if 1024 ≤ s.agentSlots q ∧ !s.reservedFor r.id then s.arbBook (33792 + q) live (some w) false
    else (s.arbServe (33792 + q) live w).takeSlot r.id (s.bankKey (s.reqOff r))

/-- SLOT_GRANT: the lane's request takes a slot, or receives CAP_WAIT; a prefetch is dropped instead (R258, R280–R282,
R289). -/
def State.slotGrant (s : State) (id : Nat) : State :=
  match s.findReq id with
  | none => s
  | some r =>
    if r.stage ≠ .lane ∨ !s.firstOfPath r .lane ∨ s.routerFull r then s
    else
      let q := s.reqAgent r
      if s.presents r ∧ !(r.prefetch && decide (1024 - s.agentSlots q < 64)) then s.laneGrant r q
      else if r.prefetch then (s.dropReq id).laneLeft q r.lane
      else s.capWait r (s.mustRetry r)

/-- SLOT_GRANT. -/
def execSlotGrant (id : Nat) (s : State) : Host.Outcome State Fault Refusal := .next (s.clocked (·.slotGrant id))

/-! ### Arbiter events (R251, R252, R257) -/

/-- Who presents a request at an instance: the memory agents' lanes and the egress of a port hold theirs; at the other
instances any requester may present in a cycle (R257; DESIGN CHOICE, log entry 79). -/
def State.arbLive (s : State) (inst : Nat) : List Nat :=
  if 33800 ≤ inst then s.egressLive (inst - 33800)
  else if 33792 ≤ inst ∧ inst < 33796 then s.liveLanes (inst - 33792)
  else List.range 16

/-- ARBITER_WAIT_LIMIT: the requester has waited wait_limit cycles and is forced at the next decision (R252); one that
presents nothing waits for nothing. -/
def State.arbLimit (s : State) (inst r : Nat) : State :=
  if (s.arbLive inst).contains r then
    let a := s.arb inst
    let q := a.req r
    s.setArb inst (a.put r { q with wait := max q.wait (s.waitLimit inst) })
  else s

/-- ARBITER_WAIT_LIMIT. -/
def execArbiterWaitLimit (inst : Nat) (r : Fin 16) (s : State) : Host.Outcome State Fault Refusal :=
  .next (s.clocked (·.arbLimit inst r.val))

/-- ARBITER_SIT_OUT_END: the requester is eligible again (R251), and a port sends what waits for its egress. -/
def State.sitOutEnd (s : State) (inst r : Nat) : State :=
  let s := s.setArb inst ((s.arb inst).put r { (s.arb inst).req r with out := 0 })
  if 33800 ≤ inst ∧ inst < 33816 then s.pump (inst - 33800) else s

/-- ARBITER_SIT_OUT_END. -/
def execArbiterSitOutEnd (inst : Nat) (r : Fin 16) (s : State) : Host.Outcome State Fault Refusal :=
  .next (s.clocked (·.sitOutEnd inst r.val))

/-- Is the request of a waiter still away, so that its reservation waits for it? -/
def State.waiterAway (s : State) (w : CapWaiter) (told : Bool) : Bool :=
  match s.findReq w.id with
  | some r => (match r.stage with | .capWait _ ready => told || !ready | _ => false)
  | none => false

/-- CAP_WAIT_NOTICE: the oldest waiter of the bank for which a slot is reserved is told; one is reserved first where the bank
has room (R282, R283). -/
def State.capNotice (s : State) (bank : Nat) : State :=
  let s := s.slotFreed bank
  match s.mem.waiters.find? (fun w => decide (w.bank = bank) && w.reserved && s.waiterAway w false) with
  | none => s
  | some w => s.comeAgain w.id

/-- CAP_WAIT_NOTICE. -/
def execCapWaitNotice (bank : Nat) (s : State) : Host.Outcome State Fault Refusal := .next (s.clocked (·.capNotice bank))

/-- Put a waiter behind the next waiter of its bank. -/
def moveBehind (w : CapWaiter) : List CapWaiter → List CapWaiter
  | [] => [w]
  | x :: r => if x.bank = w.bank then x :: w :: r else x :: moveBehind w r

/-- Give up the first reservation of a bank whose request has not come: the next waiter has it, the lapsed one stands
behind. -/
def lapse (bank : Nat) (away : CapWaiter → Bool) : List CapWaiter → List CapWaiter
  | [] => []
  | w :: r =>
    if w.bank = bank ∧ w.reserved ∧ away w then
      let r' := match r.find? (fun x => decide (x.bank = bank) && !x.reserved) with
        | some n => r.map (fun (x : CapWaiter) => if x.id = n.id then { x with reserved := true } else x)
        | none => r
      if r.any (fun x => decide (x.bank = bank)) then moveBehind { w with reserved := false } r'
      else { w with reserved := false } :: r
    else w :: lapse bank away r

/-- CAP_RESERVATION_LAPSE (R282): the hold of the oldest reservation ends; the next waiter is told. -/
def State.capLapse (s : State) (bank : Nat) : State :=
  let before := s.mem.waiters
  let s := { s with mem := { s.mem with waiters := lapse bank (s.waiterAway · true) before } }
  let new := s.mem.waiters.filter (fun w => w.reserved && before.any (fun x => decide (x.id = w.id) && !x.reserved))
  new.foldl (fun s w => s.comeAgain w.id) s

/-- CAP_RESERVATION_LAPSE. -/
def execCapReservationLapse (bank : Nat) (s : State) : Host.Outcome State Fault Refusal :=
  .next (s.clocked (·.capLapse bank))

/-- CAP_RETRY_TIMEOUT: 512 NCLK after a CAP_WAIT with the retry flag, the context may re-issue (R282). -/
def execCapRetryTimeout (t : TileId) (c : Fin 8) (s : State) : Host.Outcome State Fault Refusal :=
  .next (s.clocked (fun s =>
    match (s.capWaits t.val c.val).find? (fun r => r.stage == .capWait true false) with
    | some r => s.comeAgain r.id
    | none => s))

/-- CAP_WAIT_HELD_1024 (R298, event 0x93). -/
def execCapWaitHeld1024 (t : TileId) (c : Fin 8) (s : State) : Host.Outcome State Fault Refusal :=
  .next (s.clocked (fun s =>
    match s.capWaits t.val c.val with
    | r :: _ => s.post (rimTile t.val (7 + c.val)) 0x93 ((s.tile t.val).ctx c.val).entry r.va
    | [] => s))

/-! ### L2 (R284–R288, R296) -/

/-- L2_ACCESS: a request that holds a slot is served by its slice and answered; its slot is released, for the bank's oldest
waiter where there is one (R280, R282, R285–R288, R324). `errs` are the symbol errors of the DDR codewords read, `upset` an uncorrectable error in the line. -/
def State.l2Access (s : State) (id : Nat) (errs : List SymErrs) (upset : Bool) : State :=
  match s.findReq id with
  | none => s
  | some r =>
    if r.stage ≠ .slot ∨ !s.firstOfPath r .slot then s
    else
      let bank := r.bank.getD (s.bankKey (s.reqOff r))
      let (data, poison, _, s) := s.l2Serve (s.reqOff r) r.len r.write r.prefetch r.data r.poison r.cls r.reuse r.part errs upset
      match r.prefetch, r.origin with
      | true, _ => (s.dropReq id).slotFreed bank
      | false, .fabric ref => ((s.dropReq id).slotFreed bank).fabAnswer ref 0 none data poison
      | false, .ctx _ _ => (s.requeue id (fun r => r.answer 0 none data poison)).slotFreed bank

/-- L2_ACCESS. -/
def execL2Access (id : Nat) (errs : List SymErrs) (upset : Bool) (s : State) : Host.Outcome State Fault Refusal :=
  .next (s.clocked (·.l2Access id errs upset))

/-- L2C_PIN_RELEASE: release of the pins of some partitions starts (R288, R296). -/
def State.pinRelease (s : State) (mask : Nat) : State :=
  ({ s with mem := { s.mem with pinRel := s.mem.pinRel ||| mask } }).setF aL2cPinRelease 16 16 1

/-- L2_PIN_RELEASE. -/
def execL2PinRelease (mask : BitVec 16) (s : State) : Host.Outcome State Fault Refusal :=
  .next (s.clocked (·.pinRelease mask.toNat))

/-- Change every L2 line. -/
def State.mapLines (s : State) (f : L2Line → L2Line) : State :=
  { s with mem := { s.mem with l2 := s.mem.l2.map (fun x => (x.1, x.2.map f)) } }

/-- The pins named are cleared and their lines' remaining count is 0; busy clears. A PARTITION_DESTROY that waits for
this is answered (R288, R296, R461). -/
def State.pinReleaseDone (s : State) : State :=
  if s.getF aL2cPinRelease 16 16 = 0 then s
  else
    let m := s.mem.pinRel
    let s := s.mapLines (fun l => match l.pin with
      | some p => if bit m p then { l with pin := none, remaining := 0 } else l
      | none => l)
    let s := ({ s with mem := { s.mem with pinRel := 0 } }).setF aL2cPinRelease 16 16 0
    (List.range 16).foldl (fun s p => if bit m p then s.finish 0x21 p stOk 0 0 else s) s

/-- L2_PIN_RELEASE_COMPLETE. -/
def execL2PinReleaseComplete (s : State) : Host.Outcome State Fault Refusal := .next (s.clocked (·.pinReleaseDone))

/-- Write back every dirty half (R288). -/
def State.l2Flush (s : State) : State :=
  s.mem.l2.foldl (fun s x => match x.2 with
    | none => s
    | some l =>
      let c := x.1 / 65536
      let off := offOf c (256 * (l.tag * 4096 + x.1 % 65536 / 16))
      s.l2WriteBack off (x.1 % 16)) s

/-! ### DDR training and initialisation (R334–R338) -/

/-- DDR_CTRL.train: from untrained to training as DDR_CFG stands now, once the DDR domain is released (R334, R338, R505). -/
def State.ddrTrain (s : State) : State :=
  if s.getF aDdrStatus 1 0 = 0 ∧ 5 ≤ s.pwr.released then
    let s := (s.setF aDdrStatus 1 0 1).setF aDdrStatus 6 6 (s.getF aDdrCfg 0 0)
    { s with mem := { s.mem with fallback := s.getF aDdrCfg 1 1 == 1 } }
  else s

/-- DDR_TRAIN. -/
def execDdrTrain (s : State) : Host.Outcome State Fault Refusal := .next (s.clocked (·.ddrTrain))

/-- DDR_TRAINING_COMPLETE: ready, one more pass at 8,800 MT/s, or failed, which is fatal (R317, R335, R338). `ranks` and
`density` are the population that training found. A training that ends ready has repaired rows that were queued. -/
def State.ddrTrained (s : State) (failMask ranks density : Nat) : State :=
  if s.getF aDdrStatus 1 0 ≠ 1 then s
  else
    let s := s.setF aDdrStatus 31 16 failMask
    if failMask = 0 ∧ (ranks = 1 ∨ ranks = 2) ∧ density < 3 then
      let s := ((s.setF aDdrStatus 1 0 2).setF aDdrStatus 5 4 ranks).setF aDdrStatus 3 2 density
      ((List.range 16).foldl (fun s c => s.wrN (aDdrInitPtr c) 0) (s.setF aDdrStatus 7 7 0)).rowsRepaired
    else if s.mem.fallback ∧ s.getF aDdrStatus 6 6 = 1 then s.setF aDdrStatus 6 6 0
    else (s.setF aDdrStatus 1 0 3).fatal 0x11

/-- DDR_TRAINING_COMPLETE. -/
def execDdrTrainingComplete (failMask : BitVec 16) (ranks density : BitVec 2) (s : State) :
    Host.Outcome State Fault Refusal :=
  .next (s.clocked (·.ddrTrained failMask.toNat ranks.toNat density.toNat))

/-- BACKGROUND_INIT_COMPLETE. -/
def execBackgroundInitComplete (s : State) : Host.Outcome State Fault Refusal := .next (s.clocked (·.initDone))

/-! ### Command parity, refresh, scrub (R325–R327, R330) -/

/-- CAPAR_ALERT: the blocked commands are replayed, counted and recorded; the fifth in a row is fatal (R325). -/
def State.capar (s : State) (c : Nat) : State :=
  let n := mapGet 0 s.mem.caparRun c + 1
  let s := { s with mem := { s.mem with caparRun := mapPut 0 s.mem.caparRun c n } }
  let s := (s.cnt (aCntDdrCapar c)).errRecord 3 false c 0x1F false 0
  if n < 5 then s else s.fatal 0x10

/-- CAPAR_ALERT. -/
def execCaparAlert (c : ChanId) (s : State) : Host.Outcome State Fault Refusal := .next (s.clocked (·.capar c.val))

/-- Channel c accepts a command: a run of command parity errors ends (R325). -/
def State.accepted (s : State) (c : Nat) : State := { s with mem := { s.mem with caparRun := mapPut 0 s.mem.caparRun c 0 } }

/-- A refresh of bank `bank` of channel c is issued where the modules are trained and not in self-refresh; during a freeze the
PHY issues it (R326, R337). -/
def State.refresh (s : State) (c bank : Nat) : State :=
  if s.getF aDdrStatus 1 0 = 2 ∧ !s.mem.selfRefresh then
    let s := s.accepted c
    { s with mem := { s.mem with
      refreshes := mapPut 0 s.mem.refreshes (128 * c + bank) (mapGet 0 s.mem.refreshes (128 * c + bank) + 1) } }
  else s

/-- REFRESH_DUE. -/
def execRefreshDue (c : ChanId) (bank : Fin 128) (s : State) : Host.Outcome State Fault Refusal :=
  .next (s.refresh c.val bank.val)

/-- REFRESH_MANAGEMENT: a bank whose activates have reached the module's threshold has a refresh management command, and
counts anew (R327). -/
def State.rfm (s : State) (k : Nat) : State :=
  if Config.rfmThreshold ≤ mapGet 0 s.mem.activates k then
    let s := s.accepted (k / 128)
    { s with mem := { s.mem with activates := mapPut 0 s.mem.activates k 0 } }
  else s

/-- REFRESH_MANAGEMENT. -/
def execRefreshManagement (c : ChanId) (bank : Fin 128) (s : State) : Host.Outcome State Fault Refusal :=
  .next (s.clocked (·.rfm (128 * c.val + bank.val)))

/-- HCLK of a scrub period: DDR_SCRUB_CTRL.period hours, where 0 acts as 1 (R339). -/
def State.scrubPeriod (s : State) : Nat := max 1 (s.getF aDdrScrubCtrl 15 8) * 3600 * 1200000000

/-- Has channel c fallen 1 second behind the schedule that reads every access of its module once per period (R330)? The
schedule runs evenly from the end of background initialisation (DESIGN CHOICE, log entry 82). -/
def State.scrubLate (s : State) (c : Nat) : Bool :=
  let due := (s.hoop - s.mem.scrubStart - 1200000000) * (s.moduleBytes / 128) / s.scrubPeriod
  decide (mapGet 0 s.mem.scrubDone c < due)

/-- PATROL_SCRUB_READ: the next access of channel c is read, decoded and rewritten; the position moves on. It waits while a
demand request holds a slot of its bank, unless it is late (R322, R330). -/
def State.scrub (s : State) (c : Nat) (errs : List SymErrs) : State :=
  let a := mapGet 0 s.mem.scrubAt c
  let off := offOf c a
  let waiting := s.mem.reqs.any (fun r => (r.stage == .slot) && r.bank == some (s.bankKey off))
  if s.getF aDdrScrubCtrl 0 0 = 0 ∨ s.getF aDdrStatus 7 7 = 0 ∨ s.mem.selfRefresh ∨ (waiting ∧ !s.scrubLate c) then s
  else
    let s := s.ddrRead true off errs
    let next := if a + 128 < s.moduleBytes then a + 128 else 0
    { s with mem := { s.mem with scrubAt := mapPut 0 s.mem.scrubAt c next,
                                 scrubDone := mapPut 0 s.mem.scrubDone c (mapGet 0 s.mem.scrubDone c + 1) } }

/-- PATROL_SCRUB_READ. -/
def execPatrolScrubRead (c : ChanId) (errs : List SymErrs) (s : State) : Host.Outcome State Fault Refusal :=
  .next (s.clocked (·.scrub c.val errs))

/-- MODULE_THERMAL_SENSOR_CHANGE: above 85 °C the refresh interval halves (R326). -/
def execModuleThermalSensorChange (c : ChanId) (hot : Bool) (s : State) : Host.Outcome State Fault Refusal :=
  .next { s with mem := { s.mem with hot := mapPut false s.mem.hot c.val hot } }

/-! ### Retirement (R331, R332, R341) -/

/-- DDR_RETIRE_GO. -/
def execDdrRetireGo (entry : Fin 512) (s : State) : Host.Outcome State Fault Refusal :=
  .next (s.clocked (·.retireGo entry.val))

/-- RETIREMENT_COPY_COMPLETE. -/
def execRetirementCopyComplete (s : State) : Host.Outcome State Fault Refusal := .next (s.clocked (·.retireDone))

end Sys2Proof.Machine
end

