-- ==== Sys2Proof/Machine/Flags.lean ====
section
/-! DEFINITION. The sticky status flags that vector instructions raise (R67). -/
namespace Sys2Proof.Machine

/-- Is a flag among those raised? -/
def flagSet (flags f : Nat) : Bool := flags &&& f ≠ 0

/-- Raise flags in VE_FP_STATUS of tile t; they are sticky (R67). -/
def State.raiseFlags (s : State) (t flags : Nat) : State := s.wrN (aVeFpStatus t) (s.rdN (aVeFpStatus t) ||| flags % 128)

end Sys2Proof.Machine
end

