-- ==== Sys2Proof/Machine/Ve.lean ====
section
/-! DEFINITION. The vector engine: commands, issue, results, and the parts the instruction meanings share (R103–R113,
R128, R132–R135, R224–R226). -/
namespace Sys2Proof.Machine

/-- Does an instruction use operand k in memory; in the GAB? -/
def usesOperand (k w : Nat) : Bool := (wOp w == opLd || wOp w == opSt) && mOperand (bits w 23 0) == k
def usesGab (k w : Nat) : Bool := usesOperand k w && mGab (bits w 23 0)

/-- Does every instruction of the kernel pass the checks of R109 and R116 at commit (R107)? -/
def kernelOk (f : Nat) (ks : List Nat) : Bool := ks.all (fun w => instrOk w && instrOkF f w)

/-- The first operand that fails R218, R225, R232 or R236: a queue field on an operand that an LD or ST names with gab = 1; the
alignment of an operand that some LD or ST names; the extent of an operand that has a handle, of no bytes where no LD or
ST names it. -/
def veOperandFault (p : Nat) (ks : List Nat) (hs : List OpHandle) (pats : List (List Level)) (bases : List Nat) : Option Nat :=
  firstIdx (fun k =>
    let uses := ks.filter (usesOperand k ·)
    let pat := pats.getD k []
    let base := nth bases k
    let size := (uses.map (fun w => accessBytes (bits w 53 50))).foldl max 0
    (veQ p k != 0 && ks.any (usesGab k ·)) || (!uses.isEmpty && !patAligned 32 pat base) || !extentOk hs k pat base size) 4

/-- A run that has issued its last instruction makes room for the next command (R108). -/
def VeState.ended (v : VeState) : VeState :=
  match v.run with
  | some r => if r.issuedAll then { v with run := none, ending := v.ending ++ [r] } else v
  | none => v

/-- VE_RUN (R108, R113, R213–R218, R224, R225). -/
def State.doVeRun (s : State) (t : Nat) : State :=
  match (s.tile t).startedHead 4 (fun p => veVop p == 0) with
  | none => s
  | some c0 =>
    if (s.tile t).ve.issuing.isSome ∨ (s.tile t).ve.kload.isSome then s
    else if (s.tile t).patternBad 4 c0.payload ∧ s.waitCause t 4 c0 = 0 then s.badPattern t c0
    else
      match s.tryCommit t 4 (fun p => veVop p == 0) with
      | (none, s) => s
      | (some c, s) =>
        let p := c.payload
        let ks := (s.tile t).ve.kernel p
        let (hs, s) := s.commit t 4 c
        let pats := (List.range 4).map (fun k => s.pattern t (vePat p k))
        let bases := (List.range 4).map (fun k => operandBase hs k (veBase p k))
        if !kernelOk (veF p) ks then s.cmdFault t c hs 0
        else match veOperandFault p ks hs pats bases with
          | some k => s.cmdFault t c hs k
          | none =>
            let zero := s.zeroSlot t (cmdPatterns 4 p)
            let s := (s.zeroEvent t c zero).post (rimTile t 5) 0x50 c.entry (veKslot p)
            let nest := s.pattern t (veNpat p)
            s.onVe t (fun v => { v.ended with
              run := some {
                cmd := c, handles := hs, zero, nest, pats, bases, group := 0, slot := 0, window := 0,
                iters := if zero.isSome then 0 else patSteps nest, issued := 0, parity := none, stopped := false,
                originDue := veOen p } })

/-- VE_RUN. -/
def execVeRun (t : TileId) (s : State) : Host.Outcome State Fault Refusal := .next (s.clocked (·.doVeRun t.val))

/-- Copy kernel chunks from chunk k on; stops at a mismatched or uncorrectable word or at an instruction that fails
R116. Answers 0 done, 1 parity, 2 uncorrectable, 3 bad instruction, with the address met. -/
def State.copyChunks (t base kslot kn : Nat) : Nat → Nat → State → Nat × Nat × State
  | 0, _, s => (0, 0, s)
  | n + 1, k, s =>
    let as := quadRange (base + 32 * k) 128
    let (r, s) := s.spadRead t as
    match r.uncorr, r.parity with
    | some x, _ => (2, x, s)
    | none, some x => (1, x, s)
    | none, none =>
      let ws := (unpackBits 64 16 (leVal r.data)).take (kn - 16 * k)
      let good := ws.takeWhile instrOk
      let s := s.onVe t (fun v => { v with kmem := (good.zip (List.range good.length)).foldl (fun m p =>
        mapPut 0 m (kslot + 16 * k + p.2) (BitVec.ofNat 64 p.1)) v.kmem })
      if good.length < ws.length then (3, 0, s) else copyChunks t base kslot kn n (k + 1) s

/-- KLOAD (R107, R213–R218, R226). -/
def State.doKload (s : State) (t : Nat) : State :=
  match (s.tile t).startedHead 4 (fun p => veVop p == 1) with
  | none => s
  | some _ =>
    if (s.tile t).ve.kload.isSome ∨ (s.tile t).ve.issuing.isSome then s
    else
      match s.tryCommit t 4 (fun p => veVop p == 1) with
      | (none, s) => s
      | (some c, s) =>
        let p := c.payload
        let (hs, s) := s.commit t 4 c
        let b := kloadBase p
        let n := (kloadKn p + 15) / 16
        if bits b 18 17 ≠ 0 ∨ bits b 4 0 ≠ 0 ∨ 4095 < bits b 16 5 + n - 1 then s.cmdFault t c hs 0
        else
          let s := (s.setF (aVeStatus t) 1 1 1).onVe t (fun v => { v with kmemOld := v.kmem })
          match State.copyChunks t b (kloadKslot p) (kloadKn p) n 0 s with
          | (2, x, s) =>
            (((s.setF (aVeStatus t) 1 1 0).spadErr t 2 false c.entry x).endStopped t hs).contained t 0x04 c.entry
          | (3, _, s) => (s.setF (aVeStatus t) 1 1 0).cmdFault t c hs 0
          | (1, x, s) => s.onVe t (fun v => { v with kload := some (c, some x), kloadPosted := false })
          | (_, _, s) => s.onVe t (fun v => { v with kload := some (c, none), kloadPosted := false })

/-- KLOAD. -/
def execKload (t : TileId) (s : State) : Host.Outcome State Fault Refusal := .next (s.clocked (·.doKload t.val))

/-! ### Issue -/

/-- The instruction about to issue, with what its position gives. -/
structure VeCtx where
  run : VeRun
  f : Nat
  word : Nat
  iter : Nat
  win : Nat
  idx0 : Nat
  idx1 : Nat
  last0 : Bool
  deriving DecidableEq, Repr

/-- The instruction at the run's position. -/
def Tile.veNext (x : Tile) : Option VeCtx :=
  match x.ve.run with
  | none => none
  | some r =>
    if r.issuedAll || r.parity.isSome then none
    else
      let p := r.cmd.payload
      let f := veF p
      let n := r.group * f + r.window
      some { run := r, f, word := x.ve.word (veKslot p + r.slot), iter := n, win := r.window,
             idx0 := patIndex r.nest n 0, idx1 := patIndex r.nest n 1,
             last0 := patIndex r.nest n 0 == (match r.nest with | l :: _ => l.count | [] => 1) - 1 }

/-- Does the instruction execute in this iteration (R110)? -/
def VeCtx.when_ (c : VeCtx) : Bool :=
  let ph := bits c.word 57 56
  let pos := bits c.word 55 54
  (ph == 0 || (ph == 1 && c.idx1 == 0) || (ph == 2 && c.idx1 != 0)) &&
  (pos == 0 || (pos == 1 && c.idx0 == 0) || (pos == 2 && c.last0))

/-- Key of lane mask n (1–3) of the instruction's window (R109). -/
def VeCtx.maskKey (c : VeCtx) (n : Nat) : Nat := 4 * c.win + n

/-- LM0 over L lanes: the tail limits it in final level-0 iterations (R105, R225). -/
def VeCtx.lm0 (c : VeCtx) (l : Nat) : Nat :=
  let tail := veTail c.run.cmd.payload
  if c.last0 && decide (0 < tail ∧ tail < l) then 2 ^ tail - 1 else 2 ^ l - 1

/-- A register as the VE holds it. -/
def VeState.reg (v : VeState) (r : Nat) : Nat := (mapGet 0 v.regs r).toNat
def VeState.mask (v : VeState) (k : Nat) : Nat := (mapGet 0 v.masks k).toNat

/-- Value of the register that number r names. -/
def Tile.vreg (x : Tile) (c : VeCtx) (r : Nat) : Nat := x.ve.reg (physReg c.f c.win r)

/-- Value of lane mask n of the window, 1–3. -/
def Tile.lmask (x : Tile) (c : VeCtx) (n : Nat) : Nat := x.ve.mask (c.maskKey n)

/-- Active lanes of an instruction over L lanes: LM0 and the mask lm names (R105). -/
def Tile.activeMask (x : Tile) (c : VeCtx) (l : Nat) : Nat :=
  let lm := bits c.word 25 24
  if lm = 0 then c.lm0 l else c.lm0 l &&& x.lmask c lm

/-- Move the run to its next issue position: window, then slot, then group (R108). -/
def VeRun.advance (r : VeRun) : VeRun :=
  let p := r.cmd.payload
  let ws := min (veF p) (r.iters - r.group * veF p)
  if r.window + 1 < ws then { r with window := r.window + 1 }
  else if r.slot + 1 < veKn p then { r with window := 0, slot := r.slot + 1 }
  else { r with window := 0, slot := 0, group := r.group + 1 }

/-- The first instruction of an iteration issues: one more iteration is issued (R135). -/
def VeRun.begun (r : VeRun) : VeRun := if r.slot = 0 then { r with issued := r.issued + 1 } else r

/-- Update the run. -/
def State.onRun (s : State) (t : Nat) (f : VeRun → VeRun) : State := s.onVe t (fun v => { v with run := v.run.map f })

/-- A pending write holds the instruction: a source has not landed, or a destination has a write in flight (R111).
RSTA instructions do not hold on one another's state register (R122). -/
def Tile.veHeld (x : Tile) (c : VeCtx) : Bool :=
  let w := c.word
  let rsta := wOp w == opRsta
  let srcs := (srcRegs w).map (physReg c.f c.win ·)
  let dsts := (dstRegs w).map (physReg c.f c.win ·)
  let masks := (srcMasks w ++ dstMasks w).map (c.maskKey ·)
  x.ve.flight.any (fun fl =>
    fl.regs.any (fun r => srcs.contains r.1 || (dsts.contains r.1 && !(rsta && fl.rsta))) ||
    fl.masks.any (fun m => masks.contains m.1))

/-- The counter origin takes effect when the command's first instruction issues, with event 0x54 (R128, R225). -/
def State.applyOrigin (s : State) (t : Nat) (r : VeRun) : State :=
  if !r.originDue then s
  else
    let p := r.cmd.payload
    let k := veOstream p
    let s := (s.wrN (aVeRngCtrLo t k) (veOimm p * 2 ^ 32)).wrN (aVeRngCtrHi t k) r.cmd.origin
    (s.post (rimTile t 5) 0x54 r.cmd.entry k).onRun t (fun r => { r with originDue := false })

/-- Is the row's instruction the one at the run's position? -/
def VeCtx.matches (c : VeCtx) (op : Nat) (i : VFields) : Bool := wOp c.word == op && fieldsOf c.word == i

/-- A bank collision held the issue of an LD or ST for a number of ACLK that is free: contests are timing (R111, R134, R140;
log entry 66). -/
def State.bankHold (s : State) (t : Nat) : State :=
  let (n, s) := s.freeNat 48
  let s := s.cnt (aCntVeBank t) n
  s.stall t 4 1 n

/-- Bring one instruction to its issue. `cycles` counts issue cycles; `body` is what it does when it executes. -/
def State.veIssue (s : State) (t op : Nat) (i : VFields) (sel : Nat → Nat → Bool) (cycles : Nat → Nat)
    (body : VeCtx → State → State) : State :=
  match (s.tile t).veNext with
  | none => s
  | some c =>
    if !c.matches op i || !sel (bits c.word 53 50) (bits c.word 23 0) then s
    else if !c.when_ then (s.applyOrigin t c.run).onRun t (·.begun.advance)
    else if (s.tile t).veHeld c then (s.cnt (aCntVeHeld t)).stall t 4 0
    else
      let s := s.applyOrigin t c.run
      let s := body c (s.cnt (aCntVeIssue t) (cycles (codeLanes (bits c.word 53 50))))
      s.onRun t (fun r => if r.parity.isSome || r.stopped then r.begun else r.begun.advance)

/-- Send a result of the running command on its way: physical registers and mask keys with their new values (R111). -/
def State.launch (s : State) (t : Nat) (c : VeCtx) (regs masks : List (Nat × Nat)) (rsta : Bool) : State :=
  s.onVe t (fun v => { v with flight := v.flight ++
    [{ owner := c.run.cmd.issue, regs := regs.map (fun r => (r.1, BitVec.ofNat 1024 r.2)), masks := masks.map (fun m => (m.1, BitVec.ofNat 128 m.2)),
       rsta }] })

/-- Lanes of format f, or FP32 where the code is reserved. -/
def fmtOf (w : Nat) : Fmt := (Fmt.ofCode (bits w 53 50)).getD .fp32

/-- Apply a lane function under the write mask and launch the result in vd, raising the flags of active lanes. -/
def State.lanesTo (s : State) (t : Nat) (c : VeCtx) (g : Nat → Nat × Nat) : State :=
  let x := s.tile t
  let f := fmtOf c.word
  let m := x.activeMask c f.lanes
  let vd := bits c.word 49 44
  let old := rawLanes f (x.vreg c vd)
  let new := (List.range f.lanes).map (fun i => if bit m i then g i else (nth old i, 0))
  let flags := new.foldl (fun a r => a ||| r.2) 0
  (s.launch t c [(physReg c.f c.win vd, ofLanes f (new.map (·.1)))] [] false).raiseFlags t flags

/-- VE_RESULT_LANDING: the i-th write in flight lands; writes to one destination land in issue order (R111). -/
def State.land (s : State) (t i : Nat) : State :=
  let v := (s.tile t).ve
  match v.flight[i]? with
  | none => s
  | some fl =>
    let earlier := v.flight.take i
    if earlier.any (fun e => e.regs.any (fun r => fl.regs.any (fun q => q.1 == r.1)) ||
        e.masks.any (fun r => fl.masks.any (fun q => q.1 == r.1))) then s
    else s.onVe t (fun v => { v with
      flight := v.flight.eraseIdx i,
      regs := fl.regs.foldl (fun m r => mapPut 0 m r.1 r.2) v.regs,
      masks := fl.masks.foldl (fun m r => mapPut 0 m r.1 r.2) v.masks })

/-- VE_RESULT_LANDING. -/
def execVeResultLanding (t : TileId) (i : Nat) (s : State) : Host.Outcome State Fault Refusal :=
  .next (s.clocked (·.land t.val i))

/-! ### Errors on loads (R112, R113, R147) -/

/-- End the RUN that issues: it issues no further instruction and completes without filling, pushing or signalling; what it
has issued still lands (R111, R147, R203). -/
def State.dropVeRun (s : State) (t : Nat) (r : VeRun) : State :=
  (s.onVe t (fun v => { v with run := none })).endStopped t r.handles

/-- End the KLOAD without filling, pushing or signalling (R147, R203). -/
def State.dropKload (s : State) (t : Nat) : State :=
  ((s.onVe t (fun v => { v with kload := none, kmemOld := [] })).setF (aVeStatus t) 1 1 0).endStopped t []

/-- An uncorrectable word or granule ends the command: a contained fault, no further instruction issues. -/
def State.veUncorr (s : State) (t : Nat) (c : VeCtx) (gab : Bool) (addr : Nat) : State :=
  let e := c.run.cmd.entry
  ((s.spadErr t 2 gab e addr).dropVeRun t c.run).contained t 0x04 e

/-- The chunk of a KLOAD's image that holds a scratchpad address (R226). -/
def kloadChunk (p a : Nat) : Option Nat :=
  let b := kloadBase p
  if bits a 20 19 = bits b 20 19 ∧ bits b 16 5 ≤ bits a 16 5 ∧ bits a 16 5 - bits b 16 5 < (kloadKn p + 15) / 16
  then some (bits a 16 5 - bits b 16 5) else none

/-- Kernel memory when a KLOAD's copy stops at chunk k: from that chunk on the slots hold what they held before. -/
def VeState.kmemFrom (v : VeState) (p k : Nat) : List (Nat × W64) :=
  ((List.range (kloadKn p)).filter (16 * k ≤ ·)).foldl (fun m i =>
    mapPut 0 m (kloadKslot p + i) (mapGet 0 v.kmemOld (kloadKslot p + i))) v.kmem

/-- A parity event on a KLOAD's read: one that the copy met, or a new one, which stops the copy at its chunk (R226). -/
def State.kloadParity (s : State) (t : Nat) (c : Cmd) (a : Nat) : State :=
  let s := (s.spadErr t 1 false c.entry a).post (rimTile t 5) 0x53 c.entry a
  (s.onVe t (fun v => { v with kload := some (c, some a), kloadPosted := true })).parityDue t c.entry a

/-- VE_PARITY_STOP: the event is posted, and no further instruction of the command issues; in a command that holds a
clearing GAB read it is a contained fault with cause 0x09 (R113). `stored` tells an upset of the stored word. -/
def State.veParity (s : State) (t addr : Nat) (stored : Bool) : State :=
  let v := (s.tile t).ve
  let mark (s : State) : State := if stored && lightAddr addr then s.onTile t (·.markBad [addr]) else s
  match v.kload, v.issuing with
  | some (c, some a), _ => if v.kloadPosted then s else s.kloadParity t c a
  | some (c, none), _ =>
    (match kloadChunk c.payload addr with
     | some k => ((mark s).onVe t (fun v => { v with kmem := v.kmemFrom c.payload k })).kloadParity t c addr
     | none => s)
  | none, some r =>
    let a := r.parity.getD addr
    let s := if r.parity.isNone then mark s else s
    let s := (s.spadErr t 1 false r.cmd.entry a).post (rimTile t 5) 0x53 r.cmd.entry a
    let s := s.onRun t (fun r => { r with parity := some a, stopped := true })
    if (v.kernel r.cmd.payload).any isClrLoad then s.contained t 0x09 r.cmd.entry
    else s.parityDue t r.cmd.entry a
  | none, none => s

/-- VE_PARITY_STOP. -/
def execVeParityStop (t : TileId) (addr : BitVec 21) (stored : Bool) (s : State) : Host.Outcome State Fault Refusal :=
  .next (s.clocked (·.veParity t.val addr.toNat stored))

end Sys2Proof.Machine
end

