-- ==== Sys2Proof/Machine/Complete.lean ====
section
/-! DEFINITION. Completions, overruns and timeouts of commands, errors met by readers, windows and sync operations
(R141–R147, R151–R153, R190–R193, R203, R212, R240). -/
namespace Sys2Proof.Machine

/-! ### COMMAND_COMPLETION (R84, R193, R212, R237) -/

/-- Completion of run number c of array m, in queue order. -/
def State.completeMac (s : State) (t m c : Nat) : State :=
  let runs := ((s.tile t).array m).runs
  match runs[c]? with
  | none => s
  | some r =>
    if r.stage ≠ .done ∨ (runs.take c).any (fun x => x.stage == .done) then s
    else
      let s := s.onArray t m (fun a => { a with runs := a.runs.eraseIdx c })
      let s := if r.parity.isSome then s.setF (aMacStatus t m) 0 0 1 else s
      s.complete t m r.cmd r.handles r.parity.isSome

/-- Nothing of a RUN is left to do: it has issued its last instruction, every result of it has landed, and a parity event that
it met has been posted (R108, R113). -/
def VeState.runDone (v : VeState) (r : VeRun) : Bool :=
  r.issuedAll && (r.parity.isNone || r.stopped) && v.flight.all (fun f => f.owner != r.cmd.issue)

/-- Completion of RUN i of those of the VE, oldest first, with event 0x51 (R132, R135). -/
def State.completeRun (s : State) (t i : Nat) (r : VeRun) : State :=
  let s := s.onVe t (fun v => { v with
    ending := v.ending.eraseIdx i, run := if i < v.ending.length then v.run else none })
  let s := if r.parity.isSome then s.setF (aVeStatus t) 2 2 1 else s
  (s.post (rimTile t 5) 0x51 r.cmd.entry r.issued).complete t 4 r.cmd r.handles r.parity.isSome

/-- Completion of the KLOAD, with event 0x52 (R135, R226). -/
def State.completeKload (s : State) (t : Nat) (c : Cmd) (parity : Bool) : State :=
  let s := (s.onVe t (fun v => { v with kload := none, kmemOld := [] })).setF (aVeStatus t) 1 1 0
  let s := if parity then s.setF (aVeStatus t) 2 2 1 else s
  (s.post (rimTile t 5) 0x52 c.entry (kloadKslot c.payload + kloadKn c.payload - 1)).complete t 4 c [] parity

/-- Completion of the VE's oldest RUN that is done, or else of its KLOAD. -/
def State.completeVe (s : State) (t : Nat) : State :=
  let v := (s.tile t).ve
  let rs := v.ending ++ v.run.toList
  match (rs.zipIdx).find? (fun r => v.runDone r.1), v.kload with
  | some (r, i), _ => s.completeRun t i r
  | none, some (c, p) => if p.isSome && !v.kloadPosted then s else s.completeKload t c p.isSome
  | none, none => s

/-- COMMAND_COMPLETION of engine e: run c of an array, the VE's command, context c of the SE, or the SE's PLOAD or QPUSH
where that context has nothing to complete. -/
def State.commandCompletion (s : State) (t e c : Nat) : State :=
  if e < 4 then s.completeMac t e c
  else if e = 4 then s.completeVe t
  else if s.copyDone t c then s.completeCopy t c
  else s.completeAux t

/-- COMMAND_COMPLETION. -/
def execCommandCompletion (t : TileId) (e : Fin 6) (c : Fin 8) (s : State) : Host.Outcome State Fault Refusal :=
  .next (s.clocked (·.commandCompletion t.val e.val c.val))

/-! ### COMMAND_OVERRUN (R203) -/

/-- Stop an engine's command at 2^22 ACLK: work done stands, nothing is filled, pushed or signalled, a contained fault
with cause 0x05 is posted. How much an array has done is free: the rows of its compute part, or how many rows of its drain
part have been drained (log entry 25). -/
def State.overrun (s : State) (t e c : Nat) : State :=
  let x := s.tile t
  if e < 4 then
    match (x.array e).runs[c]? with
    | none => s
    | some r =>
      if r.stage = .done then s
      else if r.stage = .drain then
        let (n, s) := s.freeNat 48
        let rows := if x.drainHeld r then 0 else n % (macDrainRows r.cmd.payload + 1)
        ((s.drain t e r rows).2.abandonDrain t e c r).contained t 0x05 r.cmd.entry
      else (s.abandonCompute t e c r).contained t 0x05 r.cmd.entry
  else if e = 4 then
    match x.ve.issuing, x.ve.kload with
    | some r, _ => (s.dropVeRun t r).contained t 0x05 r.cmd.entry
    | none, some (k, _) => (s.dropKload t).contained t 0x05 k.entry
    | none, none => s
  else
    let k := x.ctx c
    if k.state = .running ∧ k.cmd.isSome ∧ k.err.isNone ∧ k.parity.isNone then
      (s.contained t 0x05 k.entry).setCtx t c { k with err := some (0, 0), walk := none }
    else
      match k.cmd, x.seAux with
      | none, some (a, _) =>
        ((s.onTile t (fun x => { x with seAux := none })).endStopped t []).contained t 0x05 a.entry
      | _, _ => s

/-- COMMAND_OVERRUN. -/
def execCommandOverrun (t : TileId) (e : Fin 6) (c : Fin 8) (s : State) : Host.Outcome State Fault Refusal :=
  .next (s.clocked (·.overrun t.val e.val c.val))

/-! ### SLIP_TIMEOUT (R240, R246) -/

/-- Record a timeout of an engine (7 for the sequencer) with its cause, event 0x81, and the contained fault. -/
def State.slipRecord (s : State) (t engine cause entry : Nat) : State :=
  let s := s.wrN (aTileSlipStatus t) (1 + cause * 4 + engine * 32 + (entry % 2 ^ 20) * 256)
  let s := s.post (rimTile t (if engine = 7 then 0 else engine + 1)) 0x81 entry cause
  s.contained t 0x06 entry

/-- SLIP_TIMEOUT of an engine's waiting head, or of the sequencer's wait in BLOCKED with cause sync wait. -/
def State.slipTimeout (s : State) (t : Nat) (e : Option Nat) : State :=
  match e with
  | some e =>
    match (s.tile t).startedHead e (fun _ => true) with
    | some c =>
      let cause := s.waitCause t e c
      if cause = 0 then s else s.slipRecord t e cause c.entry
    | none => s
  | none => if s.sq t = sqBlocked ∧ s.getF (aSqStatus t) 6 4 = 1 then s.slipRecord t 7 6 (s.pc t) else s

/-- SLIP_TIMEOUT. -/
def execSlipTimeout (t : TileId) (e : Option (Fin 6)) (s : State) : Host.Outcome State Fault Refusal :=
  .next (s.clocked (·.slipTimeout t.val (e.map (·.val))))

/-! ### SYNC_OPERATION (R190, R191) -/

/-- Is object i bound to a tile (R192)? -/
def State.objBound (s : State) (i : Nat) : Bool := s.tiles.any (fun x => x.2.seq.bound.contains i)

/-- The i-th operation on its way is applied at the holder, unless one from the same source comes before it. In P1 one on
an object bound to a tile waits in the slice for the exit, and wakes the device (R518). -/
def State.syncApply (s : State) (i : Nat) : State :=
  match s.sync.ops[i]? with
  | none => s
  | some o =>
    if (s.sync.ops.take i).any (fun p => decide (p.src = o.src)) then s
    else if s.powerState = 1 ∧ s.objBound o.obj then s.wake 4
    else
      let s := { s with sync := { s.sync with ops := s.sync.ops.eraseIdx i } }
      let s := s.applyObj o.obj o.set o.val
      match o.reply with
      | some r => s.fabAnswer r 0 none [] 0
      | none => s

/-- SYNC_OPERATION. -/
def execSyncOperation (i : Nat) (s : State) : Host.Outcome State Fault Refusal := .next (s.clocked (·.syncApply i))

/-! ### WINDOW_ACCESS (R151–R153) -/

/-- Source of a request in the eyes of a window: the sending tile, or for the fabric its packet's device and unit. -/
def State.winSource (s : State) (o : Origin) : WinSource :=
  match o with
  | .ctx t _ => { dev := s.devId, tile := some t }
  | .fabric ref => s.fabSource ref

/-- The status of a window access before any window is looked at: a group in a block reset is ISOLATED, and tiles that
are powered off answer a port's request as closed windows would (R508, R519). -/
def State.tileOff (s : State) (t : Nat) (o : Origin) : Option Nat :=
  if s.isolatedTile t then some 0x27
  else match o with
  | .fabric _ => if 2 ≤ s.powerState then some 0x21 else none
  | .ctx _ _ => none

/-- A request that arrives at tile t, in the order of R31, is checked against its windows and performed or refused. -/
def State.windowAccess (s : State) (t id : Nat) : State :=
  match s.findReq id with
  | none => s
  | some r =>
    if r.stage ≠ .window ∨ bits r.off 30 21 ≠ t ∨ !s.firstToWindow r then s
    else
      let (st, win, data, s) := match s.tileOff t r.origin with
        | some st => (st, none, [], s)
        | none => s.winAccess t (r.space == 3) r.write (bits r.off 20 0) r.len r.data r.poison (s.winSource r.origin)
      match r.origin with
      | .fabric ref => (s.dropReq id).fabAnswer ref st win data 0
      | .ctx _ _ => s.requeue id (·.answer st win data 0)

/-- WINDOW_ACCESS. -/
def execWindowAccess (t : TileId) (id : Nat) (s : State) : Host.Outcome State Fault Refusal :=
  .next (s.clocked (·.windowAccess t.val id))

/-! ### Merges, corrections and uncorrectable reads (R87, R141, R143, R144, R146, R147) -/

/-- MERGE_WRITE: the merged word is in the bank with fresh check bits; the merge is no longer pending (R141). -/
def execMergeWrite (t : TileId) (addr : BitVec 21) (gab : Bool) (s : State) : Host.Outcome State Fault Refusal :=
  .next (s.clocked (fun s => s.onTile t.val (fun x =>
    if gab then { x with gabMerges := mapPut false x.gabMerges (addr.toNat / 32) false }
    else { x with merges := mapPut false x.merges (unitKey addr.toNat) false })))

/-- Error pattern as numbers. -/
def symErrs (errs : SymErrs) : List (Nat × Nat) := errs.map (fun e => (e.1, e.2.toNat))

/-- The 32 bytes of a protected word of a store; those of the pattern table are registers. -/
def Tile.word32 (x : Tile) (st : StrongStore) (a : Nat) : List Byte :=
  let b := a / 32 * 32
  match st with
  | .slath => ((leBytes 64 (mapGet slathNone x.slath (a / 64 % 1024)).2).drop (32 * (a / 32 % 2))).take 32
  | .pat => []
  | .spad => (List.range 32).map (fun i => x.byte (b + i))
  | .gab => gabBytes ((List.range 8).map (fun i => x.gabEntry (b / 4 + i)))
  | .acc m => (List.range 8).flatMap (fun i => leBytes 4 (mapGet 0 (x.array m.val).acc (b / 4 + i)).toNat)

/-- Replace the 32 bytes of a protected word. -/
def Tile.putWord32 (x : Tile) (st : StrongStore) (a : Nat) (d : List Byte) : Tile :=
  let b := a / 32 * 32
  match st with
  | .slath =>
    let p := mapGet slathNone x.slath (a / 64 % 1024)
    if p.1 = slathNone.1 then x
    else
      let e := leBytes 64 p.2
      let e := if a / 32 % 2 = 0 then d ++ e.drop 32 else e.take 32 ++ d
      { x with slath := mapPut slathNone x.slath (a / 64 % 1024) (p.1, leVal e) }
  | .pat => x
  | .spad => { x with spad := (d.zip (List.range d.length)).foldl (fun m p => mapPut 0 m (b + p.2) p.1) x.spad }
  | .gab => x.gabPut (((gabOfBytes d).zip (List.range 8)).map (fun p => (b / 4 + p.2, p.1)))
  | .acc m =>
    let acc := ((gabOfBytes d).zip (List.range 8)).foldl (fun q p => mapPut 0 q (b / 4 + p.2) (BitVec.ofNat 32 p.1))
      (x.array m.val).acc
    { x with arrays := mapPut {} x.arrays m.val ({ x.array m.val with acc }) }

/-- Does a word already decode as uncorrectable? -/
def Tile.wordBad (x : Tile) (st : StrongStore) (a : Nat) : Bool :=
  match st with
  | .spad => mapGet false x.spadBad (unitKey a)
  | .gab => mapGet false x.gabBad (a / 32)
  | .acc m => mapGet false (x.array m.val).accBad (a / 32)
  | .slath => false
  | .pat => mapGet false x.patBad (a / 32 % 256)

/-- Is a store's address protected by the strong code: not a light-class bank? -/
def strongAddr (st : StrongStore) (a : Nat) : Bool := match st with | .spad => !lightAddr a | _ => true

/-- Words 4h to 4h + 3 of a pattern slot, for the half that an address in the pattern table names. -/
def patRegs (t a : Nat) : List Nat := (List.range 4).map (fun i => aTilePat t (a / 64 % 128) (4 * (a / 32 % 2) + i))

/-- The 32 bytes of a protected word, in the pattern table too. -/
def State.word32 (s : State) (t : Nat) (st : StrongStore) (a : Nat) : List Byte :=
  match st with
  | .pat => (patRegs t a).flatMap (fun r => leBytes 8 (s.rdN r))
  | st => (s.tile t).word32 st a

/-- Replace the 32 bytes of a protected word, in the pattern table too. -/
def State.putWord32 (s : State) (t : Nat) (st : StrongStore) (a : Nat) (d : List Byte) : State :=
  match st with
  | .pat => ((patRegs t a).zipIdx).foldl (fun s r => s.wrN r.1 (leVal ((d.drop (8 * r.2)).take 8))) s
  | st => s.onTile t (·.putWord32 st a d)

/-- Mark a word as one that decodes as uncorrectable; a slath buffer slot is dropped, to be fetched again (R177). -/
def Tile.spoilWord (x : Tile) (st : StrongStore) (a : Nat) : Tile :=
  match st with
  | .spad => { x with spadBad := mapPut false x.spadBad (unitKey a) true }
  | .gab => { x with gabBad := mapPut false x.gabBad (a / 32) true }
  | .acc m =>
    let y := x.array m.val
    { x with arrays := mapPut {} x.arrays m.val { y with accBad := mapPut false y.accBad (a / 32) true } }
  | .slath => { x with slath := mapPut slathNone x.slath (a / 64 % 1024) slathNone }
  | .pat => { x with patBad := mapPut false x.patBad (a / 32 % 256) true }

/-- Count a correction or an uncorrectable read in the counter of its store, and record it where it is the scratchpad's or
the GAB's: R171 and R168 name no other store, and the accumulator file's and the pattern table's errors are counted in
the scratchpad counters, as R177 has it for the slath buffer (DESIGN CHOICE, log entry 74). -/
def State.strongErr (s : State) (t kind : Nat) (st : StrongStore) (entry a : Nat) : State :=
  match st with
  | .spad => s.spadErr t kind false entry a
  | .gab => s.spadErr t kind true entry a
  | _ => s.cnt (if kind = 0 then aCntSpadCorr t else aCntSpadUncorr t)

/-- CORRECTED_WRITE_BACK: a read met symbol errors that decode as corrected; the corrected word is written back and
counted (R143, R144). A pattern of three or more symbols may decode into wrong data. -/
def State.correctedBack (s : State) (t : Nat) (st : StrongStore) (a : Nat) (errs : SymErrs) : State :=
  let es := symErrs errs
  let d := strongDecode es
  match d with
  | .corrected _ =>
    if !strongAddr st a || (s.tile t).wordBad st a then s
    else (s.putWord32 t st a (decodedData (s.word32 t st a) es d)).strongErr t 0 st (s.pc t) a
  | _ => s

/-- CORRECTED_WRITE_BACK. -/
def execCorrectedWriteBack (t : TileId) (store : StrongStore) (addr : BitVec 21) (errs : SymErrs) (s : State) :
    Host.Outcome State Fault Refusal :=
  .next (s.clocked (·.correctedBack t.val store addr.toNat errs))

/-- End the command of the reader that met the error, where it runs one; answers its entry (R147). -/
def State.endReader (s : State) (t : Nat) (r : Reader) : Nat × State :=
  let x := s.tile t
  match r with
  | .mac m =>
    match (x.array m.val).inStage .compute with
    | some (i, r) => (r.cmd.entry, s.abandonCompute t m.val i r)
    | none => (s.pc t, s)
  | .ve =>
    match x.ve.issuing, x.ve.kload with
    | some r, _ => (r.cmd.entry, s.dropVeRun t r)
    | none, some (k, _) => (k.entry, s.dropKload t)
    | none, none => (s.pc t, s)
  | .se c =>
    let k := x.ctx c.val
    if k.state = .running ∧ k.cmd.isSome then (k.entry, s.setCtx t c.val { k with err := some (0, 0), walk := none })
    else (s.pc t, s)
  | .seq | .drain _ => (s.pc t, s)
  | .window =>
    match s.mem.reqs.find? (fun q => (q.stage == .window) && !q.write && decide (bits q.off 30 21 = t)) with
    | some q =>
      (match q.origin with
       | .fabric ref => (s.pc t, (s.dropReq q.id).fabAnswer ref 0x26 none [] 0)
       | .ctx _ _ => (s.pc t, s.requeue q.id (·.answer 0x26 none [] 0)))
    | none => (s.pc t, s)

/-- An uncorrectable granule or accumulator word met by a running drain: the drain is made up to that word, where it ends
(R87, R147). A drain that reads no such word has met nothing. -/
def State.drainMeets (s s' : State) (t m : Nat) : State :=
  match ((s.tile t).array m).inStage .drain with
  | some (i, r) =>
    if (s.tile t).drainHeld r then s
    else match s'.drain t m r (macDrainRows r.cmd.payload) with
      | (false, u) => u.abandonDrain t m i r
      | (true, _) => s
  | none => s

/-- UNCORRECTABLE_READ: symbol errors that decode as uncorrectable in a strong-class word, a GAB granule or an
accumulator word: the word stays unusable, the reader's command ends, and a contained fault with cause 0x04 is posted
(R87, R143, R147). In the slath buffer the entry is fetched again, with no fault (R177); in the pattern table the word is
marked, and the commit of a command that names the slot meets it (R215). -/
def State.uncorrectableRead (s : State) (t : Nat) (r : Reader) (st : StrongStore) (a : Nat) (errs : SymErrs) : State :=
  let es := symErrs errs
  if strongDecode es ≠ .uncorrectable ∨ !strongAddr st a then s
  else
    let spoil (s : State) : State := (s.putWord32 t st a (applyErrs (es.filter (fun e => decide (e.1 < 32))) (s.word32 t st a))).onTile t
      (·.spoilWord st a)
    match st, r with
    | .slath, _ =>
      let p := mapGet slathNone (s.tile t).slath (a / 64 % 1024)
      if p = slathNone then s
      else ((((s.onTile t (·.spoilWord st a)).cnt (aCntSqRefetch t)).post (rimTile t 0) 0x78 p.1 (p.1 % 1024)).fetchAhead t).showSpan t
    | .pat, _ => spoil s
    | _, .drain m => s.drainMeets (spoil s) t m.val
    | _, _ =>
      let (entry, s) := s.endReader t r
      ((spoil s).strongErr t 2 st entry a).contained t 0x04 entry

/-- UNCORRECTABLE_READ. -/
def execUncorrectableRead (t : TileId) (reader : Reader) (store : StrongStore) (addr : BitVec 21) (errs : SymErrs)
    (s : State) : Host.Outcome State Fault Refusal :=
  .next (s.clocked (·.uncorrectableRead t.val reader store addr.toNat errs))

end Sys2Proof.Machine
end

