-- ==== Sys2Proof/Machine/Image.lean ====
section
/-! DEFINITION. Tile images in DDR: what a save or a doze writes and a resume reads, through the L2 slices (R285, R486, R517). -/
namespace Sys2Proof.Machine

/-- Bytes of a tile's image in the save or doze area (R486). -/
def imageSize : Nat := 3473408

/-- Byte i of a number. -/
def byteOf (v i : Nat) : Byte := BitVec.ofNat 8 (v / 2 ^ (8 * i))

/-- Where R486 places a byte of a tile's image: a scratchpad byte; byte of a GAB entry, of an accumulator entry of an array, of a
kernel word, of a register; a byte of a section whose inner layout R486 does not give; nothing (written as zero). -/
inductive ImagePlace
  | spad (a : Nat)
  | gab (e i : Nat)
  | acc (m e i : Nat)
  | kernel (n i : Nat)
  | reg (a i : Nat)
  | unstated
  | zero
  deriving DecidableEq, Repr

/-- The place of byte a of tile t's image (R486). A pattern slot holds its six words as PLOAD reads them (R229); a stream its key
and counter; a window its four registers. -/
def imagePlace (t a : Nat) : ImagePlace :=
  if a < 0x200000 then .spad a
  else if a < 0x300000 then .gab ((a - 0x200000) / 4) (a % 4)
  else if a < 0x340000 then .acc ((a - 0x300000) / 0x10000) (a % 0x10000 / 4) (a % 4)
  else if a < 0x347000 then .unstated
  else if a < 0x349000 then
    let w := (a - 0x347000) % 64 / 8
    if w < 6 then .reg (aTilePat t ((a - 0x347000) / 64) w) (a % 8) else .zero
  else if a < 0x34A000 then .kernel ((a - 0x349000) / 8) (a % 8)
  else if a < 0x34A180 then
    let o := a - 0x34A000
    .reg (aVeRngKey t (o / 24) + 8 * (o % 24 / 8)) (o % 8)
  else if 0x34A400 ≤ a ∧ a < 0x34A600 then .reg (aSpadWinRange t ((a - 0x34A400) / 32) + (a - 0x34A400) % 32 / 8 * 8) (a % 8)
  else if (0x34A800 ≤ a ∧ a < 0x34B200) then .unstated
  else .zero

/-- Byte a of tile t's image; where R486 gives no inner layout the byte is free (log entry 84). -/
def State.imageByte (s : State) (t a : Nat) : Byte :=
  let x := s.tile t
  match imagePlace t a with
  | .spad b => x.byte b
  | .gab e i => byteOf (x.gabEntry e) i
  | .acc m e i => byteOf (mapGet 0 (x.array m).acc e).toNat i
  | .kernel n i => byteOf (mapGet 0 x.ve.kmem n).toNat i
  | .reg r i => byteOf (s.rdN r) i
  | .unstated => byteOf (Config.freeValue (s.free + a / 128)).toNat (a % 128)
  | .zero => 0

/-- Byte a of tile t's doze image: the vector registers, lane masks, counters and epochs stand behind the image (R517). -/
def State.dozeByte (s : State) (t a : Nat) : Byte :=
  let x := s.tile t
  if 0x34C000 ≤ a ∧ a < 0x34E000 then byteOf (mapGet 0 x.ve.regs ((a - 0x34C000) / 128)).toNat (a % 128)
  else if 0x34E000 ≤ a ∧ a < 0x34E040 then byteOf (mapGet 0 x.ve.masks ((a - 0x34E000) / 16)).toNat (a % 16)
  else if 0x34F000 ≤ a then byteOf (s.rdN (((aTileCntEpoch t :: tileCounters t)[(a - 0x34F000) / 8]?).getD 0)) (a % 8)
  else s.imageByte t a

/-- Write n lines of 256 B from an offset on with class 0b01 (R285). -/
def State.writeLines (s : State) (base n : Nat) (f : Nat → Byte) : State :=
  (List.range n).foldl (fun s i => s.memWrite (base + 256 * i) ((List.range 256).map (fun j => f (256 * i + j))) 1) s

/-- Write a range of whole lines of space 0 through the slices, as the save path does; the free bytes it holds are used up. -/
def State.writeImage (s : State) (base len : Nat) (f : Nat → Byte) : State :=
  let s := s.writeLines base (len / 256) f
  { s with free := s.free + len / 128 }

/-- Bring back byte a of tile t's image. Where R486 gives no inner layout, the tile's own record holds the state (log
entry 84). -/
def State.putImageByte (s : State) (t a : Nat) (v : Byte) : State :=
  let put32 (old i : Nat) : W32 := BitVec.ofNat 32 (setBits old (8 * i + 7) (8 * i) v.toNat)
  match imagePlace t a with
  | .spad b => s.onTile t (fun x => { x with spad := mapPut 0 x.spad b v })
  | .gab e i => s.onTile t (fun x => { x with gab := mapPut 0 x.gab e (put32 (x.gabEntry e) i) })
  | .acc m e i => s.onArray t m (fun y => { y with acc := mapPut 0 y.acc e (put32 (mapGet 0 y.acc e).toNat i) })
  | .kernel n i => s.onTile t (fun x => { x with ve := { x.ve with
      kmem := mapPut 0 x.ve.kmem n (BitVec.ofNat 64 (setBits (mapGet 0 x.ve.kmem n).toNat (8 * i + 7) (8 * i) v.toNat)) } })
  | .reg r i => s.wrN r (setBits (s.rdN r) (8 * i + 7) (8 * i) v.toNat)
  | .unstated | .zero => s

/-- Mark the 32 B word of a store that a poisoned word of an image brings back (R270). -/
def State.markImageWord (s : State) (t a : Nat) : State :=
  match imagePlace t a with
  | .spad b => s.onTile t (·.markBad ((List.range 32).map (b + ·)))
  | .gab e _ => s.onTile t (fun x => { x with gabBad := mapPut false x.gabBad (e / 8) true })
  | .acc m e _ => s.onArray t m (fun y => { y with accBad := mapPut false y.accBad (e / 8) true })
  | _ => s

/-- Read line i of an image with class 0b01 and bring back its bytes. -/
def State.readLine (s : State) (t base i : Nat) : State :=
  let s := s.awaitRetry (base + 256 * i)
  let (d, po, _, s) := s.l2Serve (s.remap (base + 256 * i)) 256 false false [] 0 1 0 0 []
  let s := d.zipIdx.foldl (fun s b => s.putImageByte t (256 * i + b.2) b.1) s
  ((List.range 8).filter (bit po ·)).foldl (fun s w => s.markImageWord t (256 * i + 32 * w)) s

/-- Read a tile's image back through the slices, as the resume path does (R285, R488). -/
def State.readImage (s : State) (t base : Nat) : State :=
  (List.range (imageSize / 256)).foldl (fun s i => s.readLine t base i) s

end Sys2Proof.Machine
end

