-- ==== Sys2Proof/Machine/Link.lean ====
section
/-! DEFINITION. Link states, lane maps and the commands of LNK_CTRL (R343–R346, R360–R370, R374–R377). -/
namespace Sys2Proof.Machine

/-! ### Lane maps (R343, R368, R369) -/

/-- Lanes of a width code. -/
def widthLanes (code : Nat) : Nat := 8 / 2 ^ code

/-- Width code of a direction with some lanes out of use, never above max_width; none when too few lanes are left (R368). -/
def laneWidth (out maxCode : Nat) : Option Nat :=
  let n := 9 - countIdx (bit out ·) 9
  if n < 2 then none
  else some (max maxCode (if 8 ≤ n then 0 else if 4 ≤ n then 1 else 2))

/-- The physical lane of logical lane i in a map. -/
def laneOf (map i : Nat) : Nat := bits map (4 * i + 3) (4 * i)

/-- Fill the places of a map: a healthy lane stays, another takes the lowest healthy lane that is not in use. -/
def fillMap : List (Option Nat) → List Nat → List Nat
  | [], _ => []
  | some l :: r, free => l :: fillMap r free
  | none :: r, x :: free => x :: fillMap r free
  | none :: r, [] => 15 :: fillMap r []

/-- A new map of some width from the present map and the failed lanes. -/
def newMap (map failed width : Nat) : Nat :=
  let keep := (List.range (widthLanes width)).map (fun i =>
    let l := laneOf map i
    if l < 9 ∧ !bit failed l then some l else none)
  let used := keep.filterMap id
  let free := (List.range 9).filter (fun l => !bit failed l && !used.contains l)
  packBits 4 (fillMap keep free ++ List.replicate (8 - widthLanes width) 15)

/-- Lanes that a map uses. -/
def mapLanes (map : Nat) : List Nat := ((List.range 8).map (laneOf map ·)).filter (fun l => decide (l < 9))

/-- Receive map and failed receive lanes of a port. -/
def State.rxMap (s : State) (p : Nat) : Nat := s.getF (aLnkLanes p) 31 0
def State.rxFail (s : State) (p : Nat) : Nat := s.getF (aLnkLaneFail p) 8 0

/-- Receive lanes that a map may not use: the failed ones, and without spare_en the spare, lane 8 (R368, R374). -/
def State.rxOut (s : State) (p : Nat) : Nat := if bit (s.port p).cfg 9 then s.rxFail p else setBits (s.rxFail p) 8 8 1

/-- The width that the receive direction can have, under the settings of the last initialisation and the width that the peer
advertises (R368, R373, R374). -/
def State.rxWidthFor (s : State) (p : Nat) : Option Nat :=
  laneWidth (s.rxOut p) (max (bits (s.port p).cfg 11 10) (((s.port p).param.map (·.width)).getD 0))

/-- Ask the peer for a new map of the receive direction: LANE_MAP with the next version (R369). -/
def State.askMap (s : State) (p : Nat) : State :=
  match s.rxWidthFor p with
  | none => s.goDown p
  | some w =>
    let map := newMap (s.rxMap p) (s.rxOut p) w
    let v := ((s.port p).rxVersion + 1) % 16
    let s := s.onPort p (fun q => { q with rxVersion := v, rxChange := some { version := v, width := w, map } })
    s.sendCtl p ([6, BitVec.ofNat 8 v, BitVec.ofNat 8 w, 0] ++ leBytes 4 map) true

/-! ### Initialisation (R360–R364) -/

/-- INIT_PARAM of a port: FEC request, width, minima, shared limits as of this initialisation, retry window of 2,047. -/
def State.initParam (s : State) (p : Nat) : List Byte :=
  let q := s.port p
  let mins := (List.range 8).flatMap (fun v => leBytes 2 (bits (nth q.limits v) 12 0))
  let shared := (List.range 8).flatMap (fun v => leBytes 2 (bits (nth q.limits v) 28 16))
  [2, 1, BitVec.ofNat 8 (bits q.cfg 8 8), BitVec.ofNat 8 (bits q.cfg 11 10)] ++ mins ++ shared ++ leBytes 2 2047

/-- Send the next ECHO_REQ with its stamp. -/
def State.sendEcho (s : State) (p : Nat) : State := s.sendCtl p ([4] ++ List.replicate 7 0 ++ leBytes 8 s.hoop) true

/-- Enter INIT: sequence numbers and credits reset; minima that exceed the buffers give way to the reset values with
event 0xA6; INIT_PARAM and the first ECHO_REQ go out (R360, R364). -/
def State.enterInit (s : State) (p : Nat) : State :=
  let s := (s.onPort p (·.fresh)).setLk p lkInit
  let sum := (List.range 8).foldl (fun a v => a + s.getF (aLnkRxVc p v) 12 0) 0
  let s := if 4096 < sum then
      ((List.range 8).foldl (fun s v => s.wrN (aLnkRxVc p v) (rxVcReset v)) s).post (rimPort p) 0xA6 sum 0
    else s
  let s := (List.range 8).foldl (fun s v => s.wrN (aLnkTxCredit p v) 0) (s.wrN (aLnkTxShared p) 0)
  let s := s.setF (aLnkStatus p) 2 2 0
  let s := s.onPort p (fun q => { q with limits := (List.range 8).map (fun v => s.rdN (aLnkRxVc p v)) })
  (s.sendCtl p (s.initParam p) true).sendEcho p

/-- INIT_DONE goes out once the peer's parameters and 16 samples are there. -/
def State.tryInitDone (s : State) (p : Nat) : State :=
  let q := s.port p
  if s.lk p = lkInit ∧ q.param.isSome ∧ 16 ≤ q.echoes then
    let s := if q.unanswered.any (fun c => recByte c 0 == 3) then s else s.sendCtl p [3] true
    if q.peerDone then (s.onPort p (fun q => { q with unanswered := [] })).enterAuth p else s
  else s

/-! ### Rows of the states (R364–R366, R374) -/

/-- RECEIVER_DETECT. -/
def execReceiverDetect (p : PortId) (s : State) : Host.Outcome State Fault Refusal :=
  .next (if s.lk p.val = lkDetect then s.setLk p.val lkTrain else s)

/-- LINK_TRAINING_COMPLETE: `lanes` are the healthy physical lanes (R364, R368). -/
def State.trained (s : State) (p : Nat) (ok : Bool) (lanes : Nat) : State :=
  if s.lk p ≠ lkTrain then s
  else if ok then (s.setF (aLnkLaneFail p) 8 0 (0x1FF - lanes)).setLk p lkAlign
  else s.goDown p

/-- LINK_TRAINING_COMPLETE. -/
def execLinkTrainingComplete (p : PortId) (ok : Bool) (lanes : BitVec 9) (s : State) : Host.Outcome State Fault Refusal :=
  .next (s.trained p.val ok lanes.toNat)

/-- ALIGN_COMPLETE: the settings of LNK_CFG take effect, the receive lane map is chosen, the transmit map is the one that the
peer's receiver has chosen, and INIT begins (R343, R364, R368, R374). -/
def State.aligned (s : State) (p txWidth txMap : Nat) : State :=
  if s.lk p ≠ lkAlign then s
  else
    let s := s.onPort p (fun q => { q with cfg := s.rdN (aLnkCfg p), param := none })
    match s.rxWidthFor p with
    | none => s.goDown p
    | some w =>
      let s := (s.setF (aLnkLanes p) 31 0 (newMap 0x76543210 (s.rxOut p) w)).setF (aLnkLanes p) 63 32 txMap
      ((s.setF (aLnkStatus p) 5 4 w).setF (aLnkStatus p) 7 6 txWidth).enterInit p

/-- ALIGN_COMPLETE: `txWidth` and `txMap` are what the peer's receiver has chosen. -/
def execAlignComplete (p : AlignEnd) (s : State) : Host.Outcome State Fault Refusal :=
  .next (s.aligned p.port.val p.txWidth.val p.txMap.toNat)

/-- LNK_CFG.enable: 1 leaves DISABLED or DOWN once the ports are released (R505), 0 enters DISABLED at once (R364, R374). -/
def State.enablePort (s : State) (p : Nat) (enable : Bool) : State :=
  if enable then
    let s := s.setF (aLnkCfg p) 0 0 1
    if (s.lk p = lkDisabled ∨ s.lk p = lkDown) ∧ 8 ≤ s.pwr.released then s.setLk p lkDetect else s
  else s.disablePort p

/-- LNK_CFG_ENABLE. -/
def execLnkCfgEnable (p : PortId) (enable : Bool) (s : State) : Host.Outcome State Fault Refusal :=
  .next (s.clocked (·.enablePort p.val enable))

/-- ACK_TIMEOUT: a replay from the oldest unacknowledged flit; no timer runs while the peer is held (R354, R367). -/
def State.ackTimeout (s : State) (p : Nat) : State :=
  match (s.port p).retry with
  | [] => s
  | f :: _ =>
    if (s.lk p = lkActive ∨ s.lk p = lkAuth) ∧ s.getF (aLnkStatus p) 2 2 = 0 then s.replay p f.seq else s

/-- ACK_TIMEOUT. -/
def execAckTimeout (p : PortId) (s : State) : Host.Outcome State Fault Refusal := .next (s.ackTimeout p.val)

/-- IDLE_TIMEOUT. -/
def execIdleTimeout (p : PortId) (s : State) : Host.Outcome State Fault Refusal := .next (s.enterRetrain p.val 1)

/-- Does a port carry flits? -/
def State.carries (s : State) (p : Nat) : Bool :=
  let st := s.lk p
  st == lkInit || st == lkAuth || st == lkActive || st == lkQuarantine || st == lkFrozen

/-- CONTROL_FLIT_RESEND: every unanswered control flit is sent again where the state carries control flits; an ECHO_REQ with a
stamp of its own (R361, R363, R364). -/
def State.resendCtl (s : State) (p : Nat) : State :=
  if s.carries p ∧ s.lk p ≠ lkFrozen then
    (s.port p).unanswered.foldl (fun s c => if recByte c 0 = 4 then s.sendEcho p else s.sendFlit p 2 0 0 0xF false c) s
  else s

/-- CONTROL_FLIT_RESEND. -/
def execControlFlitResend (p : PortId) (s : State) : Host.Outcome State Fault Refusal := .next (s.resendCtl p.val)

/-- A change of the receive map that a retrain dropped is asked for again while the map uses a failed lane (R368, R369). -/
def State.askAgain (s : State) (p : Nat) : State :=
  if (mapLanes (s.rxMap p)).any (bit (s.rxFail p) ·) then s.askMap p else s

/-- RETRAIN_COMPLETE: event 0xA3 with the duration, back to the state it left, and a replay from the next ack heard
(R365, R379). A device that is frozen by then finds its port FROZEN. -/
def State.retrained (s : State) (p : Nat) : State :=
  if s.lk p ≠ lkRetrain then s
  else
    let q := s.port p
    let s := s.post (rimPort p) 0xA3 q.retrainCause (s.hoop - q.retrainAt)
    let s := s.onPort p (fun q => { q with resync := true })
    if s.getF aDbgFreezeStatus 10 10 = 1 then (s.onPort p (fun q => { q with thawed := q.saved })).setLk p lkFrozen
    else ((s.setLk p q.saved).askAgain p).pump p

/-- RETRAIN_COMPLETE. -/
def execRetrainComplete (p : PortId) (s : State) : Host.Outcome State Fault Refusal := .next (s.retrained p.val)

/-- RETRAIN_TIMEOUT. -/
def State.retrainTimeout (s : State) (p : Nat) : State :=
  if s.lk p ≠ lkRetrain then s
  else (s.post (rimPort p) 0xA3 (s.port p).retrainCause (s.hoop - (s.port p).retrainAt)).goDown p

/-- RETRAIN_TIMEOUT. -/
def execRetrainTimeout (p : PortId) (s : State) : Host.Outcome State Fault Refusal := .next (s.retrainTimeout p.val)

/-- PORT_DOWN: the discard of R366, whatever the reason. -/
def execPortDown (p : PortId) (_reason : Fin 8) (s : State) : Host.Outcome State Fault Refusal := .next (s.goDown p.val)

/-- PORT_RESET: the same discard from any state, the port's registers at their reset values but for enable, its counters
cleared with their epoch counted on, the discarded flits counted after that, then DETECT (R366, R512, R521, R522, R557). -/
def State.portReset (s : State) (p : Nat) : State :=
  let n := (s.port p).retry.length
  let s := s.onPort p (·.fresh)
  let st := s.lk p
  let en := s.getF (aLnkCfg p) 0 0
  let s := ((s.clearPort p).resetRegs (aLnkCfg p) (aLnkCfg p + 0x400)).setF (aLnkCfg p) 0 0 en
  let s := s.onPort p (fun q => { q with txVersion := 0, rxVersion := 0, syms := [] })
  ((s.cnt (aCntLnkDiscard p) n).setF (aLnkStatus p) 11 8 st).setLk p lkDetect

/-- PORT_RESET. -/
def execPortReset (p : PortId) (s : State) : Host.Outcome State Fault Refusal := .next (s.portReset p.val)

/-! ### Sparing (R368–R370) -/

/-- LANE_FAIL: a lane whose count in the present window reaches the threshold, or that loses lock, fails with event 0xA4,
and a new map is asked for (R368, R369). -/
def State.laneFails (s : State) (p lane : Nat) (lost : Bool) : State :=
  let n := if (s.port p).symWindow = s.hoop / 1200000 then mapGet 0 (s.port p).syms lane else 0
  let th := s.getF (aLnkCfg p) 23 16
  if s.carries p ∧ !bit (s.rxFail p) lane ∧ (lost ∨ (th ≠ 0 ∧ th * 1024 ≤ n)) then
    let s := (s.setF (aLnkLaneFail p) lane lane 1).post (rimPort p) 0xA4 lane n
    if (mapLanes (s.rxMap p)).contains lane then s.askMap p else s
  else s

/-- LANE_FAIL. -/
def execLaneFail (p : PortId) (lane : Fin 9) (lostLock : Bool) (s : State) : Host.Outcome State Fault Refusal :=
  .next (s.laneFails p.val lane.val lostLock)

/-- LANE_RECOVERED: the lane becomes the spare, or a wider map is asked for (R370). -/
def State.laneRecovers (s : State) (p lane : Nat) : State :=
  if !(s.port p).recovering ∨ !bit (s.rxFail p) lane then s
  else
    let s := s.setF (aLnkLaneFail p) lane lane 0
    let s := if s.rxFail p = 0 then s.onPort p (fun q => { q with recovering := false }) else s
    match s.rxWidthFor p with
    | some w => if w < s.getF (aLnkStatus p) 5 4 then s.askMap p else s
    | none => s

/-- LANE_RECOVERED. -/
def execLaneRecovered (p : PortId) (lane : Fin 9) (s : State) : Host.Outcome State Fault Refusal :=
  .next (s.laneRecovers p.val lane.val)

/-- LANE_MAP_APPLY: at its next alignment marker the transmitter applies the map asked for, event 0xA5, LANE_ACK
(R369). -/
def State.applyMap (s : State) (p : Nat) : State :=
  match (s.port p).txChange with
  | none => s
  | some c =>
    let old := mapLanes (s.getF (aLnkLanes p) 63 32)
    let new := mapLanes c.map
    let fail := (List.range 9).foldl (fun v l =>
      if new.contains l then setBits v l l 0 else if old.contains l then setBits v l l 1 else v) (s.getF (aLnkLaneFail p) 24 16)
    let s := (s.setF (aLnkLanes p) 63 32 c.map).setF (aLnkStatus p) 7 6 c.width
    let s := (s.setF (aLnkLaneFail p) 24 16 fail).post (rimPort p) 0xA5 c.version c.map
    let s := s.onPort p (fun q => { q with txVersion := c.version, txChange := none })
    s.sendCtl p [7, BitVec.ofNat 8 c.version] false

/-- The marker at which the peer changes lanes arrives: the receiver switches to the map it asked for (R369). -/
def State.switchMap (s : State) (p : Nat) : State :=
  match (s.port p).rxChange with
  | none => s
  | some c =>
    ((s.setF (aLnkLanes p) 31 0 c.map).setF (aLnkStatus p) 5 4 c.width).onPort p (fun q => { q with rxChange := none })

/-- LANE_MAP_APPLY: of the transmit direction, or with `rx` of the receive direction. -/
def execLaneMapApply (p : MapMarker) (s : State) : Host.Outcome State Fault Refusal :=
  .next (if p.rx then s.switchMap p.port.val else s.applyMap p.port.val)

/-! ### LNK_CTRL (R375) and the peer's held bit (R367) -/

/-- A command of LNK_CTRL that does not apply is ignored and logged (R375, R474). -/
def State.lnkIgnored (s : State) (p v : Nat) : State := s.postMp 0xD6 v (aLnkCtrl p)

/-- reauth: from QUARANTINE to AUTH with a fresh exchange. -/
def State.lnkReauth (s : State) (p : Nat) (v : Nat := 16) : State := if s.lk p = lkQuarantine then s.enterAuth p else s.lnkIgnored p v

/-- quarantine: from AUTH or ACTIVE. -/
def State.lnkQuarantine (s : State) (p : Nat) (v : Nat := 8) : State :=
  if s.lk p = lkAuth ∨ s.lk p = lkActive then s.setLk p lkQuarantine else s.lnkIgnored p v

/-- activate: from AUTH to ACTIVE. -/
def State.lnkActivate (s : State) (p : Nat) (v : Nat := 4) : State :=
  if s.lk p = lkAuth then ((s.setLk p lkActive).onPort p (fun q => { q with activeAt := s.hoop })).pump p
  else s.lnkIgnored p v

/-- lane_recover: failed lanes are retrained in the background (R370). -/
def State.lnkLaneRecover (s : State) (p : Nat) (v : Nat := 2) : State :=
  if s.carries p then s.onPort p (fun q => { q with recovering := true }) else s.lnkIgnored p v

/-- retrain, under R365. -/
def State.lnkRetrain (s : State) (p : Nat) (v : Nat := 1) : State :=
  let st := s.lk p
  if st = lkAuth ∨ st = lkActive ∨ st = lkQuarantine ∨ st = lkFrozen then s.enterRetrain p 4 else s.lnkIgnored p v

/-- LNK_REAUTH. -/
def execLnkReauth (p : PortId) (s : State) : Host.Outcome State Fault Refusal := .next (s.clocked (·.lnkReauth p.val))
/-- LNK_QUARANTINE. -/
def execLnkQuarantine (p : PortId) (s : State) : Host.Outcome State Fault Refusal := .next (s.clocked (·.lnkQuarantine p.val))
/-- LNK_ACTIVATE. -/
def execLnkActivate (p : PortId) (s : State) : Host.Outcome State Fault Refusal := .next (s.clocked (·.lnkActivate p.val))
/-- LNK_LANE_RECOVER. -/
def execLnkLaneRecover (p : PortId) (s : State) : Host.Outcome State Fault Refusal := .next (s.clocked (·.lnkLaneRecover p.val))
/-- LNK_RETRAIN. -/
def execLnkRetrain (p : PortId) (s : State) : Host.Outcome State Fault Refusal := .next (s.clocked (·.lnkRetrain p.val))

/-- The peer's held bit changes (R367, R376). -/
def State.peerHeld (s : State) (p : Nat) (held : Bool) : State := s.setF (aLnkStatus p) 2 2 (b2n held)

/-- PEER_HELD_CHANGE. -/
def execPeerHeldChange (p : PortId) (held : Bool) (s : State) : Host.Outcome State Fault Refusal := .next (s.peerHeld p.val held)

/-- A frozen device's ports enter FROZEN (R367, R572). -/
def State.freezePorts (s : State) : State :=
  (List.range 16).foldl (fun s p =>
    if s.carries p ∧ s.lk p ≠ lkFrozen then
      (s.onPort p (fun q => { q with thawed := s.lk p })).setLk p lkFrozen
    else s) s

/-- After a freeze each port returns to the state it left; a retrain condition that arose applies now (R367, R579). -/
def State.thawPorts (s : State) : State :=
  (List.range 16).foldl (fun s p =>
    if s.lk p = lkFrozen then
      let q := s.port p
      let s := (s.onPort p (fun q => { q with retrainDue := none, resync := true })).setLk p q.thawed
      match q.retrainDue with
      | some c => s.enterRetrain p c
      | none => s.pump p
    else s) s

end Sys2Proof.Machine
end

