-- ==== Sys2Proof/Machine/Partition.lean ====
section
/-! DEFINITION. Partitions: tile resets, residence, the ready queue, release and stop, pre-emption and resume
(R475–R489, R508–R510). -/
namespace Sys2Proof.Machine

/-! ### Tile resets (R508, R509) -/

/-- The requests of tile t are gone, with the slots and reservations that they held; a lane that presents nothing more leaves
no state (R254, R282). -/
def State.dropRequests (s : State) (t : Nat) : State :=
  let s := (s.mem.reqs.filter (fun r => r.origin.source == t)).foldl (fun s r => s.cancelReq r.id) s
  (List.range 4).foldl (fun s q => s.laneLeft q (t % 16)) s

/-- Reset tile t: registers to their reset values with the epochs counted on, VE registers, masks and kernel memory
zero (R106, R107), withy queues empty, the sequencer IDLE, the bound objects unbound and zero; the SRAM stays (R509,
R521). -/
def State.resetTile (s : State) (t : Nat) : State :=
  let ep := s.rdN (aTileCntEpoch t)
  let x := s.tile t
  let s := (s.resetRegs (tileBase t) (tileBase t + 0x8000)).wrN (aTileCntEpoch t) ep
  let s := (List.range 8).foldl (fun s u => s.bumpEpoch (aTileCntEpoch t) u) s
  let s := x.seq.bound.foldl (fun s i => s.setObj i 0) s
  let s := s.dropWaits t (fun _ => true)
  let s := s.dropRequests t
  s.setTile t { spad := x.spad, spadBad := x.spadBad, gab := x.gab, gabBad := x.gabBad,
                arrays := (x.arrays.map (fun a => (a.1, ({ acc := a.2.acc, accBad := a.2.accBad } : ArrayState)))).filter
                  (fun a => decide (a.2 ≠ {})) }

/-- The MP writes +0 to every scratchpad byte, GAB entry and accumulator row of tile t (R478, R509). -/
def State.clearTile (s : State) (t : Nat) : State :=
  s.onTile t (fun x => { x with
    spad := [], spadBad := [], merges := [], gab := [], gabBad := [], gabMerges := [],
    arrays := (x.arrays.map (fun a => (a.1, { a.2 with acc := [], accBad := [] }))).filter (fun a => decide (a.2 ≠ {})) })

/-- Assert the reset of a block: 1 tile groups, 2 ports, 3 a partition, with event 0xF6 (R508, R527). -/
def State.holdBlock (s : State) (kind arg : Nat) : State :=
  let s := if s.pwr.blocks.contains (kind, arg) then s else { s with pwr := { s.pwr with blocks := s.pwr.blocks ++ [(kind, arg)] } }
  s.postMp 0xF6 kind (if kind = 3 then 2 ^ arg else arg)

/-- Reset tile groups; with `clear` the stores are cleared too. -/
def State.groupReset (s : State) (mask : Nat) (clear : Bool) : State :=
  let s := forTiles (groupTiles mask) (fun s t => if clear then (s.resetTile t).clearTile t else s.resetTile t) s
  s.holdBlock 1 mask

/-! ### Residence and the ready queue (R477, R482) -/

/-- Groups resident for partitions other than p. -/
def State.othersGroups (s : State) (p : Nat) : Nat :=
  (List.range 16).foldl (fun m q => if q ≠ p ∧ s.partExists q ∧ s.partResident q then m ||| s.partHome q else m) 0

/-- Are all home groups of partition p non-resident? -/
def State.groupsFree (s : State) (p : Nat) : Bool := s.othersGroups p &&& s.partHome p == 0

/-- Put a partition at the tail of the ready queue. -/
def State.joinReady (s : State) (p : Nat) : State :=
  if s.ready.contains p then s else ({ s with ready := s.ready ++ [p] }).setF (aMpPartStatus p) 29 29 1

/-- Take a partition out of the ready queue. -/
def State.leaveReady (s : State) (p : Nat) : State := ({ s with ready := s.ready.erase p }).setF (aMpPartStatus p) 29 29 0

/-- A resume begins: the partition is resident again and its restore is under way (R488). -/
def State.beginResume (s : State) (p : Nat) : State :=
  ((s.leaveReady p).setF (aMpPartStatus p) 30 30 1).onPart p (fun x => { x with resuming := some s.hoop })

/-- Scan the ready queue from the head: every partition whose home groups are all non-resident resumes (R482). -/
def State.scanReady (s : State) : State :=
  s.ready.foldl (fun s p => if s.groupsFree p && !s.partResident p then s.beginResume p else s) s

/-- Groups of a partition stop being resident. -/
def State.evict (s : State) (p : Nat) : State := (s.setF (aMpPartStatus p) 30 30 0).scanReady

/-! ### Release and stop (R91, R202, R241, R482) -/

/-- Has a sequencer nothing under way? -/
def State.atRest (s : State) (t : Nat) : Bool :=
  let q := s.sq t
  q == sqIdle || q == sqLoaded || q == sqStopped || q == sqDone || q == sqFaulted

/-- Every sequencer of a partition is at rest. -/
def State.partAtRest (s : State) (p : Nat) : Bool := (s.partTiles p).all (s.atRest ·)

/-- Return withdrawn commands to their queues in their former order (R241). -/
def State.returnWithdrawn (s : State) (t : Nat) : State :=
  let ws := (s.tile t).seq.withdrawn
  let s := s.onSeq t (fun q => { q with withdrawn := [] })
  ws.foldl (fun s c => s.setQueue t c.target ((s.tile t).queue c.target ++ [c])) s

/-- Release one sequencer, with event 0x70; a rewind that ended in a stop does its last step now (R202, R205). -/
def State.releaseTile (s : State) (p t : Nat) : State :=
  if s.sq t ≠ sqRamp then s
  else
    let s := (s.returnWithdrawn t).onSeq t (fun q => { q with commits := [] })
    let s := (((s.setSq t sqRun 0).post (rimTile t 0) 0x70 (s.pc t) p).fetchAhead t).showSpan t
    match (s.tile t).seq.replayDue with
    | some failing => (s.replayArmed t (s.pc t) failing).onSeq t (fun q => { q with replayDue := none })
    | none => s

/-- At the release of a STEP_REPLAY with capture every unit of the partition's tiles is cleared, and the trace mask becomes
0b11 (R585). -/
def State.captureStart (s : State) (p : Nat) : State :=
  match (s.part p).replay with
  | some r =>
    if r.capture then
      forTiles (s.partTiles p) (fun s t =>
        ((List.range 8).foldl (fun s u => s.clearUnit t u) s).setF (aTileCntCtrl t) 1 0 3) s
    else s
  | none => s

/-- Resume every halted context of a partition, as the resume of the partition does (R279). -/
def State.resumeCtxs (s : State) (p : Nat) : State :=
  forTiles (s.partTiles p) (fun s t => (List.range 8).foldl (fun s c => s.resumeCtx t c) s) s

/-- SEQUENCER_RELEASE: the ramp has ended; the sequencers run, a pre-empted partition's halted contexts resume, and the JOB_START
or JOB_RESUME is answered (R91, R279, R461). -/
def State.release (s : State) (p : Nat) : State :=
  if !bit (s.rdN aMacRampStatus) p ∨ (s.partArrays p).any (fun x => s.getF (aMacStatus x.1 x.2) 4 4 == 1) then s
  else
    let s := (s.setF aMacRampStatus p p 0).captureStart p
    let s := forTiles (s.partTiles p) (fun s t => s.releaseTile p t) s
    let s := match (s.part p).resuming with
      | some h => (s.resumeCtxs p).onPart p (fun x => { x with resuming := none }) |>.postMp 0xE3 p (s.hoop - h)
      | none => s
    match (s.part p).detail with
    | none => ((s.setJob p 2).finish 0x31 p stOk 0 0).finish 0x34 p stOk 0 0
    | some (d0, d1) => (((s.setJob p 6).finish 0x31 p stFault d0 d1).finish 0x34 p stFault d0 d1).stopPart p 1

/-- SEQUENCER_RELEASE. -/
def execSequencerRelease (p : PartId) (s : State) : Host.Outcome State Fault Refusal := .next (s.clocked (·.release p.val))

/-- Fault detail words of a partition's first fault, zero if none (R462, R463). -/
def State.faultWords (s : State) (p : Nat) : Nat × Nat := (s.part p).detail.getD (0, 0)

/-- The partition has come to rest: a stopped job, and the replies that waited for it (R459, R461). A fault post of the
partition that is on its way to the MP is handled first (R38). -/
def State.partStopped (s : State) (p : Nat) : State :=
  if !s.partAtRest p ∨ s.faults.any (fun f => f.part == p) then s
  else
    let s := if s.job p = 2 then s.setJob p 3 else s
    let (d0, d1) := s.faultWords p
    let s := match (s.part p).replay with
      | some r =>
        let s := (s.onPart p (fun x => { x with replay := none }))
        let s := forTiles (s.partTiles p) (fun s t => s.setF (aTileCntCtrl t) 1 0 r.trace) s
        s.finish 0x43 p (if (s.part p).detail.isSome then stFault else if (s.runOf 0x32 p).isSome then stAborted else stOk)
          (if (s.part p).detail.isSome then d0 else s.rdN (aMpWaleStep p)) d1
      | none => s
    s.finish 0x32 p stOk d0 d1

/-- SEQUENCER_STOPPED: in STOPPING, with every running command completed (R202). -/
def State.seqStopped (s : State) (t : Nat) : State :=
  if s.sq t = sqStopping ∧ (s.tile t).stopDrained ∧ (s.tile t).seq.parityDue.isNone then
    (s.enterStopped t).partStopped (s.tilePartD t)
  else s

/-- SEQUENCER_STOPPED. -/
def execSequencerStopped (t : TileId) (s : State) : Host.Outcome State Fault Refusal := .next (s.clocked (·.seqStopped t.val))

/-- SLATH_FETCH_FAULT: a fetch meets a missing page or an unreachable device: the sequencer waits in BLOCKED with cause
slath fetch, event 0x77, and the MP stops the partition as for a stream fault (R177, R210, R277). -/
def State.fetchFault (s : State) (t block : Nat) : State :=
  if !(s.tile t).fetches.contains block then s
  else
    let s := s.onTile t (fun x => { x with fetches := x.fetches.erase block })
    let s := s.post (rimTile t 0) 0x77 (16 * block) (s.blockAddr t block)
    let s := if s.sq t = sqRun then s.setSq t sqBlocked 3 else s
    s.stopPart (s.tilePartD t) 1

/-- SLATH_FETCH_FAULT. -/
def execSlathFetchFault (t : TileId) (block : Nat) (s : State) : Host.Outcome State Fault Refusal :=
  .next (s.clocked (·.fetchFault t.val block))

/-! ### Pre-emption (R481, R483, R485–R487) -/

/-- Registers of a tile that a save keeps: all but its counters, epochs and their control (R486). -/
def State.savedRegs (s : State) (t : Nat) : List (Nat × W64) :=
  s.regs.filter (fun r => decide (tileBase t ≤ r.1 ∧ r.1 < tileBase t + 0x8000) &&
    !(aTileCntEpoch t :: aTileCntCtrl t :: tileCounters t).contains r.1)

/-- What a save keeps of tile t; VE registers, masks, the slath buffer and the translation cache are not saved (R106, R486). -/
def State.saveTile (s : State) (t : Nat) : SavedTile :=
  let x := s.tile t
  { tile := { x with ve := { x.ve with regs := [], masks := [] }, slath := [], fetches := [], xl := [] }, regs := s.savedRegs t }

/-- Array m of tile t after a restore: the accumulator file of the save, the rest of the array as it stands (R486). -/
def State.restoredArrays (s : State) (t : Nat) (v : SavedTile) : List (Nat × ArrayState) :=
  (List.range 4).foldl (fun l m =>
    mapPut {} l m { (s.tile t).array m with acc := (v.tile.array m).acc, accBad := (v.tile.array m).accBad,
                                            runs := (v.tile.array m).runs }) []

/-- Bring back what a save kept of tile t: its record, and over it its image at an offset of space 0. Windows that stand open
watch their close conditions again (R150), and the slath is refetched (R486, R488). -/
def State.restoreTile (s : State) (t : Nat) (v : SavedTile) (image : Nat) : State :=
  let keep := s.regs.filter (fun r => !(decide (tileBase t ≤ r.1 ∧ r.1 < tileBase t + 0x8000) &&
    !(aTileCntEpoch t :: aTileCntCtrl t :: tileCounters t).contains r.1))
  let s := v.regs.foldl (fun s r => s.wr r.1 r.2) { s with regs := keep }
  let s := s.setTile t { v.tile with
    armed := (s.tile t).armed, arrays := s.restoredArrays t v, xl := (s.tile t).xl }
  ((List.range 16).foldl (fun s n => s.armWindow t n) (s.readImage t image)).fetchAhead t

/-- Start a pre-emption with its cause, 1 slice or 2 JOB_PREEMPT: event 0xE1, and a stop of every tile (R485). -/
def State.preemptStart (s : State) (p cause : Nat) : State :=
  let s := (s.postMp 0xE1 p cause).cnt (aCntPartPreempt p)
  (s.onPart p (fun x => { x with preempt := some (cause, s.hoop) })).stopPart p 2

/-- TIME_SLICE_EXPIRY: a running partition that a queued one waits for is pre-empted, unless a fault of it is on its way
(R481, R483). -/
def State.sliceEnd (s : State) (p : Nat) : State :=
  let wanted := s.ready.any (fun q => s.partHome q &&& s.partHome p ≠ 0)
  if s.job p = 2 ∧ s.rdN (aMpPartSlice p) ≠ 0 ∧ wanted ∧ (s.part p).preempt.isNone ∧ !s.faults.any (fun f => f.part == p) then
    s.preemptStart p 1
  else s

/-- TIME_SLICE_EXPIRY. -/
def execTimeSliceExpiry (p : PartId) (s : State) : Host.Outcome State Fault Refusal := .next (s.clocked (·.sliceEnd p.val))

/-- Run counts of the partition's descriptors, 8 bytes each, in table order (R486). -/
def State.runCounts (s : State) (p : Nat) : List Byte :=
  (List.range (s.rdN (aCeOpCount p))).flatMap (fun d => leBytes 8 (match mapGet none (s.part p).ce d with | some o => o.runs | none => 0))

/-- PREEMPT_ALL_STOPPED: every tile is STOPPED, or has nothing under way; the bound objects' values are in their slices,
and the header is written (R485 steps 4 and 5, R486). -/
def State.preemptSaving (s : State) (p : Nat) : State :=
  match (s.part p).preempt with
  | none => s
  | some _ =>
    if (s.part p).saving ∨ !s.partAtRest p then s
    else
      let hdr := leBytes 2 1 ++ leBytes 1 p ++ leBytes 1 s.grade ++ leBytes 2 (s.partTiles p).length ++ leBytes 2 (s.partHome p)
        ++ leBytes 8 s.hoop
      let counts := s.runCounts p
      let byte (a : Nat) : Byte := if a < 0x1000 then hdr.getD a 0 else counts.getD (a - 0x1000) 0
      (s.writeImage (s.part p).saveArea 65536 byte).onPart p (fun x => { x with saving := true })

/-- PREEMPT_ALL_STOPPED. -/
def execPreemptAllStopped (p : PartId) (s : State) : Host.Outcome State Fault Refusal := .next (s.clocked (·.preemptSaving p.val))

/-- PREEMPT_SAVE_COMPLETE: every tile image stands in the save area, the groups stop being resident, the reply or the
PREEMPTED record is written, and the ready queue is scanned (R485 step 6, R491, R492). The reply's latency counts from the
packet taken, which a slice's expiry may precede (R460, R462). -/
def State.preemptSaved (s : State) (p : Nat) : State :=
  match (s.part p).preempt with
  | none => s
  | some (cause, h) =>
    if !(s.part p).saving then s
    else
      let ts := s.partTiles p
      let s := ts.zipIdx.foldl (fun s x =>
        s.writeImage ((s.part p).saveArea + 65536 + imageSize * x.2) imageSize (s.imageByte x.1)) s
      let saved := ts.map (fun t => (t, s.saveTile t))
      let s := s.onPart p (fun x => { x with preempt := none, saving := false, saved })
      let lat := s.hoop - h
      let s := ((s.setJob p 4).postMp 0xE2 p lat).cnt (aCntPartSaveHclk p) lat
      let s := if cause = 1 then (s.event 8 p lat 0).joinReady p
        else s.finish 0x33 p stOk (((s.runOf 0x33 p).map (fun r => s.hoop - r.hoop)).getD lat) 0
      s.evict p

/-- PREEMPT_SAVE_COMPLETE. -/
def execPreemptSaveComplete (p : PartId) (s : State) : Host.Outcome State Fault Refusal := .next (s.clocked (·.preemptSaved p.val))

/-- RESUME_RESTORE_COMPLETE: every store of the save is back; stopped sequencers wait in RAMP, and the ramp-up starts
(R488). -/
def State.restored (s : State) (p : Nat) : State :=
  match (s.part p).resuming with
  | none => s
  | some _ =>
    if (s.part p).saved.isEmpty then s
    else
      let s := (s.part p).saved.zipIdx.foldl (fun s x =>
        s.restoreTile x.1.1 x.1.2 ((s.part p).saveArea + 65536 + imageSize * x.2)) s
      let s := s.onPart p (fun x => { x with saved := [] })
      let s := forTiles (s.partTiles p) (fun s t => s.setF (aTileCntCtrl t) 1 0 (s.part p).trace) s
      let s := forTiles (s.partTiles p) (fun s t => if s.sq t = sqStopped then s.setSq t sqRamp 0 else s) s
      s.rampUp p

/-- RESUME_RESTORE_COMPLETE. -/
def execResumeRestoreComplete (p : PartId) (s : State) : Host.Outcome State Fault Refusal := .next (s.clocked (·.restored p.val))

/-! ### The reset of a partition (R510) -/

/-- Chunks held for the groups of a partition are dropped (R408, log entry 39). -/
def State.dropPartChunks (s : State) (p : Nat) : State :=
  let x := s.part p
  { s with coll := s.coll.filter (fun c => !decide (x.groupBase ≤ c.group ∧ c.group < x.groupBase + x.groupCount)) }

/-- Collective descriptors of a partition are disarmed, and chunks held for its groups dropped. -/
def State.disarm (s : State) (p : Nat) : State :=
  ((s.dropPartChunks p).onPart p (fun x => { x with ce := [] })).wrN (aCeOpCount p) 0

/-- Any wale in progress ends; its slot stays incomplete (R432, R510). -/
def State.endWale (s : State) (p : Nat) : State :=
  (s.onPart p (fun x => { x with wale := { x.wale with due := false, mirror := none } })).setF (aMpWaleStatus p) 31 30 0

/-- The commands of a partition that run or wait end ABORTED, in submission order (R459). -/
def State.abortPart (s : State) (p : Nat) : State :=
  let own (k : List Byte) : Bool := pktPart k == p && pktOpcode k ≠ 0x80
  let run := s.host.running.filter (fun r => own r.pkt)
  let s := run.foldl (fun s r => s.endRun r stAborted 0 0) s
  let wait := s.host.fifo.filter own
  let s := s.onHost (fun h => { h with fifo := h.fifo.filter (fun k => !own k) })
  (wait.foldl (fun s k => (s.cnt aCntHifPackets).reply k stAborted 0 0) s).hifShow

/-- A partition reset: its resident groups are reset and cleared, its image, descriptors, wales and place in the queue are
gone, its job state is none; it keeps its resources, groups and objects (R510). -/
def State.partReset (s : State) (p : Nat) : State :=
  let s := if s.partResident p then s.groupReset (s.partHome p) true else s
  let s := s.holdBlock 3 p
  let s := (s.disarm p).endWale p
  let s := s.onPart p (fun x => { x with
    saved := [], preempt := none, saving := false, resuming := none, replay := none, copy := none, loads := [], faults := 0, detail := none })
  let s := s.setF aMacRampStatus p p 0
  let s := s.setF aMacRampStatus (16 + p) (16 + p) 0
  ((s.leaveReady p).setJob p 0).scanReady

end Sys2Proof.Machine
end

