-- ==== Sys2Proof/Machine/Freeze.lean ====
section
/-! DEFINITION. Counter clears, freeze triggers and unfreeze, the break (R555–R558, R572–R580, R584). -/
namespace Sys2Proof.Machine

/-! ### CNT_CLEAR (R557, R558) -/

/-- Apply a clear of one domain. -/
def State.clearDomain (s : State) (kind index units : Nat) (atStart : Bool) : State :=
  match kind with
  | 0 => (List.range 8).foldl (fun s u =>
      if !bit units u then s
      else if atStart ∧ u < 6 then s.onTile index (fun x => { x with armed := (x.armed.erase u) ++ [u] })
      else s.clearUnit index u) s
  | 1 => if index < 16 then s.clearPort index else s
  | 2 => if index < 16 then s.clearChan index else s
  | _ => if index < 8 then s.clearHub index else s

/-- A write of CNT_CLEAR: the fields are stored; go applies the clear in this step, so busy never stays set. A write
with go while busy would be ignored and logged. -/
def State.cntClear (s : State) (v : Nat) : State :=
  if bit v 0 ∧ s.getF aCntClear 31 31 = 1 then s.postMp 0xD6 v aCntClear
  else
    let s := s.setF aCntClear 30 10 (bits v 30 10)
    if bit v 0 then s.clearDomain (bits v 29 28) (bits v 27 18) (bits v 17 10) (bit v 30) else s

/-! ### Freeze (R572–R576, R579, R588) -/

/-- Is the device frozen? -/
def State.frozen (s : State) : Bool := s.getF aDbgFreezeStatus 10 10 == 1

/-- Is a bit of DBG_FREEZE_CTRL set? -/
def State.dbgEn (s : State) (i : Nat) : Bool := s.getF aDbgFreezeCtrl i i == 1

/-- Freeze the device with a cause, unless it is frozen: the hoop value is kept, every port enters FROZEN, the mode reads
frozen, and FREEZE_N is driven where drive_pin asks for it. -/
def State.freeze (s : State) (cause port : Nat) : State :=
  if s.frozen then s
  else
    let s := ((s.setF aDbgFreezeStatus 10 10 1).setF aDbgFreezeStatus 3 0 cause).setF aDbgFreezeStatus 8 4 port
    let s := (s.wrN aDbgFreezeHoop s.hoop).cnt aCntDbgFreeze
    let s := s.postMp 0xE8 cause (if cause = 3 then port else 0)
    let s := { s with dbg := { s.dbg with mode := s.getF aHifStatus 2 0, driving := s.dbgEn 3 && cause ≠ 1 } }
    (s.setMode 4).freezePorts

/-- Restart every stopped clock, with event 0xEA in the restart tick; each port returns to the state it left (R579). -/
def State.unfreezeNow (s : State) : State :=
  if !s.frozen then s
  else
    let s := s.postMp 0xEA (s.getF aDbgFreezeStatus 3 0) (s.hoop - s.rdN aDbgFreezeHoop)
    ((s.setF aDbgFreezeStatus 10 10 0).setMode s.dbg.mode).thawPorts

/-- FREEZE_N: a falling edge freezes the device while pin_en is set; the pin is sampled only after step 8 of the cold
release (R573, R594). -/
def execFreezeN (asserted : Bool) (s : State) : Host.Outcome State Fault Refusal :=
  .next (if asserted && s.dbgEn 2 && decide (8 ≤ s.pwr.released) then s.freeze 1 0 else s)

/-- FREEZE_AT_REACHED: HOOP_NOW stands at the armed value (R575); the event itself tells that the hoop has got there. -/
def State.freezeAtReached (s : State) : State :=
  if s.getF aDbgFreezeStatus 9 9 = 1 then
    (({ s with hoop := max s.hoop (s.rdN aDbgFreezeAt) }).setF aDbgFreezeStatus 9 9 0).freeze 2 0
  else s

/-- FREEZE_AT_REACHED. -/
def execFreezeAtReached (s : State) : Host.Outcome State Fault Refusal := .next s.freezeAtReached

/-- HELD_PROPAGATION: with held_prop set and no FREEZE_AT armed (R573, R576). -/
def execHeldPropagation (p : PortId) (s : State) : Host.Outcome State Fault Refusal :=
  .next (if s.dbgEn 4 && s.getF aDbgFreezeStatus 9 9 == 0 && s.getF (aLnkStatus p.val) 2 2 == 1 then s.freeze 3 p.val else s)

/-- BREAK_REACHED: 16 ACLK after the named entry executed for the n-th time (R584). -/
def State.breakReached (s : State) : State :=
  if s.dbg.breakDue ∧ s.dbgEn 7 then
    let b := s.rdN aDbgBreak
    (({ s with dbg := { s.dbg with breakDue := false } }).postMp 0xEB (bits b 63 54) (bits b 53 34)).freeze 6 0
  else s

/-- BREAK_REACHED. -/
def execBreakReached (s : State) : Host.Outcome State Fault Refusal := .next (s.clocked (·.breakReached))

/-- FREEZE_PIN_RELEASE: after 1,200 HCLK the pin is let go (R574). -/
def execFreezePinRelease (s : State) : Host.Outcome State Fault Refusal :=
  .next { s with dbg := { s.dbg with driving := false } }

/-- CHALLENGE_EXPIRY (R548). -/
def execChallengeExpiry (s : State) : Host.Outcome State Fault Refusal :=
  .next { s with sec := { s.sec with challenge := none } }

end Sys2Proof.Machine
end

