-- ==== Sys2Proof/Machine/Local.lean ====
section
/-! DEFINITION. Requests for the own device, which never leave it, and the requests that wait at their issuers (R382, R387,
R391). -/
namespace Sys2Proof.Machine

/-- A COLL packet from device src at the collective engine: held for its run, or 0x35 GROUP (R407, R408). -/
def State.collChunk (s : State) (src addr operand : Nat) (data : List Byte) : Nat × State :=
  let g := bits operand 31 22
  if !s.groupValid g ∨ s.groupVersion g % 65536 ≠ bits operand 15 0 then (0x35, s)
  else (0, { s with coll := s.coll ++ [{ run := bits addr 63 32, group := g, src, seg := bits addr 31 16,
                                         chunk := bits addr 15 0, data }] })

/-- A READ or WRITE of a hub unit at the own device: space 0 through the L2, a tile through its windows. -/
def State.localAccess (s : State) (r : OutReq) : Nat × List Byte × State :=
  let off := bits r.addr 44 0
  let sp := bits r.addr 47 45
  if sp = 0 then
    if s.ddrBytes < off + r.operand then (0x22, [], s)
    else if r.ptype = 2 then (0, [], s.memWrite off r.data r.cls)
    else
      let (d, _, s) := s.memRead off r.operand r.cls
      (0, d, s)
  else if off / 2 ^ 31 ≠ 0 ∨ (sp = 3 ∧ bit off 20) then (0x22, [], s)
  else s.hubWindow sp off r.operand (r.ptype == 2) r.data

/-- A request whose device ID is the own one reaches its destination unit: no peer context, and the checks of that unit alone
(R382, R480). -/
def State.deliverLocal (s : State) (r : OutReq) : State :=
  match r.asker with
  | .ctx _ _ _ => s.requeue r.id s.localStage
  | .signal t => s.localSignal t { remote := true, set := r.ptype == 4, dev := r.dev, obj := bits r.addr 44 0 / 4, val := r.operand }
  | _ =>
    if r.ptype = 6 then
      let (st, s) := s.collChunk s.devId r.addr r.operand r.data
      s.outcome r st none [] 0
    else
      let (st, d, s) := s.localAccess r
      s.outcome r st none d 0

/-- Requests that waited are tried again, in order; those that the own ID has come to name are delivered (R382, R391). -/
def State.drainOutbox (s : State) : State :=
  let l := s.fab.outbox
  let t := l.foldl (fun s r => if r.dev = s.devId then s.deliverLocal r else s.fabSend r)
    { s with fab := { s.fab with outbox := [] } }
  if l.any (fun r => decide (r.dev = s.devId)) then t.ceAll else t

/-- A peer context times out (R394): counted, event 0xB0, the host's PEER_UNREACHABLE record. -/
def State.ctxTimeout (s : State) (c : Nat) : State :=
  match s.pctx c with
  | none => s
  | some x =>
    let s := ((s.cnt aCntFabTimeout).postMp 0xB0 c x.peer).event 6 255 x.peer 0
    (s.closeHalf c 0x30).drainOutbox

/-- The transport's share of an HCLK: requests that wait go where they can, and each that waits for want of a context counts
the HCLK's two NCLK (R391; the count is kept for each request, log entry 86). -/
def State.fabTick (s : State) : State :=
  let s := if s.fab.outbox.isEmpty then s else s.drainOutbox
  let n := if s.idValid then (s.fab.outbox.filter (fun r => r.dev != s.devId && (s.takeCtx r.dev).isNone)).length else 0
  if n = 0 then s else s.cnt aCntFabCtxWait (2 * n)

end Sys2Proof.Machine
end

