-- ==== Sys2Proof/Machine/Reset.lean ====
section
/-! DEFINITION. Throttling, supply dips, resets and their release, boot, power states (R493–R527, R532, R593, R601). -/
namespace Sys2Proof.Machine

/-! ### Throttling (R495, R496) -/

/-- Active throttle sources: bit 0 firmware, 1 VR_HOT_N, 2 temperature. -/
def State.throttleSources (s : State) : Nat := 1 + 2 * s.getF aClkStatus 24 24 + 4 * s.getF aClkStatus 25 25

/-- The smallest level that the active sources request. -/
def State.throttleLevel (s : State) : Nat :=
  let a := s.throttleSources
  let l := s.getF aClkThrottle 6 0
  let l := if bit a 1 then min l (s.getF aClkThrottle 14 8) else l
  if bit a 2 then min l (s.getF aClkThrottle 22 16) else l

/-- THROTTLE_FRAME_BOUNDARY: L takes the level requested, with event 0xF0 where it changes. -/
def State.throttleFrame (s : State) : State :=
  let l := s.throttleLevel
  if s.getF aClkStatus 6 0 = l then s else (s.setF aClkStatus 6 0 l).postMp 0xF0 l s.throttleSources

/-- THROTTLE_FRAME_BOUNDARY: a frame counts periods of clocks that run; a freeze holds L (R495, R579). -/
def execThrottleFrameBoundary (s : State) : Host.Outcome State Fault Refusal := .next (s.clocked (·.throttleFrame))

/-- VR_HOT_CHANGE. -/
def execVrHotChange (on : Bool) (s : State) : Host.Outcome State Fault Refusal := .next (s.setF aClkStatus 24 24 (b2n on))

/-- THERMAL_THROTTLE_CHANGE (R496, R601). -/
def execThermalThrottleChange (on : Bool) (s : State) : Host.Outcome State Fault Refusal := .next (s.setF aClkStatus 25 25 (b2n on))

/-! ### Supply dips (R499–R501) -/

/-- Set D. -/
def State.setDip (s : State) (d : Nat) : State := (s.setF aClkStatus 14 8 d).setF aClkStatus 26 26 (b2n (decide (d < 64)))

/-- SUPPLY_DIP_WARNING: D becomes 32, a hold or ramp ends, event 0xF1, counted (R500, R501). -/
def State.dipWarning (s : State) (rail : Nat) : State :=
  let s := (s.setDip 32).wrN aPwrDipStatus 1
  let s := (s.cnt aCntPwrDip).postMp 0xF1 rail 0
  { s with pwr := { s.pwr with dipAt := s.hoop, dipRail := rail } }

/-- SUPPLY_DIP_WARNING. -/
def execSupplyDipWarning (rail : Fin 2) (s : State) : Host.Outcome State Fault Refusal := .next (s.dipWarning rail.val)

/-- SUPPLY_DIP_RECOVERY: the hold begins. -/
def execSupplyDipRecovery (s : State) : Host.Outcome State Fault Refusal :=
  .next (if s.getF aPwrDipStatus 0 0 = 1 then s.wrN aPwrDipStatus 2 else s)

/-- An array that computes nothing and runs no ballast begins it. -/
def State.fillArray (s : State) (x : Nat × Nat) : State :=
  if s.getF (aMacStatus x.1 x.2) 1 1 = 0 ∧ s.getF (aMacStatus x.1 x.2) 3 3 = 0 then s.ballastStart x.1 x.2 0 else s

/-- Ballast fills every idle array, where ACLK runs (R90, R501). -/
def State.fillIdle (s : State) : State :=
  if s.powerState = 0 ∧ 7 ≤ s.pwr.released then
    s.clocked (fun s => ((List.range 1024).flatMap (fun t => (List.range s.arraysPerTile).map (fun m => (t, m)))).foldl
      (·.fillArray ·) s)
  else s

/-- DIP_HOLD_EXPIRY: the ramp begins, with D at 33. -/
def execDipHoldExpiry (s : State) : Host.Outcome State Fault Refusal :=
  .next (if s.getF aPwrDipStatus 1 1 = 1 then ((s.wrN aPwrDipStatus 4).setDip 33).fillIdle else s)

/-- DIP_RAMP_STEP: D rises by one; at 64 the ramp ends with event 0xF2. -/
def State.dipStep (s : State) : State :=
  if s.getF aPwrDipStatus 2 2 = 0 then s
  else
    let d := min 64 (s.getF aClkStatus 14 8 + 1)
    let s := s.setDip d
    if d = 64 then (s.wrN aPwrDipStatus 0).postMp 0xF2 s.pwr.dipRail (s.hoop - s.pwr.dipAt) else s

/-- DIP_RAMP_STEP. -/
def execDipRampStep (s : State) : Host.Outcome State Fault Refusal := .next s.dipStep

/-! ### Cold and power-on resets (R503–R505, R512, R521) -/

/-- Registers that keep their values: those whose addresses satisfy a test. -/
def State.keepRegs (s : State) (p : Nat → Bool) : List (Nat × W64) := s.regs.filter (fun r => p r.1)

/-- A cold or power-on reset with its cause: OTP, flash, the sticky log and the grade stay, all else is lost; the reset
sequencer writes a sticky record (R503, R504, R521). `all` tells a rise of VDD_AON, which clears the retained store. -/
def State.coldReset (s : State) (cause : Nat) (all : Bool) : State :=
  let regs := s.keepRegs (fun a => a == aHifId || (!all && decide (aRstSticky 0 ≤ a ∧ a < aRstSticky 0 + 0x80)))
  let hoop := s.hoop
  let t : State := { regs, hoop, otp := s.otp, free := s.free, pending := s.pending, jtag := s.jtag, host := { mem := s.host.mem },
                     pwr := { bootMode := s.pwr.bootMode, anchorStrap := s.pwr.anchorStrap } }
  let t := (t.sticky cause).wrN aRstCause cause
  { t with hoop := 0 }

/-- A reset other than power-on that meets an OTP pulse is held until the pulse ends (R511). -/
def State.deferReset (s : State) (kind arg : Nat) (act : State → State) : State :=
  if s.sec.pulse then { s with sec := { s.sec with held := s.sec.held ++ [{ kind, arg, hoop := s.hoop }] } } else act s

/-- POWER_ON_RESET: 0 VDD_AON rise, 1 a core rail below its reset level, 2 PWR_GOOD deasserted (R503, R525). -/
def execPowerOnReset (source : Fin 3) (s : State) : Host.Outcome State Fault Refusal :=
  .next (s.coldReset (source.val + 1) (source.val == 0))

/-- RESET_N. -/
def execResetN (s : State) : Host.Outcome State Fault Refusal := .next (s.deferReset 2 4 (·.coldReset 4 false))
/-- PERST_N. -/
def execPerstN (s : State) : Host.Outcome State Fault Refusal := .next (s.deferReset 2 5 (·.coldReset 5 false))
/-- REFCLK_STOP: as an asserted RESET_N (R593). -/
def execRefclkStop (s : State) : Host.Outcome State Fault Refusal := .next (s.deferReset 2 4 (·.coldReset 4 false))

/-- RESET_SOURCES_DEASSERTED: time 0 of the cold release (R505). -/
def execResetSourcesDeasserted (s : State) : Host.Outcome State Fault Refusal :=
  .next (if s.pwr.deasserted ∨ s.pwr.released ≠ 0 then s else { s with pwr := { s.pwr with deasserted := true } })

/-- RESET_RELEASE_STEP: the next domain leaves reset, in the order of R505; a warm release passes over step 4 (R506).
Step 1 locks the PLL and starts the hoop at zero. -/
def State.releaseStep (s : State) : State :=
  if !s.pwr.deasserted ∨ 8 ≤ s.pwr.released then s
  else
    let n := if s.pwr.warm ∧ s.pwr.released = 3 then 5 else s.pwr.released + 1
    let s := { s with pwr := { s.pwr with released := n } }
    if n = 1 then ({ s with hoop := 0 }).setF aClkStatus 31 31 1 else s

/-- RESET_RELEASE_STEP. -/
def execResetReleaseStep (s : State) : Host.Outcome State Fault Refusal := .next s.releaseStep

/-! ### Boot (R469, R532, R536) -/

/-- The configuration record of kind 0x03: grade, stepping, BOOT_MODE, vendor and operator slot states, anti-rollback
counter, one byte each (the order of R536; the widths are the model's). -/
def State.configRecord (s : State) : List Byte :=
  let v (k : Nat) : Nat := let x := s.vendorSlot k; if x.1.isEmpty then 0 else if x.2 then 2 else 1
  [BitVec.ofNat 8 s.grade, 0x42, BitVec.ofNat 8 s.pwr.bootMode, BitVec.ofNat 8 (v 0 + 4 * v 1), BitVec.ofNat 8 s.opCodes,
   BitVec.ofNat 8 s.otp.arb]

/-- The image in flash: as many bytes from offset 0 as its header says, at most 32 MiB. -/
def State.flashImage (s : State) : List Byte :=
  let at_ (i : Nat) : Byte := mapGet 0 s.otp.flash i
  (List.range (min (2 ^ 25) (leVal [at_ 8, at_ 9, at_ 10, at_ 11]))).map at_

/-- A boot check fails: recovery, with the step in SEC_BOOT_STATUS and event 0xF9 (R469, R532, R554). -/
def State.bootFail (s : State) (n : Nat) : State :=
  (((s.setF aSecBootStatus 19 16 n).setF aSecBootStatus 15 0 0).postMp 0xF9 n 0).setMode 2

/-- ROM step 7: the anti-rollback counter and the revoke request are programmed, MS1 is extended, the MP starts. -/
def State.bootImage (s : State) (img : List Byte) : State :=
  let sc := imgField img 0xC 1
  let rev := imgField img 0xE 1
  let slot := imgField img 0xD 1
  let ver := imgField img 6 2
  let o := s.otp
  let o' := { o with arb := max o.arb sc, revoke0 := o.revoke0 || (bit rev 0 && slot ≠ 0),
                     revoke1 := o.revoke1 || (bit rev 1 && slot ≠ 1) }
  let s := { s with otp := o', sec := { s.sec with pulse := s.sec.pulse || decide (o' ≠ o), image := some (imageDigest img, ver) } }
  let s := (s.extend 1 2 (imageDigest img)).secShow
  ((s.setF aSecBootStatus 15 0 ver).setF aSecBootStatus 19 16 0).postMp 0xF8 sc ver

/-- BOOT_VERIFY: the ROM's steps, once the MP's domain is released: the fuse map of the arrays is applied from OTP (R101); `otpRepairs` pairs are repaired (R532). -/
def State.bootVerify (s : State) (otpRepairs : Nat) : State :=
  if s.pwr.released < 3 ∨ s.getF aHifStatus 2 0 ≠ 0 ∨ s.sec.image.isSome then s
  else
    let s := { s with pwr := { s.pwr with fused := s.otp.fuse } }
    let s := (s.cnt aCntSecOtpRepair otpRepairs).setF aSecBootStatus 31 24 (min 255 otpRepairs)
    let s := (((s.setMeas 0 []).setMeas 1 []).setMeas 2 []).setMeas 3 []
    let s := ((s.extend 0 1 Config.romDigest).extend 2 3 s.configRecord).secShow
    if s.pwr.bootMode ≠ 0 then s.bootFail 2
    else match s.imageCheck s.flashImage with
    | 0 => s.bootImage s.flashImage
    | n => s.bootFail n

/-- BOOT_VERIFY. -/
def execBootVerify (otpRepairs : Nat) (s : State) : Host.Outcome State Fault Refusal := .next (s.bootVerify otpRepairs)

/-- MP_READY: firmware has started: the mode turns to normal, DDR leaves self-refresh, a cold boot rebuilds the remap table and
the erasures from the persistent log, and a WARM_RESET is answered (R333, R416, R506, R521). -/
def State.mpReady (s : State) : State :=
  if s.getF aHifStatus 2 0 = 0 ∧ s.sec.image.isSome ∧ 8 ≤ s.pwr.released then
    let s := if s.pwr.warm then s else s.rebuildDdr
    let s := { s with mem := { s.mem with selfRefresh := false }, pwr := { s.pwr with warm := false } }
    (s.setMode 1).finish 0x81 255 stOk 0 0
  else s

/-- MP_READY. -/
def execMpReady (s : State) : Host.Outcome State Fault Refusal := .next s.mpReady

/-! ### Warm reset (R506, R507, R521) -/

/-- Every command that runs ends ABORTED, but for the WARM_RESET itself (R459). -/
def State.abortRuns (s : State) : State :=
  ((s.host.running.filter (fun r => decide (pktOpcode r.pkt ≠ 0x81))).foldl (fun s r => s.endRun r stAborted 0 0) s).hifShow

/-- Steps 2–5 of a warm reset; what R521 keeps over it stays. The release of R505 follows from step 2. -/
def State.warmReset (s : State) : State :=
  let s := s.l2Flush
  let ready := s.getF aDdrStatus 1 0 == 2
  let keep (a : Nat) : Bool :=
    (decide (a < 0x100)) || a == aRstCause || decide (aRstSticky 0 ≤ a ∧ a < aRstSticky 0 + 0x80)
      || decide (aDdrRemap 0 ≤ a ∧ a < aDdrRemap 512) || (List.range 16).any (fun c => a == aDdrChErase c)
      || (ready && (a == aDdrStatus || decide (aDdrInitPtr 0 ≤ a ∧ a < aDdrInitPtr 16)))
      || a == aClkStatus || a == aPwrDipStatus
  let t : State :=
    { regs := s.keepRegs keep, hoop := s.hoop, otp := s.otp, free := s.free, pending := s.pending, jtag := s.jtag, host := s.host,
      mem := { ddr := s.mem.ddr, ddrPoison := s.mem.ddrPoison, selfRefresh := ready, scrubAt := s.mem.scrubAt,
               scrubStart := s.mem.scrubStart, scrubDone := s.mem.scrubDone, hot := s.mem.hot },
      pwr := { bootMode := s.pwr.bootMode, anchorStrap := s.pwr.anchorStrap, released := 1, warm := true, deasserted := true,
               thermtrip := s.pwr.thermtrip, alert := s.pwr.alert, dipAt := s.pwr.dipAt, dipRail := s.pwr.dipRail } }
  let t := t.onHost (fun h => { h with load := none, lows := [], highs := [], rngLows := [], rngCaps := [] })
  let t := (t.sticky 6).wrN aRstCause 6
  (t.setF aHifStatus 6 6 0).setMode 0

/-- WARM_RESET acts: a freeze ends first; every other command ends ABORTED (R459, R506, R512). -/
def State.doWarm (s : State) : State :=
  let s := if s.frozen then (s.setF aDbgFreezeStatus 10 10 0).setMode s.dbg.mode else s
  s.abortRuns.warmReset

/-! ### Block resets (R508–R511) -/

/-- TILE_GROUP_RESET: a write of RST_GROUP. -/
def State.tileGroupReset (s : State) (mask : Nat) : State := s.deferReset 5 mask (·.groupReset mask false)

/-- TILE_GROUP_RESET. -/
def execTileGroupReset (groups : BitVec 16) (s : State) : Host.Outcome State Fault Refusal :=
  .next (s.clocked (·.tileGroupReset groups.toNat))

/-- A write of RST_PORT. -/
def State.rstPort (s : State) (mask : Nat) : State :=
  (((List.range 16).filter (bit mask ·)).foldl (fun s p => s.portReset p) s).holdBlock 2 mask

/-- BLOCK_RESET_RELEASE: every domain of the blocks held is released, and a PARTITION_RESET is answered (R508, R461). -/
def State.blockRelease (s : State) : State :=
  let bs := s.pwr.blocks
  let s := { s with pwr := { s.pwr with blocks := [] } }
  bs.foldl (fun s b => if b.1 = 3 then s.finish 0x80 b.2 stOk 0 0 else s) s

/-- BLOCK_RESET_RELEASE. -/
def execBlockResetRelease (s : State) : Host.Outcome State Fault Refusal := .next (s.clocked (·.blockRelease))

/-- OTP_PULSE_END: the resets held back act, each with event 0xF5 (R511, R527). -/
def State.pulseEnd (s : State) : State :=
  let held := s.sec.held
  let now := s.hoop
  let s := { s with sec := { s.sec with pulse := false, held := [] } }
  held.foldl (fun s h =>
    match h.kind with
    | 2 => (s.coldReset h.arg false).postMp 0xF5 h.arg (now - h.hoop)
    | 3 => s.doWarm.postMp 0xF5 6 (now - h.hoop)
    | 4 => (s.postMp 0xF5 0 (now - h.hoop)).partReset h.arg
    | _ => (s.postMp 0xF5 0 (now - h.hoop)).groupReset h.arg false) s

/-- OTP_PULSE_END. -/
def execOtpPulseEnd (s : State) : Host.Outcome State Fault Refusal := .next s.pulseEnd

/-! ### THERMTRIP (R601) -/

/-- THERMTRIP: THERMTRIP_N is asserted until a cold reset, a freeze ends, and a fatal fault is taken with cause 0x13. The
sensors act from step 1 of the release, and a latched trip is no second one. -/
def State.thermTrip (s : State) : State :=
  if s.pwr.released = 0 ∨ s.pwr.thermtrip then s else
  let s := if s.frozen then s.setF aDbgFreezeStatus 10 10 0 else s
  ({ s with pwr := { s.pwr with thermtrip := true } }).fatal 0x13

/-- THERMTRIP. -/
def execThermtrip (s : State) : Host.Outcome State Fault Refusal := .next s.thermTrip

/-! ### Power states (R513–R520) -/

/-- Is a partition running, in ramp, pre-empting, resuming or restoring? -/
def State.partBusy (s : State) (p : Nat) : Bool :=
  let x := s.part p
  s.job p == 2 || bit (s.rdN aMacRampStatus) p || bit (s.rdN aMacRampStatus) (16 + p) || x.preempt.isSome || x.resuming.isSome

/-- Is the device idle (R514)? -/
def State.deviceIdle (s : State) : Bool :=
  (List.range 16).all (fun p => !s.partBusy p && s.getF (aMpWaleStatus p) 31 30 == 0 &&
      (s.part p).ce.all (fun d => match d.2 with | some o => o.run.isNone | none => true))
    && s.host.fifo.isEmpty && s.host.running.isEmpty && s.getF aDdrRetireCtrl 31 31 == 0 && s.getF aDdrStatus 7 7 == 1
    && !s.frozen && s.getF aHifStatus 2 0 == 1

/-- Is every window of every tile closed? -/
def State.windowsClosed (s : State) : Bool := s.tiles.all (fun x => (List.range 16).all (fun n => !s.winOpen x.1 n))

/-- Deepest state that a tolerance in µs permits (R513, R515). -/
def deepest (tol : Nat) : Nat := if 120000 ≤ tol then 4 else if 8000 ≤ tol then 3 else if 80 ≤ tol then 2 else if 2 ≤ tol then 1 else 0

/-- Deepest state whose conditions hold (R514). -/
def State.deepestIdle (s : State) : Nat :=
  let doze := s.getF aPwrDozeBase 0 0 == 1
  let quiet := (List.range 16).all (fun p =>
    let st := s.lk p
    !(st == lkActive || st == lkAuth || st == lkQuarantine || st == lkRetrain || st == lkFrozen))
  if !s.windowsClosed then 1 else if !doze then 2 else if !quiet then 3 else 4

/-- POWER_STATE_ENTRY: idle for the dwell time, the device starts to enter the deepest permitted state (R515). -/
def State.powerEntry (s : State) : State :=
  let n := min (deepest (s.rdN aPwrTol)) s.deepestIdle
  if s.deviceIdle ∧ s.powerState = 0 ∧ s.getF aPwrStatus 11 11 = 0 ∧ !s.pwr.waking ∧ n ≠ 0 then
    ({ s with pwr := { s.pwr with entryAt := s.hoop } }.setF aPwrStatus 11 11 1).setF aPwrStatus 10 8 n
  else s

/-- POWER_STATE_ENTRY. -/
def execPowerStateEntry (s : State) : Host.Outcome State Fault Refusal := .next (s.clocked (·.powerEntry))

/-- POWER_STATE_ENTRY_COMPLETE: the entry work of the state is done (R513, R516, R570). -/
def State.powerEntered (s : State) : State :=
  if s.getF aPwrStatus 11 11 = 0 ∨ s.pwr.waking then s
  else
    let n := s.getF aPwrStatus 10 8
    let s := if 3 ≤ n then
        let base := s.getF aPwrDozeBase 41 32 * 2 ^ 32
        let s := (List.range 1024).foldl (fun s k => s.writeImage (base + imageSize * k) imageSize (s.dozeByte k)) s
        let s := s.l2Flush
        { s with rims := s.rims.filter (fun r => decide (16384 ≤ r.1)) }
      else s
    let s := if n = 4 then
        { s with mem := { s.mem with l2 := [], selfRefresh := true }, rims := s.rims.filter (fun r => decide (r.1 = rimMp)) }
      else s
    ((s.setF aPwrStatus 11 11 0).setF aPwrStatus 2 0 n).postMp 0xF3 n (s.hoop - s.pwr.entryAt)

/-- POWER_STATE_ENTRY_COMPLETE. -/
def execPowerStateEntryComplete (s : State) : Host.Outcome State Fault Refusal := .next (s.clocked (·.powerEntered))

/-- Is a cause of PWR_STATUS.wake one that wakes from the state in force: 4 in P1 and 5 in P4 alone (R518, R527)? -/
def State.wakes (s : State) (cause : Nat) : Bool :=
  decide (1 ≤ cause ∧ cause ≤ 3) || (cause == 4 && s.powerState == 1) || (cause == 5 && s.powerState == 4)

/-- WAKE_EVENT. -/
def execWakeEvent (cause : Fin 16) (s : State) : Host.Outcome State Fault Refusal :=
  .next (if s.wakes cause.val then s.clocked (·.wake cause.val) else s)

/-- POWER_STATE_EXIT_COMPLETE: every tile can execute again, event 0xF4 (R516, R527). -/
def State.powerExited (s : State) : State :=
  if !s.pwr.waking then s
  else
    let n := s.powerState
    let s := { s with pwr := { s.pwr with waking := false }, mem := { s.mem with selfRefresh := if n = 4 then false else s.mem.selfRefresh } }
    let s := (s.setF aPwrStatus 2 0 0).setF aPwrStatus 10 8 0
    if n = 0 then s else s.postMp 0xF4 n (s.getF aPwrStatus 15 12)

/-- POWER_STATE_EXIT_COMPLETE. -/
def execPowerStateExitComplete (s : State) : Host.Outcome State Fault Refusal := .next (s.clocked (·.powerExited))

/-- The state in force, or the one being entered. -/
def State.stateInForce (s : State) : Nat := if s.getF aPwrStatus 11 11 = 1 then s.getF aPwrStatus 10 8 else s.powerState

/-- SET_LATENCY_TOLERANCE: a tolerance lowered below the exit latency of the state in force, or of the one being entered,
wakes the device (R515). -/
def State.setTolerance (s : State) (tol : Nat) : State :=
  let n := s.stateInForce
  let s := s.wrN aPwrTol tol
  if deepest tol < n then s.wake 2 else s

end Sys2Proof.Machine
end

