-- ==== Sys2Proof/Machine/RegWrite.lean ====
section
/-! DEFINITION. Register accesses by the host, the MP and remote devices: field types, split halves, what a write does, and
what drops it (R10–R13, R37, R133, R340, R452, R453, R465, R519, R578, R581). -/
namespace Sys2Proof.Machine

/-! ### The reply ring's head (R465) -/

/-- The host reports consumption: a head ahead of the tail or behind the last head is ignored and logged. -/
def State.ringHead (s : State) (v : Nat) : State :=
  let h := s.rdN aHifRingHead
  let d := (v + 2 ^ 32 - h) % 2 ^ 32
  if s.ringUsed < d then s.postMp 0xD2 0 v
  else
    let s := s.onHost (fun x => { x with evRecs := x.evRecs.filter (fun c => decide (d ≤ (c + 2 ^ 32 - h) % 2 ^ 32)) })
    (s.wrN aHifRingHead v).drainReplies 257

/-- An aperture write of a wrong size or place is dropped (R454, R474). -/
def State.badWrite (s : State) (off len : Nat) : State :=
  (((s.setF aHifStatus 7 7 1).cnt aCntHifBadWrite).event 11 255 off len).postMp 0xD0 len off

/-! ### Writes by field type (R11, R12) -/

/-- A field after a write of v. -/
def FieldSpec.write (f : FieldSpec) (v old : Nat) : Nat :=
  let x := bits v f.hi f.lo
  let y := bits old f.hi f.lo
  match f.ty with
  | .rw => setBits old f.hi f.lo x
  | .w1c => setBits old f.hi f.lo (y - (y &&& x))
  | .w1s => setBits old f.hi f.lo (y ||| x)
  | _ => old

/-- Bring a field between two bounds. -/
def clampF (v hi lo least most : Nat) : Nat := setBits v hi lo (max least (min most (bits v hi lo)))

/-- A field value that leaves the field unchanged. -/
def keepF (v old hi lo no : Nat) : Nat := if bits v hi lo = no then setBits v hi lo (bits old hi lo) else v

/-- FAB_CFG: the smallest idle_release that R395 allows, at most 255 ms. -/
def fabCfgWrite (v : Nat) : Nat :=
  let need := (4 * max 1 (bits v 15 0) * (bits v 23 20 + 1) + 999) / 1000
  setBits v 31 24 (max (bits v 31 24) (min 255 need))

/-- What a write stores where a register's table limits it (R88, R95, R208, R244, R245, R296, R374, R395, R420, R523). -/
def limitWrite (a old v : Nat) : Nat :=
  if 0x2000000 ≤ a then
    let o := a % 0x8000
    if o = 0x1100 then keepF (clampF v 26 16 8 1024) old 1 0 3
    else if o = 0x4900 then (if v ≠ 0 ∧ v < 1024 then 1024 else v)
    else if o = 0x4100 then 0
    else if 0x6000 ≤ o ∧ (o < 0x6040 ∨ 6 ≤ o / 8 % 8) then old
    else v
  else if a = aClkThrottle then clampF (clampF (clampF v 6 0 1 64) 14 8 1 64) 22 16 1 64
  else if aL2cSlotCap 0 ≤ a ∧ a < aL2cSlotCap 4 then clampF v 7 0 8 128
  else if a = aL2cPinCtrl then clampF v 4 0 0 15
  else if aLnkCfg 0 ≤ a ∧ a < aLnkCfg 16 ∧ a % 0x400 = 0 then keepF v old 11 10 3
  else if a = aFabCfg then fabCfgWrite v
  else if aFabRouteRegion 0 ≤ a ∧ a < aFabRouteLocal 256 then keepF v old 21 20 3
  else v

/-- Levels of the loop stack in use: the leading valid ones (R206, R208). -/
def State.loopDepth (s : State) (t : Nat) : Nat :=
  (firstIdx (fun n => s.getF (aSqLoopPos t n) 63 63 == 0) 4).getD 4

/-- Each command bit of a control register in turn, from bit 0 up. -/
def eachBit (v n : Nat) (f : State → Nat → State) (s : State) : State := ((List.range n).filter (bit v ·)).foldl f s

/-- A write of SQ_CTRL (R205). -/
def State.sqCommand (s : State) (t v : Nat) : State :=
  eachBit v 5 (fun s i => match i with
    | 0 => s.sqStart t v
    | 1 => s.sqStop t v
    | 2 => s.sqResume t v
    | 3 => s.sqRewindCmd t v
    | _ => s.sqAbortCmd t v) s

/-- A write of SE_CTX_CTRL_c; both commands at once are ignored (R293). -/
def State.ctxCommand (s : State) (t c v : Nat) : State :=
  match v % 4 with
  | 0 => if ((s.tile t).ctx c).state = .halted then s else s.ctxIgnored t c v
  | 1 => s.ctxResume t c v
  | 2 => s.ctxAbort t c v
  | _ => s.ctxIgnored t c v

/-- A write of LNK_CTRL_p (R375). -/
def State.lnkCommand (s : State) (p v : Nat) : State :=
  eachBit v 5 (fun s i => match i with
    | 0 => s.lnkRetrain p v
    | 1 => s.lnkLaneRecover p v
    | 2 => s.lnkActivate p v
    | 3 => s.lnkQuarantine p v
    | _ => s.lnkReauth p v) s

/-- What a write does beyond storing, in a tile block: t the tile, o the offset. -/
def State.tileEffect (s : State) (t o v : Nat) : State :=
  if o = 0x4000 then s.sqCommand t v
  else if 0x2800 ≤ o ∧ o < 0x2A00 ∧ o % 0x40 = 4 then s.ctxCommand t ((o - 0x2800) / 0x40) v
  else if o = 0x400C then s.goto t (bits v 19 0)
  else if 0x4020 ≤ o ∧ o < 0x4060 then s.setF (aSqStatus t) 9 7 (s.loopDepth t)
  else if 0x3400 ≤ o ∧ o < 0x3600 ∧ o % 0x20 = 0x10 then s.armWindow t ((o - 0x3400) / 0x20)
  else s

/-- Chunks held for a group whose version changes belong to its old membership and are dropped (R408, log entry 39). -/
def State.dropChunks (s : State) (g : Nat) : State := { s with coll := s.coll.filter (fun c => decide (c.group ≠ g)) }

/-- What a write does beyond storing, in the hub's blocks; `old` is the value before it. -/
def State.hubEffect (s : State) (a v old : Nat) : State :=
  if a = aRstGroup then s.tileGroupReset (bits v 15 0)
  else if a = aRstPort then s.rstPort (bits v 15 0)
  else if a = aSeXlateInv then s.xlateInv (bits v 3 0) (bit v 4)
  else if aL2cSlotCap 0 ≤ a ∧ a < aL2cSlotCap 4 then
    s.capRaised ((a - aL2cSlotCap 0) / 0x10) (s.bankCap ((a - aL2cSlotCap 0) / 0x10) - bits old 7 0)
  else if a = aL2cPinRelease then s.pinRelease (bits v 15 0)
  else if a = aDdrCtrl then (if bit v 0 then s.ddrTrain else s)
  else if a = aDdrRetireCtrl then (if bit v 9 then s.retireGo (bits v 8 0) else s)
  else if aLnkCfg 0 ≤ a ∧ a < aLnkCfg 16 ∧ a % 0x400 = 0 then s.enablePort ((a - aLnkCfg 0) / 0x400) (bit v 0)
  else if aLnkCfg 0 ≤ a ∧ a < aLnkCfg 16 ∧ a % 0x400 = 4 then s.lnkCommand ((a - aLnkCfg 0) / 0x400) v
  else if a = aFabId then s.freeCtxs.drainOutbox
  else if a = aCntClear then s.cntClear v
  else if a = aDbgBreak then { s with dbg := { s.dbg with breakSeen := 0, breakDue := false } }
  else if a = aHifRingHead then s.ringHead v
  else if aCeGroupG0 0 ≤ a ∧ a < aCeGroupG0 1024 ∧ a % 32 = 8 then
    (if s.getF a 63 32 = bits old 63 32 then s else s.dropChunks ((a - aCeGroupG0 0) / 32))
  else s

/-- Does a run of group g go on (R403)? -/
def State.groupBusy (s : State) (g : Nat) : Bool :=
  s.parts.any (fun p => p.2.ce.any (fun d => match d.2 with | some o => o.run.isSome && decide (o.group = g) | none => false))

/-- Is a register kept from the store by type: a head write, CNT_CLEAR, or the descriptor of a group with a run? -/
def State.storeFirst (s : State) (b : Nat) : Bool :=
  !(b == aHifRingHead || b == aCntClear ||
    (decide (aCeGroupG0 0 ≤ b ∧ b < aCeGroupG0 1024) && s.groupBusy ((b - aCeGroupG0 0) / 32)))

/-- A whole write of the register at b: stored by field type, then acted upon. -/
def State.regPut (s : State) (b v : Nat) : State :=
  match findReg b with
  | none => s
  | some (r, _) =>
    let old := s.rdN b
    let s := if s.storeFirst b then s.wrN b (r.fields.foldl (fun o f => f.write (limitWrite b old v) o) old) else s
    if 0x2000000 ≤ b then s.tileEffect ((b - 0x2000000) / 0x8000) (b % 0x8000) v else s.hubEffect b v old

/-! ### Split accesses (R13, R133) -/

/-- Key of a requester, as event 0xD5 names it, and the source that event 0xD4 names (R474). -/
def reqKey : Requester → Nat
  | .host => 0
  | .mp => 0x10000
  | .dev id => 0x20000 + id.toNat
def reqSrc : Requester → Nat
  | .dev id => id.toNat
  | _ => 0

/-- What an access leaves held for its requester: the low half of one register, the captured high half of one, the low
register of one stream counter, the captured high register of one. -/
structure Keeps where
  low : Option Nat := none
  high : Option Nat := none
  pairLow : Option Nat := none
  pairCap : Option Nat := none
  deriving DecidableEq, Repr

/-- An access of requester k discards what it holds, but for what the access goes on with; a low half or low register
lost is logged (R13, R133). -/
def State.discard (s : State) (k : Nat) (keep : Keeps) : State :=
  let stay (a : Option Nat) (h : HeldHalf) : Bool := decide (h.req ≠ k) || a == some h.addr
  let x := s.host
  let s := (x.lows.filter (fun h => !stay keep.low h)).foldl (fun s h => s.postMp 0xD5 k h.addr) s
  let s := (x.rngLows.filter (fun h => !stay keep.pairLow h)).foldl (fun s h => s.postMp 0xD5 k h.addr) s
  s.onHost (fun x => { x with
    lows := x.lows.filter (stay keep.low), highs := x.highs.filter (stay keep.high),
    rngLows := x.rngLows.filter (stay keep.pairLow), rngCaps := x.rngCaps.filter (stay keep.pairCap) })

/-- What requester k holds for an address in a list. -/
def heldOf (l : List HeldHalf) (k a : Nat) : Option Nat :=
  (l.find? (fun h => decide (h.req = k ∧ h.addr = a))).map (·.val.toNat)
/-- A list without what requester k holds for an address. -/
def unheld (l : List HeldHalf) (k a : Nat) : List HeldHalf := l.filter (fun h => !decide (h.req = k ∧ h.addr = a))
/-- A held value. -/
def mkHeld (k a v : Nat) : HeldHalf := { req := k, addr := a, val := BitVec.ofNat 64 v }

/-- Is a register VE_RNG_CTR_LO_s, or VE_RNG_CTR_HI_s, whose low register is then given? -/
def isRngLo (b : Nat) : Bool := decide (0x2000000 ≤ b) && decide (0x2100 ≤ b % 0x8000 ∧ b % 0x8000 < 0x2300) && decide (b % 0x20 = 8)
def rngPair (b : Nat) : Option Nat :=
  if 0x2000000 ≤ b ∧ 0x2100 ≤ b % 0x8000 ∧ b % 0x8000 < 0x2300 ∧ b % 0x20 = 0x10 then some (b - 8) else none

/-- Is a write one of a GAB region that the MP does not make, because it breaks the rules of R162? -/
def State.badRegion (s : State) (k b v : Nat) : Bool :=
  let o := b % 0x8000
  k == reqKey .mp && decide (0x2000000 ≤ b ∧ 0x3800 ≤ o ∧ o < 0x3900) &&
    !s.regionWriteOk ((b - 0x2000000) / 0x8000) ((o - 0x3800) / 8) v

/-- All 64 bits of a register are written by requester k: a stream counter is held or committed as a pair (R133); the MP
makes no region valid that breaks R162. -/
def State.commitReg (s : State) (k b v : Nat) : State :=
  if s.badRegion k b v then s
  else if isRngLo b then s.onHost (fun h => { h with rngLows := h.rngLows ++ [mkHeld k b v] })
  else match rngPair b with
  | some lo =>
    let s := match heldOf s.host.rngLows k lo with
      | some x => (s.wrN lo x).onHost (fun h => { h with rngLows := unheld h.rngLows k lo })
      | none => s
    s.wrN b v
  | none => s.regPut b v

/-- A naturally aligned write of 4 or 8 bytes by requester k (R13). -/
def State.writeAs (s : State) (k a : Nat) (wide : Bool) (v : Nat) : State :=
  match findReg a with
  | none => s.discard k {}
  | some (r, b) =>
    if r.bytes = 4 then
      let s := (s.discard k {}).regPut b (v % 2 ^ 32)
      if !wide then s
      else match findReg (a + 4) with
        | some (_, b') => s.regPut b' (v / 2 ^ 32)
        | none => s
    else if wide then (s.discard k { pairLow := rngPair b }).commitReg k b v
    else if a = b then
      (s.discard k { pairLow := rngPair b }).onHost (fun h => { h with lows := h.lows ++ [mkHeld k b (v % 2 ^ 32)] })
    else
      let low := (heldOf s.host.lows k b).getD (s.rdN b % 2 ^ 32)
      let s := (s.discard k { low := some b, pairLow := rngPair b }).onHost (fun h => { h with lows := unheld h.lows k b })
      s.commitReg k b (v % 2 ^ 32 * 2 ^ 32 + low)

/-- Registers of M3, which read zero on the grade without it (R4, R102). -/
def fusedReg (b : Nat) : Bool :=
  let o := b % 0x8000
  decide (0x2000000 ≤ b) && (o == 0x1030 || decide (0x1260 ≤ o ∧ o < 0x1280) || o == 0x4998 || decide (0x4AC0 ≤ o ∧ o < 0x4B00))

/-- Value that a read of a register of tile t shows: MAC_STATUS_m.drain_busy and VE_STATUS.busy show what the engine does now
(R94, R132). -/
def State.tileRegNow (s : State) (t b : Nat) : Nat :=
  let v := (s.tile t).ve
  match firstIdx (fun m => b == aMacStatus t m) 4 with
  | some m => setBits (s.rdN b) 2 2 (b2n ((s.tile t).drainBusy m))
  | none => if b = aVeStatus t then setBits (s.rdN b) 0 0 (b2n (v.issuing.isSome || !v.flight.isEmpty)) else s.rdN b

/-- Value that a read of a register shows. -/
def State.regNow (s : State) (b : Nat) : Nat :=
  if b = aHoopNow then s.hoop
  else if s.grade ≠ 0 ∧ fusedReg b then 0
  else if 0x2000000 ≤ b then s.tileRegNow ((b - 0x2000000) / 0x8000) b
  else if b = aDdrErrLog then (s.mem.errLog.headD 0).toNat
  else s.rdN b

/-- What a read of a whole register, or of its low half, takes away: a record of DDR_ERR_LOG, the refused count of a
window (R12, R158, R340). -/
def State.readClears (s : State) (b : Nat) : State :=
  if b = aDdrErrLog then { s with mem := { s.mem with errLog := s.mem.errLog.drop 1 } }
  else if 0x2000000 ≤ b ∧ 0x3400 ≤ b % 0x8000 ∧ b % 0x8000 < 0x3600 ∧ b % 0x20 = 0x18 then s.setF b 17 2 0
  else s

/-- The MP's firmware acts on an error record that it reads from DDR_ERR_LOG (R333). -/
def State.firmwareSees (s : State) (k b v : Nat) : State := if b = aDdrErrLog ∧ k = reqKey .mp then s.policy v else s

/-- The 64 bits that a read of a register gives requester k, with the captures of a stream counter (R133). -/
def State.readWhole (s : State) (k b : Nat) : Nat × State :=
  let s' := (s.readClears b).firmwareSees k b (s.regNow b)
  if isRngLo b then
    (s.regNow b, s'.onHost (fun h => { h with rngCaps := h.rngCaps ++ [mkHeld k b (s.rdN (b + 8))] }))
  else match rngPair b with
  | some lo =>
    match heldOf s.host.rngCaps k lo with
    | some x => (x, s'.onHost (fun h => { h with rngCaps := unheld h.rngCaps k lo }))
    | none => (s.regNow b, s')
  | none => (s.regNow b, s')

/-- A naturally aligned read of 4 or 8 bytes by requester k (R13). -/
def State.readAs (s : State) (k a : Nat) (wide : Bool) : Nat × State :=
  match findReg a with
  | none => (0, s.discard k {})
  | some (r, b) =>
    if r.bytes = 4 then
      let (x, s) := (s.discard k {}).readWhole k b
      if !wide then (x, s)
      else match findReg (a + 4) with
        | some (_, b') =>
          let (y, s) := s.readWhole k b'
          (x + y * 2 ^ 32, s)
        | none => (x, s)
    else if wide then (s.discard k { pairCap := rngPair b }).readWhole k b
    else if a = b then
      let (x, s) := (s.discard k { pairCap := rngPair b }).readWhole k b
      (x % 2 ^ 32, s.onHost (fun h => { h with highs := h.highs ++ [mkHeld k b (x / 2 ^ 32)] }))
    else
      let s := s.discard k { high := some b, pairCap := if isRngLo b then some b else rngPair b }
      match heldOf s.host.highs k b with
      | some x => (x, s.onHost (fun h => { h with highs := unheld h.highs k b }))
      | none => (s.regNow b / 2 ^ 32, s)

/-! ### What turns an access away (R37, R452, R519, R578) -/

/-- Blocks that only the MP writes. -/
def mpOnly (a : Nat) : Bool := [0x10, 0x12, 0x13, 0x15, 0x17, 0x18, 0x19, 0x1A, 0x1B, 0x1C].contains (a / 0x10000)

/-- Ranges of BAR0 that hold nothing. -/
def reservedRange (a : Nat) : Bool :=
  decide (0x20000 ≤ a ∧ a < 0x100000) || decide (0x1F0000 ≤ a ∧ a < 0x2000000)

/-- Is the unit of a register powered off in the state in force? -/
def State.regOff (s : State) (a : Nat) : Bool :=
  (decide (0x2000000 ≤ a) && decide (2 ≤ s.powerState)) ||
    ((a / 0x10000 == 0x16 || a / 0x10000 == 0x17) && s.powerState == 4)

/-- Is a tile's partition running, in ramp, pre-empting or resuming? -/
def State.tileRuns (s : State) (t : Nat) : Bool := match s.tilePart t with | some p => s.partBusy p | none => false

/-- Is a write of the host or of a remote device dropped? -/
def State.dropWrite (s : State) (req : Requester) (a : Nat) : Bool :=
  (req == .host && mpOnly a) ||
  (req == .host && a / 0x10000 == 0x1E && s.getF aHifStatus 6 6 == 0) ||
  (req != .mp && decide (0x2000000 ≤ a) && s.tileRuns ((a - 0x2000000) / 0x8000))

/-- Does a freeze keep accesses from a register: all but the HIF_ and DBG_ ranges (R578)? -/
def frozenRange (a : Nat) : Bool := !(decide (a < 0x10000) || a / 0x10000 == 0x1E)

/-- A register access of a wrong alignment (R452). -/
def misaligned (a : Nat) (wide : Bool) : Bool := decide (a % (if wide then 8 else 4) ≠ 0)

/-- Does the function answer the host: the PCI Express controller is out of reset, and the function in D0 (R449, R505)? -/
def State.hostUp (s : State) : Bool := (decide (4 ≤ s.pwr.released) || s.pwr.warm) && !s.host.d3

/-- Registers of a tile block that are sequencer, engine or window state: stream keys and counters, windows, GAB regions, the
sequencer's place, no-yield count, loop levels and scalars, withy queues and patterns (R37; DEDUCED, log entry 18). -/
def engineState (a : Nat) : Bool :=
  let o := a % 0x8000
  decide (0x2000000 ≤ a) &&
    (decide (0x2100 ≤ o ∧ o < 0x2300) || decide (0x3400 ≤ o ∧ o < 0x3600) || decide (0x3800 ≤ o ∧ o < 0x3900) || decide (0x400C ≤ o ∧ o < 0x4200) || decide (0x5000 ≤ o))

/-- Is a write one that the MP does not make: to sequencer or engine state while the tile's partition runs (R37)? -/
def State.mpHolds (s : State) (req : Requester) (a : Nat) : Bool :=
  req == .mp && engineState a && s.tileRuns ((a - 0x2000000) / 0x8000)

/-- A register write by a requester; the host's wait while the packet FIFO is full (R455). An access that is turned away
is an access too, and discards what its requester holds (R13). -/
def State.regWrite (s : State) (req : Requester) (a : Nat) (wide : Bool) (v : Nat) : State :=
  let t := s.discard (reqKey req) {}
  if req = .host ∧ (!s.hostUp ∨ 1024 ≤ s.host.fifo.length) then s
  else if s.mpHolds req a then s
  else if 0x10000 ≤ a ∧ a < 0x20000 ∧ req = .host then t.badWrite (a - 0x10000) (if wide then 8 else 4)
  else if misaligned a wide ∨ (s.frozen ∧ frozenRange a) then t.cnt aCntHifBadAccess
  else if reservedRange a ∨ (0x10000 ≤ a ∧ a < 0x20000) then t.postMp 0xD4 (reqSrc req) a
  else if s.regOff a then (t.cnt aCntPwrOffAccess).postMp 0xD4 (reqSrc req) a
  else if s.dropWrite req a then t.postMp 0xD4 (reqSrc req) a
  else s.writeAs (reqKey req) a wide v

/-- A register read by a requester. -/
def State.regRead (s : State) (req : Requester) (a : Nat) (wide : Bool) : Nat × State :=
  let ones := if wide then 2 ^ 64 - 1 else 2 ^ 32 - 1
  let t := s.discard (reqKey req) {}
  if req = .host ∧ !s.hostUp then (ones, s)
  else if misaligned a wide then (0, t.cnt aCntHifBadAccess)
  else if s.frozen ∧ frozenRange a then (ones, t.cnt aCntHifBadAccess)
  else if reservedRange a ∨ (0x10000 ≤ a ∧ a < 0x20000) then (0, t)
  else if s.regOff a then (ones, t.cnt aCntPwrOffAccess)
  else s.readAs (reqKey req) a wide

/-! ### The rows -/

/-- REGISTER_WRITE. -/
def execRegisterWrite (req : Requester) (addr : BitVec 26) (wide : Bool) (data : BitVec 64) (s : State) :
    Host.Outcome State Fault Refusal :=
  .next (s.regWrite req addr.toNat wide data.toNat)

/-- VE_RNG_CTR_WRITE: of the low or the high register of stream s of a tile; whole, or one 32-bit half (R133). -/
def execVeRngCtrWrite (req : Requester) (t : TileId) (n : Fin 16) (hi : Bool) (half : Option Bool) (data : BitVec 64) (s : State) :
    Host.Outcome State Fault Refusal :=
  let a := if hi then aVeRngCtrHi t.val n.val else aVeRngCtrLo t.val n.val
  .next (match half with
    | none => s.regWrite req a true data.toNat
    | some up => s.regWrite req (if up then a + 4 else a) false data.toNat)

/-- DDR_ERR_LOG_READ: whole, or its low half (R340). -/
def execDdrErrLogRead (req : Requester) (wide : Bool) (s : State) : Host.Outcome State Fault Refusal :=
  .next (s.regRead req aDdrErrLog wide).2

/-- WINDOW_STATUS_READ (R158). -/
def execWindowStatusRead (req : Requester) (t : TileId) (n : Fin 16) (s : State) : Host.Outcome State Fault Refusal :=
  .next (s.regRead req (aSpadWinStatus t.val n.val) false).2

/-- LOW_HALF_READ_CAPTURE: a 32-bit read of the low half of a 64-bit register (R13). -/
def execLowHalfReadCapture (req : Requester) (addr : BitVec 26) (s : State) : Host.Outcome State Fault Refusal :=
  .next (match findReg addr.toNat with
    | some (r, b) => if r.bytes = 8 ∧ b = addr.toNat then (s.regRead req b false).2 else s
    | none => s)

/-- HIF_RING_HEAD_WRITE (R465). -/
def execHifRingHeadWrite (head : BitVec 32) (s : State) : Host.Outcome State Fault Refusal :=
  .next (s.regWrite .host aHifRingHead false head.toNat)

/-- CNT_CLEAR (R558). -/
def execCntClear (req : Requester) (data : BitVec 32) (s : State) : Host.Outcome State Fault Refusal :=
  .next (s.regWrite req aCntClear false data.toNat)

/-- FAB_ID_WRITE (R395). -/
def execFabIdWrite (req : Requester) (data : BitVec 32) (s : State) : Host.Outcome State Fault Refusal :=
  .next (s.regWrite req aFabId false data.toNat)

/-- A BAR2 read is served while the device is frozen and unlocked; a word read as uncorrectable or with bad parity sets
its flag. Otherwise it counts as a bad access (R453, R581–R583). -/
def State.lidRead (s : State) (a : Nat) : State :=
  if !s.hostUp then s
  else if !s.frozen ∨ s.getF aHifStatus 6 6 = 0 then s.cnt aCntHifBadAccess
  else if 0x100000000 ≤ a ∨ 2 ≤ s.powerState then s
  else
    let x := s.tile (a / 0x400000)
    let o := a % 0x400000
    if o < 0x200000 then
      (if mapGet false x.spadBad (unitKey o) then s.setF aDbgFreezeStatus (if lightAddr o then 12 else 11) (if lightAddr o then 12 else 11) 1
       else s)
    else
      let bad :=
        if o < 0x300000 then mapGet false x.gabBad ((o - 0x200000) / 32)
        else if o < 0x340000 then mapGet false (x.array ((o - 0x300000) / 0x10000)).accBad (o % 0x10000 / 32)
        else if 0x347000 ≤ o ∧ o < 0x349000 then mapGet false x.patBad ((o - 0x347000) / 32)
        else false
      if bad then s.setF aDbgFreezeStatus 11 11 1 else s

/-- LID_READ. -/
def execLidRead (addr : BitVec 40) (s : State) : Host.Outcome State Fault Refusal := .next (s.lidRead addr.toNat)

/-- PCIE_D_STATE_CHANGE: BAR accesses end as Unsupported Request in D3hot; a return to D0 finds every state (R449). -/
def execPcieDStateChange (d3hot : Bool) (s : State) : Host.Outcome State Fault Refusal :=
  .next (s.onHost (fun h => { h with d3 := d3hot }))

end Sys2Proof.Machine
end

