-- ==== Sys2Proof/Machine/Net.lean ====
section
/-! DEFINITION. The fabric network: packets that arrive from a port, answers, hoop synchronisation, explore mode
(R380–R402, R407–R412, R418). -/
namespace Sys2Proof.Machine

/-! ### Requests at their destination (R381, R398–R402) -/

/-- The first check of R398 that a space 0 request fails; 0 where it passes. -/
def State.ddrAccept (s : State) (off len src : Nat) (write : Bool) : Nat :=
  let reg (n : Nat) : Nat := s.rdN (aFabDdrAccept n)
  let has (n a : Nat) : Bool :=
    decide (bits (reg n) 11 0 * 2 ^ 30 ≤ a ∧ a < (bits (reg n) 11 0 + bits (reg n) 23 12) * 2 ^ 30)
  match firstIdx (fun n => bit (reg n) 31 && has n off) 16 with
  | none => 0x21
  | some n =>
    if !has n (off + len - 1) then 0x22
    else if !inRange (reg n) src then 0x23
    else if write && !bit (reg n) 30 then 0x24
    else 0

/-- Is a READ or WRITE well formed: 1–256 bytes inside one 256 B block, with the payload that its length asks for
(R384, R385)? -/
def lengthOk (u0 u1 : Nat) : Bool :=
  let n := pkOperand u1
  decide (1 ≤ n ∧ n ≤ 256 ∧ pkAddr u1 % 256 + n ≤ 256) && decide (pkLen u0 = if pkType u0 = 2 then unitCount n else 0)

/-- A request to memory or a window, as the memory system holds it. Which of an agent's lanes a request from a port takes is the
model's choice, DESIGN CHOICE (log entry 86): that of its source unit's number modulo 16, which is lane 0 for every hub unit;
R29 and R30 give lanes to this device's tiles only. -/
def State.memReq (s : State) (ref u0 u1 : Nat) (data : List Byte) (stage : ReqStage) : State :=
  let (id, s) := s.newId
  let a := pkAddr u1
  let r : Req := { id, origin := .fabric ref, step := 0, pos := 0, va := a, write := pkType u0 == 2, prefetch := false,
                   dev := s.devId, space := bits a 47 45, off := bits a 44 0, len := pkOperand u1,
                   data := data.take (pkOperand u1), poison := pkPoison u1, cls := pkClass u1, reuse := pkReuse u1, part := 0,
                   lane := pkUnit u0 % 16, stage, bank := none, status := 0, win := none }
  { s with mem := { s.mem with reqs := s.mem.reqs ++ [r] } }

/-- A management access (R402): the MP performs it as a register access. -/
def State.mgmt (s : State) (ref vc u0 u1 : Nat) (data : List Byte) : State :=
  let m := s.rdN aFabMgmtAccept
  let off := bits (pkAddr u1) 44 0
  let n := pkOperand u1
  let req : Requester := .dev (BitVec.ofNat 16 (pkSrc u0))
  if off / 2 ^ 26 ≠ 0 ∨ ¬(n = 4 ∨ n = 8) then s.fabAnswer ref 0x22 none [] 0
  else if vc ≠ 5 ∨ pkUnit u0 < 1024 ∨ !bit m 31 ∨ !inRange m (pkSrc u0) then s.fabAnswer ref 0x23 none [] 0
  else if pkType u0 = 2 then (s.regWrite req off (n == 8) (leVal (data.take n))).fabAnswer ref 0 none [] 0
  else
    let (v, s) := s.regRead req off (n == 8)
    s.fabAnswer ref 0 none (leBytes n v) 0

/-- A COLL packet at the collective engine: held for its run, or answered GROUP (R407, R408). -/
def State.collIn (s : State) (ref u0 u1 : Nat) (data : List Byte) : State :=
  let (st, s) := s.collChunk (pkSrc u0) (pkAddr u1) (pkOperand u1) data
  s.fabAnswer ref st none [] 0

/-- Hand an accepted request to its destination unit (R34, R393, R398–R402). -/
def State.serve (s : State) (p vc ref u0 u1 : Nat) (data : List Byte) : State :=
  let a := pkAddr u1
  let off := bits a 44 0
  let sp := bits a 47 45
  let ty := pkType u0
  if ty = 6 then s.collIn ref u0 u1 data
  else if ty = 3 ∨ ty = 4 then
    if sp ≠ 2 ∨ off / 65536 ≠ 0 ∨ off % 4 ≠ 0 then s.fabAnswer ref 0x22 none [] 0
    else
      let st := s.syncAccept (off / 4) (pkSrc u0)
      if st ≠ 0 then s.fabAnswer ref st none [] 0
      else s.sendOp { src := 1024 + p, obj := off / 4, set := ty == 4, val := pkOperand u1, reply := some ref }
  else if !lengthOk u0 u1 then s.fabAnswer ref 0x22 none [] 0
  else match sp with
  | 0 =>
    if s.ddrBytes < off + pkOperand u1 then s.fabAnswer ref 0x22 none [] 0
    else
      let st := s.ddrAccept off (pkOperand u1) (pkSrc u0) (ty == 2)
      if st ≠ 0 then s.fabAnswer ref st none [] 0 else s.memReq ref u0 u1 data .lane
  | 1 => if off / 2 ^ 31 ≠ 0 then s.fabAnswer ref 0x22 none [] 0 else s.memReq ref u0 u1 data .window
  | 3 =>
    if off / 2 ^ 31 ≠ 0 ∨ bit off 20 then s.fabAnswer ref 0x22 none [] 0 else s.memReq ref u0 u1 data .window
  | 4 => s.mgmt ref vc u0 u1 data
  | _ => s.fabAnswer ref 0x22 none [] 0

/-! ### The receive half (R393, R395) -/

/-- Hand a request of context c to its unit, under a fresh reference. -/
def State.applyReq (s : State) (p vc c u0 u1 : Nat) (data : List Byte) : State :=
  let (ref, s) := s.newId
  let q : InReq := { ref, ctx := c, u0, u1, vc }
  let s := { s with fab := { s.fab with inreqs := s.fab.inreqs ++ [q] } }
  s.serve p vc ref u0 u1 data

/-- Put a receive half into context c. -/
def State.putRx (s : State) (c : Nat) (x : PeerCtx) (h : RxHalf) : State := s.putCtx c (some { x with rx := some h, used := s.hoop })

/-- A request meets the receive half of its epoch. -/
def State.rxSeq (s : State) (p vc c : Nat) (x : PeerCtx) (h : RxHalf) (u0 u1 : Nat) (data : List Byte) : State :=
  let q := pkSeq u0
  let ahead := (q + 65536 - h.high) % 65536
  let age := (h.high + 65536 - q) % 65536
  if 1 ≤ ahead ∧ ahead ≤ 32767 then
    let recs := (h.recs.filter (fun r => decide ((q + 65536 - r.1) % 65536 ≤ 127))) ++ [(q, none)]
    (s.putRx c x { h with high := q, recs }).applyReq p vc c u0 u1 data
  else if 127 < age then s
  else match h.recs.find? (fun r => decide (r.1 = q)) with
  | none => (s.putRx c x { h with recs := h.recs ++ [(q, none)] }).applyReq p vc c u0 u1 data
  | some (_, none) => s
  | some (_, some st) => if pkType u0 = 1 then s.applyReq p vc c u0 u1 data else s.respondTo u0 u1 st none [] 0

/-- A request arrives at its destination device. -/
def State.requestIn (s : State) (p vc u0 u1 : Nat) (data : List Byte) : State :=
  match s.ctxOf (pkSrc u0), pkSyn u0 with
  | none, false => s.respondTo u0 u1 0x33 none [] 0
  | none, true =>
    match s.takeCtx (pkSrc u0) with
    | none => s.respondTo u0 u1 0x34 none [] 0
    | some (c, s) =>
      (match s.pctx c with
       | some x => (s.putRx c x { epoch := pkEpoch u0, high := pkSeq u0, recs := [(pkSeq u0, none)] }).applyReq p vc c u0 u1 data
       | none => s)
  | some c, syn =>
    match s.pctx c with
    | none => s
    | some x =>
      match x.rx with
      | some h =>
        if h.epoch = pkEpoch u0 then s.rxSeq p vc c x h u0 u1 data
        else if syn then
          (s.putRx c x { epoch := pkEpoch u0, high := pkSeq u0, recs := [(pkSeq u0, none)] }).applyReq p vc c u0 u1 data
        else s.respondTo u0 u1 0x33 none [] 0
      | none =>
        if syn then
          (s.putRx c x { epoch := pkEpoch u0, high := pkSeq u0, recs := [(pkSeq u0, none)] }).applyReq p vc c u0 u1 data
        else s.respondTo u0 u1 0x33 none [] 0

/-! ### Responses and timeouts (R394–R397) -/

/-- A RESP meets an outstanding request of its context. -/
def State.respIn (s : State) (u0 u1 : Nat) (data : List Byte) : State :=
  let c := pkCtx u0
  match s.pctx c with
  | none => s
  | some x =>
    match x.outs.find? (fun o => decide (o.seq = pkSeq u0)) with
    | none => s
    | some o =>
      if !x.isOpen ∨ x.epoch ≠ pkEpoch u0 then s
      else
        let st := pkStatus u0
        if st = 0x31 ∨ st = 0x32 then s
        else if st = 0x33 then
          (((s.cnt aCntFabStale).postMp 0xB1 c x.peer).closeHalf c 0x30).drainOutbox
        else if st = 0x34 then
          let busies := x.busies + b2n o.syn
          let outs := x.outs.map (fun y => if y.seq = o.seq then { y with busy := true } else y)
          let s := (s.cnt aCntFabBusy).putCtx c (some { x with busies, outs })
          if 16 * max 1 (s.getF aFabCfg 19 16) ≤ busies then s.ctxTimeout c else s
        else
          let s := s.putCtx c (some { x with outs := x.outs.filter (fun y => decide (y.seq ≠ o.seq)), used := s.hoop })
          (s.outcome o.req st (pkWin u1) data (pkPoison u1)).drainOutbox

/-- TP_TIMEOUT: the oldest outstanding request of a context is sent again; a BUSY answer has cost it no retransmission;
after tp_retries of them the context times out. -/
def State.tpTimeout (s : State) (c : Nat) : State :=
  match s.pctx c with
  | none => s
  | some x =>
    match x.outs with
    | [] => s
    | o :: r =>
      let o := r.foldl (fun (b : Outstanding) y => if y.sent < b.sent then y else b) o
      if !o.busy ∧ s.getF aFabCfg 23 20 ≤ o.tries then s.ctxTimeout c
      else
        let o' := { o with sent := s.hoop, tries := if o.busy then o.tries else o.tries + 1, busy := false }
        let x := { x with outs := x.outs.map (fun y => if y.seq = o.seq then o' else y), used := s.hoop }
        ((s.putCtx c (some x)).cnt aCntFabRetx).sendOut c x o'

/-- TP_TIMEOUT. -/
def execTpTimeout (ctx : Nat) (s : State) : Host.Outcome State Fault Refusal := .next (s.clocked (·.tpTimeout ctx))

/-! ### Hoop synchronisation (R409–R412) -/

/-- Show an offset in HOOP_STATUS as a saturated 16-bit value. -/
def State.showOffset (s : State) (o : Int) : State :=
  s.setF aHoopStatus 15 0 (unsignedOf 16 (max (-32768) (min 32767 o)))

/-- Insert into a rising list. -/
def insertInt (x : Int) : List Int → List Int
  | [] => [x]
  | y :: r => if x ≤ y then x :: y :: r else y :: insertInt x r

/-- The median of eight offsets: the mean of the middle two. Where it lies between two ticks the spec names neither, and
a free bit decides. -/
def State.medianOf (s : State) (l : List Int) : Int × State :=
  let l := l.foldr insertInt []
  let t := l.getD 3 0 + l.getD 4 0
  if t % 2 = 0 then (t / 2, s)
  else
    let (b, s) := s.freeNat 1
    (t / 2 + b, s)

/-- The time port in use. -/
def State.timePort (s : State) : Nat := if s.fab.secondary then s.getF aHoopCtrl 7 4 else s.getF aHoopCtrl 3 0

/-- The eighth offset: the hoop takes the median, and the device is synced. After a warm reset it never steps backward
(R410, R506). -/
def State.hoopSync (s : State) (hops : Nat) : State :=
  let (m, s) := s.medianOf s.fab.offsets
  let back := m < 0 ∧ s.getF aRstCause 7 0 = 6
  let s := if back then { s with fab := { s.fab with slew := m } }
    else { s with hoop := (((s.hoop : Int) + m) % 2 ^ 64).toNat }
  let s := { s with fab := { s.fab with offsets := [] } }
  ((s.setF aHoopStatus 31 31 1).setF aHoopStatus 28 22 hops).postMp 0xB5 hops (unsignedOf 48 m)

/-- An offset of a synced device: slewing, or beyond 65,536 ticks lost, with a step forward or a hold (R411, R412). -/
def State.hoopTrack (s : State) (o : Int) : State :=
  let s := { s with fab := { s.fab with offsets := (s.fab.offsets ++ [o]).drop ((s.fab.offsets.length + 1) - 16), slew := o } }
  if o.natAbs ≤ 65536 then s.setF aHoopStatus 29 29 0
  else
    let s := if s.getF aHoopStatus 29 29 = 1 then s
      else ((s.setF aHoopStatus 29 29 1).postMp 0xB6 2 (unsignedOf 48 o)).event 9 255 2 0
    if 0 < o then { s with hoop := (s.hoop + o.toNat) % 2 ^ 64, fab := { s.fab with slew := 0 } }
    else { s with fab := { s.fab with slew := 0, hold := o.natAbs } }

/-- A TIME packet: the neighbour on the time port gives an offset sample; the secondary port does in holdover. -/
def State.timeIn (s : State) (p u1 : Nat) : State :=
  let hops := bits (pkOperand u1) 6 0
  if !bit (pkOperand u1) 7 ∨ s.getF aHoopCtrl 8 8 = 1 then s
  else
    let primary := p == s.getF aHoopCtrl 3 0
    let second := s.fab.secondary && p == s.getF aHoopCtrl 7 4
    if !primary && !second then s
    else
      let s := if primary then ({ s with fab := { s.fab with secondary := false } }).setF aHoopStatus 30 30 0 else s
      let o : Int := (pkAddr u1 : Int) + (s.rdN (aLnkRtt p) / 2 : Nat) - s.hoop
      let s := s.showOffset o
      if s.getF aHoopStatus 31 31 = 1 then (s.setF aHoopStatus 28 22 (min 64 (hops + 1))).hoopTrack o
      else
        let s := { s with fab := { s.fab with offsets := s.fab.offsets ++ [o] } }
        if 8 ≤ s.fab.offsets.length then s.hoopSync (min 64 (hops + 1)) else s

/-- TIME_SEND on a child port: an ACTIVE port that is no time port of the device, once it is the anchor or synced. -/
def State.timeSend (s : State) (p : Nat) : State :=
  let c := s.rdN aHoopCtrl
  let anchor := bit c 8
  let parent := !anchor && (p == bits c 3 0 || (bit c 9 && p == bits c 7 4))
  if s.lk p ≠ lkActive ∨ parent ∨ !(anchor || s.getF aHoopStatus 31 31 == 1) then s
  else s.sendLocal p 7 s.hoop (128 + (if anchor then 0 else s.getF aHoopStatus 28 22)) []

/-- TIME_SEND. -/
def execTimeSend (p : PortId) (s : State) : Host.Outcome State Fault Refusal := .next (s.clocked (·.timeSend p.val))

/-- HOOP_HOLDOVER: no TIME packet for 10 ms: holdover, with event 0xB6 and the host's HOOP_STATE record; the secondary
time port is used where it is valid (R412). -/
def State.holdover (s : State) : State :=
  if s.getF aHoopStatus 31 31 = 0 ∨ s.getF aHoopCtrl 8 8 = 1 then s
  else
    let s := if s.getF aHoopStatus 30 30 = 1 then s
      else ((s.setF aHoopStatus 30 30 1).postMp 0xB6 1 (s.getF aHoopStatus 15 0)).event 9 255 1 0
    { s with fab := { s.fab with secondary := s.getF aHoopCtrl 9 9 == 1 } }

/-- HOOP_HOLDOVER; during a freeze the 10 ms timeout stands still (R577). -/
def execHoopHoldover (s : State) : Host.Outcome State Fault Refusal := .next (if s.frozen then s else s.holdover)

/-! ### Explore mode (R418) -/

/-- Low 64 bits of the hash of a certificate serial. -/
def serialHash (serial : List Byte) : Nat := leVal (shake256 serial 8)
/-- The own hash. -/
def ownHash : Nat := serialHash (fit 16 Config.serial)

/-- Send EXPLORE on every ACTIVE port but one, where no neighbour is known. -/
def State.exploreOut (s : State) (but : Option Nat) : State :=
  (List.range 16).foldl (fun s p =>
    if s.lk p = lkActive ∧ some p ≠ but ∧ s.fab.known.contains p = false then s.sendLocal p 8 ownHash s.devId (fit 16 Config.serial) else s) s

/-- An ID is delivered: the device takes it, its default route points to its parent port, which is its time port, and it
goes on to discover. -/
def State.takeId (s : State) (p id : Nat) : State :=
  let s := s.freeCtxs.wrN aFabId (2 ^ 31 + id)
  let s := (List.range 256).foldl (fun s i => (s.wrN (aFabRouteRegion i) (16 + p)).wrN (aFabRouteLocal i) (16 + p)) s
  let s := { s with fab := { s.fab with parentPort := some p } }
  ((s.setF aHoopCtrl 3 0 p).exploreOut (some p)).drainOutbox

/-- The anchor's ID for a permitted device: consecutive, the same again for one it knows. -/
def State.assignId (s : State) (hash : Nat) : Option (Nat × State) :=
  if !(s.planSerials.any (fun x => serialHash x == hash)) then none
  else match s.fab.explored.find? (fun e => decide (e.1 = hash)) with
  | some e => some (e.2, s)
  | none =>
    let id := if s.fab.nextId = 0 then s.devId + 1 else s.fab.nextId
    some (id, { s with fab := { s.fab with explored := s.fab.explored ++ [(hash, id)], nextId := id + 1 } })

/-- An answer of an unassigned device comes from port p: the anchor delivers the ID, every other device reports the answer
on its parent port, and the device keeps the port for the delivery (R418, log entry 38). -/
def State.exploreReport (s : State) (p hash : Nat) (record : List Byte) : State :=
  let s := if s.fab.found.any (fun e => decide (e.1 = hash)) then s
    else { s with fab := { s.fab with found := s.fab.found ++ [(hash, p)] } }
  if s.getF aHoopCtrl 8 8 = 1 then
    match s.assignId hash with
    | some (id, s) => s.sendLocal p 8 hash id []
    | none => s
  else match s.fab.parentPort with
  | some q => s.sendLocal q 8 hash 0xFFFF record
  | none => s

/-- An ID for a device whose answer came this way goes on to it; any other EXPLORE tells an assigned device nothing. -/
def State.exploreDeliver (s : State) (p hash id : Nat) : State :=
  if s.fab.parentPort ≠ some p then s
  else match s.fab.found.find? (fun e => decide (e.1 = hash)) with
  | some e => s.sendLocal e.2 8 hash id []
  | none => s

/-- An EXPLORE packet: it discovers this device, delivers an ID, or answers (R418). -/
def State.exploreIn (s : State) (p u1 : Nat) (record : List Byte) : State :=
  let hash := pkAddr u1
  let id := bits (pkOperand u1) 15 0
  if s.getF aFabStatus 27 27 = 0 then s
  else
    let s := { s with fab := { s.fab with known := if s.fab.known.contains p then s.fab.known else s.fab.known ++ [p] } }
    if !s.idValid then
      if id = 0xFFFF then s
      else if hash = ownHash then s.takeId p id
      else
        let s := if s.fab.parentPort.isNone then { s with fab := { s.fab with parentPort := some p } } else s
        s.sendLocal p 8 ownHash 0xFFFF (fit 16 Config.serial)
    else if id = 0xFFFF then s.exploreReport p hash record
    else s.exploreDeliver p hash id

/-! ### Packets from a port (R34, R384, R387, R389) -/

/-- A packet that is for another device goes on, with hops counted up; without an ID only link-local packets are sent
(R419). -/
def State.forward (s : State) (vc u0 u1 : Nat) (data : List Byte) : State :=
  if !s.idValid then s.dropPacket vc u0 u1 0x32
  else if pkHops u0 = 63 then s.dropPacket vc u0 u1 0x31
  else match s.route (pkDst u0) (pkSrc u0) (pkCtx u0) vc with
  | some e => (s.cnt aCntFabFwdBytes (32 + 16 * pkLen u0)).enqueue e vc (packetBytes (u0 + 2 ^ 42) u1 data)
  | none => s.dropPacket vc u0 u1 0x32

/-- A whole packet arrives on channel vc of port p. -/
def State.arrive (s : State) (p vc u0 u1 : Nat) (payload : List Byte) : State :=
  let data := fit (16 * pkLen u0) payload
  let ty := pkType u0
  if ty = 0 ∨ 8 < ty then s.cnt (aCntLnkProto p)
  else if ty = 7 ∨ ty = 8 then
    let s := s.onPort p (fun q => { q with neighbour := pkSrc u0 })
    if ty = 7 then s.timeIn p u1
    else if bits (pkOperand u1) 31 24 = 0 then s.exploreIn p u1 data
    else s.authFragment p (pkOperand u1) data
  else if s.idValid && pkDst u0 == s.devId then
    (if ty = 5 then s.respIn u0 u1 data else s.requestIn p vc u0 u1 data).ceAll
  else s.forward vc u0 u1 data

/-- A packet row: the packet has its type, and the port carries traffic. -/
def State.packetRow (s : State) (p ty : Nat) (pkt : Packet) : State :=
  let u0 := pkt.u0.toNat
  let u1 := pkt.u1.toNat
  if s.lk p = lkActive ∧ pkType u0 = ty then s.arrive p (pkVc ty (pkAddr u1)) u0 u1 pkt.payload else s

/-- EXPLORE. -/
def execExplore (p : PortId) (pkt : Packet) (s : State) : Host.Outcome State Fault Refusal := .next (s.clocked (·.packetRow p.val 8 pkt))
/-- READ. -/
def execRead (p : PortId) (pkt : Packet) (s : State) : Host.Outcome State Fault Refusal := .next (s.clocked (·.packetRow p.val 1 pkt))
/-- WRITE. -/
def execWrite (p : PortId) (pkt : Packet) (s : State) : Host.Outcome State Fault Refusal := .next (s.clocked (·.packetRow p.val 2 pkt))
/-- SIGNAL. -/
def execSignal (p : PortId) (pkt : Packet) (s : State) : Host.Outcome State Fault Refusal := .next (s.clocked (·.packetRow p.val 3 pkt))
/-- SET. -/
def execSet (p : PortId) (pkt : Packet) (s : State) : Host.Outcome State Fault Refusal := .next (s.clocked (·.packetRow p.val 4 pkt))
/-- RESP. -/
def execResp (p : PortId) (pkt : Packet) (s : State) : Host.Outcome State Fault Refusal := .next (s.clocked (·.packetRow p.val 5 pkt))
/-- COLL. -/
def execColl (p : PortId) (pkt : Packet) (s : State) : Host.Outcome State Fault Refusal := .next (s.clocked (·.packetRow p.val 6 pkt))
/-- TIME. -/
def execTime (p : PortId) (pkt : Packet) (s : State) : Host.Outcome State Fault Refusal := .next (s.clocked (·.packetRow p.val 7 pkt))

end Sys2Proof.Machine
end

