-- ==== Sys2Proof/Machine/LinkRx.lean ====
section
/-! DEFINITION. Flits received by a port: corrections, CRC, acknowledgements, credits, delivery, control flits
(R345–R349, R352, R353, R356–R358, R361–R365, R367–R369). -/
namespace Sys2Proof.Machine

/-- Symbols of a codeword that the code in use corrects: 7 of RS(272,257), 15 of RS(544,514) (R345, R346). -/
def State.fecLimit (s : State) (p : Nat) : Nat := if s.getF (aLnkStatus p) 3 3 = 1 then 7 else 15

/-- The physical lane that carries the 32 B unit j of a flit (R345). -/
def State.unitLane (s : State) (p j : Nat) : Nat := laneOf (s.rxMap p) (j % widthLanes (s.getF (aLnkStatus p) 5 4))

/-- Does an uncorrectable codeword mark a byte of the flit: does its lane carry one of the eight units (R345, R346)? -/
def State.flitMarked (s : State) (p : Nat) (f : Flit) : Bool :=
  f.words.any (fun c => decide (s.fecLimit p < c.2) && (List.range 8).any (fun j => s.unitLane p j == c.1))

/-- Corrected symbols by physical lane, in 1 ms windows of HCLK, and uncorrectable codewords (R345, R368, R378). -/
def State.fecCount (s : State) (p : Nat) (f : Flit) : State :=
  let w := s.hoop / 1200000
  let s := s.onPort p (fun q => if q.symWindow = w then q else { q with symWindow := w, syms := [] })
  let good := f.words.filter (fun (c : Nat × Nat) => decide (c.1 < 9 ∧ c.2 ≤ s.fecLimit p))
  let s := good.foldl (fun s c =>
    ((s.cnt (aCntLnkFecCorr p) c.2).cnt (aCntLnkLaneSym p c.1) c.2).onPort p (fun q =>
      { q with syms := mapPut 0 q.syms c.1 (mapGet 0 q.syms c.1 + c.2) })) s
  let bad := f.words.filter (fun (c : Nat × Nat) => decide (c.1 < 9 ∧ s.fecLimit p < c.2))
  s.cnt (aCntLnkFecUncorr p) bad.length

/-! ### Acknowledgements and credits (R353, R358, R365, R367) -/

/-- An ack frees every held flit up to and including it; progress ends the count of replays (R353, R354). -/
def State.ackIn (s : State) (p a : Nat) : State :=
  let q := s.port p
  let keep := q.retry.filter (fun f => decide (2048 ≤ (a + 4096 - f.seq) % 4096))
  if keep.length = q.retry.length then s
  else s.onPort p (fun q => { q with retry := keep, replays := 0 })

/-- After a retrain or a freeze the next ack starts a replay of what is held; a nak starts one unless the last with the same ack
is younger than the round trip. A state that carries no data replays nothing (R364). -/
def State.nakIn (s : State) (p a : Nat) (nak : Bool) : State :=
  let q := s.port p
  let start := (a + 1) % 4096
  if !(s.lk p == lkActive || s.lk p == lkAuth) then s
  else if q.retry.isEmpty then s.onPort p (fun q => { q with resync := false })
  else if q.resync then (s.onPort p (fun q => { q with resync := false })).replay p start
  else if !nak then s
  else match q.replayAt with
  | some h => if q.replayFrom = start ∧ s.hoop - h < s.rdN (aLnkRtt p) then s else s.replay p start
  | none => s.replay p start

/-- One running total heard: credits come back; shared ones free the channels that took them first. -/
def State.creditIn (s : State) (p i total : Nat) : State :=
  let n := (total + 8192 - mapGet 0 (s.port p).totals i) % 8192
  let s := s.onPort p (fun q => { q with totals := mapPut 0 q.totals i total })
  if i = 8 then
    (s.setF (aLnkTxShared p) 12 0 (s.getF (aLnkTxShared p) 12 0 + n)).onPort p (fun q => { q with inUse := q.inUse.drop n })
  else s.setF (aLnkTxCredit p i) 12 0 (s.getF (aLnkTxCredit p i) 12 0 + n)

/-! ### Delivery (R349, R352, R356, R357, R364) -/

/-- Cut the packets out of the bytes of a channel: whole packets, and what is left of an unfinished one. An all-zero unit
where a packet would start ends them. -/
def cutPackets : Nat → List Byte → List (List Byte) × List Byte
  | 0, b => ([], b)
  | n + 1, b =>
    if b.length < 16 ∨ (b.take 16).all (· == 0) then ([], [])
    else
      let len := 32 + 16 * pkLen (leVal (b.take 16))
      if b.length < len then ([], b)
      else
        let (ps, r) := cutPackets n (b.drop len)
        (b.take len :: ps, r)

/-- Deliver a data flit: its payload joins its channel, whole packets go to the router core, and its buffer is free. -/
def State.deliverFlit (s : State) (p hdr : Nat) (payload : List Byte) : State :=
  let v := hdrVc hdr
  let i := if hdrShared hdr then 8 else v
  let s := (s.cnt (aCntLnkRxBytes p) 240).onPort p (fun q => { q with
    freed := mapPut 0 q.freed i ((mapGet 0 q.freed i + 1) % 8192), due := q.due.erase i ++ [i] })
  if v = 7 then s.protoError p v hdr
  else
    let part := mapGet [] (s.port p).part v
    let fresh := if hdrFirst hdr = 15 then [] else payload.drop (16 * hdrFirst hdr)
    let (ps, rest) := cutPackets 16 (if part.isEmpty then fresh else part ++ payload)
    let s := s.onPort p (fun q => { q with part := mapPut [] q.part v rest })
    ps.foldl (fun s b => s.arrive p v (leVal (b.take 16)) (leVal ((b.drop 16).take 16)) (b.drop 32)) s

/-- A CRC-good data flit by its sequence number. -/
def State.dataIn (s : State) (p hdr : Nat) (payload : List Byte) : State :=
  let q := s.port p
  let d := (hdrSeq hdr + 4096 - q.expect) % 4096
  if s.lk p = lkFrozen then s
  else if d = 0 then
    let s := s.onPort p (fun q => { q with expect := (q.expect + 1) % 4096, nak := false })
    if s.lk p = lkActive ∨ (s.lk p = lkAuth ∧ hdrVc hdr = 5) then s.deliverFlit p hdr payload
    else s.protoError p (hdrVc hdr) hdr
  else if d < 2048 then s.onPort p (fun q => { q with nak := true })
  else s

/-! ### Control flits (R361–R365, R369) -/

/-- Field of n bytes at a flit byte. -/
def flitField (f : List Byte) (o n : Nat) : Nat := leVal ((f.drop o).take n)

/-- CREDIT: all nine totals. -/
def State.ctlCredit (s : State) (p : Nat) (f : List Byte) : State :=
  (List.range 9).foldl (fun s i => s.creditIn p i (flitField f (12 + 2 * i) 2 % 8192)) s

/-- INIT_PARAM: code, width, credits and retry window of the peer; the link runs at the narrower width. A repeated one
is answered with the own parameters. -/
def State.ctlInitParam (s : State) (p : Nat) (f : List Byte) : State :=
  if s.lk p ≠ lkInit ∨ flitField f 9 1 ≠ 1 then s
  else if (s.port p).param.isSome then (s.answered p 2).sendCtl p (s.initParam p) false
  else
    let mins := (List.range 8).map (fun v => flitField f (12 + 2 * v) 2)
    let shared := (List.range 8).map (fun v => flitField f (28 + 2 * v) 2)
    let window := flitField f 44 2
    let x : PeerParam := { lowlat := bit (flitField f 10 1) 0, width := min 2 (flitField f 11 1 % 4), mins, shared, window }
    let s := s.onPort p (fun q => { q with param := some x, window := max 1 (min 2047 window), peerShared := shared })
    let s := (List.range 8).foldl (fun s v => s.setF (aLnkTxCredit p v) 12 0 (nth mins v)) s
    let s := s.setF (aLnkTxShared p) 12 0 (4096 - mins.foldl (· + ·) 0)
    let s := s.setF (aLnkStatus p) 3 3 (b2n (x.lowlat && bit (s.port p).cfg 8))
    let narrow := max x.width (bits (s.port p).cfg 11 10)
    let rx := max narrow (s.getF (aLnkStatus p) 5 4)
    let tx := max narrow (s.getF (aLnkStatus p) 7 6)
    let s := (s.setF (aLnkStatus p) 5 4 rx).setF (aLnkStatus p) 7 6 tx
    let s := s.setF (aLnkLanes p) 31 0 (newMap (s.rxMap p) (s.rxOut p) rx)
    let s := s.setF (aLnkLanes p) 63 32 (newMap (s.getF (aLnkLanes p) 63 32) (s.getF (aLnkLaneFail p) 24 16) tx)
    (s.answered p 2).tryInitDone p

/-- INIT_DONE: INIT ends once both ends have sent it; a peer that repeats it later has its answer again. -/
def State.ctlInitDone (s : State) (p : Nat) : State :=
  if s.lk p = lkInit then ((s.onPort p (fun q => { q with peerDone := true })).answered p 3).tryInitDone p
  else s.sendCtl p [3] false

/-- ECHO_REQ is answered with t1 and the own stamps. -/
def State.ctlEchoReq (s : State) (p : Nat) (f : List Byte) : State :=
  s.sendCtl p ([5] ++ List.replicate 7 0 ++ (f.drop 16).take 8 ++ leBytes 8 s.hoop ++ leBytes 8 s.hoop) false

/-- ECHO_RESP to the request outstanding: a round-trip sample, of which the smallest counts; sixteen are taken. -/
def State.ctlEchoResp (s : State) (p : Nat) (f : List Byte) : State :=
  let t1 := flitField f 16 8
  if !(s.port p).unanswered.any (fun c => recByte c 0 == 4 && leVal ((c.drop 8).take 8) == t1) then s
  else
    let rt := ((s.hoop : Int) - t1) - ((flitField f 32 8 : Int) - flitField f 24 8)
    let x := rt.toNat % 2 ^ 32
    let s := if (s.port p).echoes = 0 ∨ x < s.rdN (aLnkRtt p) then s.wrN (aLnkRtt p) x else s
    let s := (s.answered p 4).onPort p (fun q => { q with echoes := q.echoes + 1 })
    let s := if (s.port p).echoes < 16 then s.sendEcho p else s
    s.tryInitDone p

/-- LANE_MAP: kept for the next alignment marker; one already applied is answered again. -/
def State.ctlLaneMap (s : State) (p : Nat) (f : List Byte) : State :=
  let v := flitField f 9 1 % 16
  if v = (s.port p).txVersion then s.sendCtl p [7, BitVec.ofNat 8 v] false
  else s.onPort p (fun q => { q with txChange := some { version := v, width := flitField f 10 1 % 4, map := flitField f 12 4 } })

/-- LANE_ACK of the last version asked for: the marker has come, so that the receiver has switched (R369). -/
def State.ctlLaneAck (s : State) (p : Nat) (f : List Byte) : State :=
  if (s.port p).rxVersion = flitField f 9 1 % 16 then (s.switchMap p).answered p 6 else s

/-- A control flit by its ctype; a frozen port takes credits and retrain requests alone. -/
def State.controlIn (s : State) (p hdr : Nat) (f : List Byte) : State :=
  let c := flitField f 8 1
  if s.lk p = lkFrozen ∧ c ≠ 1 ∧ c ≠ 8 then s
  else match c with
  | 1 => s.ctlCredit p f
  | 2 => s.ctlInitParam p f
  | 3 => s.ctlInitDone p
  | 4 => s.ctlEchoReq p f
  | 5 => s.ctlEchoResp p f
  | 6 => s.ctlLaneMap p f
  | 7 => s.ctlLaneAck p f
  | 8 => s.enterRetrain p 3
  | _ => s.protoError p c hdr

/-! ### A flit (R346, R348, R352) -/

/-- A CRC-good flit: the fields that every flit carries, then its own part by type. -/
def State.flitIn (s : State) (p : Nat) (f : List Byte) : State :=
  let h := flitHdr f
  let held := s.getF (aLnkStatus p) 2 2
  let s := s.peerHeld p (hdrHeld h)
  let s := if held = 1 ∧ !hdrHeld h then s.onPort p (fun q => { q with resync := true }) else s
  let s := (s.ackIn p (hdrAck h)).nakIn p (hdrAck h) (hdrNak h)
  let s := s.creditIn p (hdrTotalOf h) (hdrTotal h)
  let s := match hdrType h with
    | 1 => s.dataIn p h ((f.drop 8).take 240)
    | 2 => s.controlIn p h f
    | _ => s
  s.pump p

/-- A port receives a flit: one with a failed CRC or an uncorrectable codeword is discarded whole and asks for a replay,
but not in FROZEN (R346, R348, R352, R367). -/
def State.receive (s : State) (p : Nat) (f : Flit) : State :=
  if !s.carries p then s
  else
    let s := s.fecCount p f
    if s.flitMarked p f ∨ !flitGood f.bytes then
      let s := s.cnt (aCntLnkCrc p)
      if s.lk p = lkFrozen then s else s.onPort p (fun q => { q with nak := true })
    else s.flitIn p f.bytes

/-- DATA_FLIT_RECEIVE. -/
def execDataFlitReceive (p : PortId) (flit : Flit) (s : State) : Host.Outcome State Fault Refusal := .next (s.receive p.val flit)
/-- IDLE_FLIT_RECEIVE. -/
def execIdleFlitReceive (p : PortId) (flit : Flit) (s : State) : Host.Outcome State Fault Refusal := .next (s.receive p.val flit)
/-- CREDIT. -/
def execCredit (p : PortId) (flit : Flit) (s : State) : Host.Outcome State Fault Refusal := .next (s.receive p.val flit)
/-- INIT_PARAM. -/
def execInitParam (p : PortId) (flit : Flit) (s : State) : Host.Outcome State Fault Refusal := .next (s.receive p.val flit)
/-- INIT_DONE. -/
def execInitDone (p : PortId) (flit : Flit) (s : State) : Host.Outcome State Fault Refusal := .next (s.receive p.val flit)
/-- ECHO_REQ. -/
def execEchoReq (p : PortId) (flit : Flit) (s : State) : Host.Outcome State Fault Refusal := .next (s.receive p.val flit)
/-- ECHO_RESP. -/
def execEchoResp (p : PortId) (flit : Flit) (s : State) : Host.Outcome State Fault Refusal := .next (s.receive p.val flit)
/-- LANE_MAP. -/
def execLaneMap (p : PortId) (flit : Flit) (s : State) : Host.Outcome State Fault Refusal := .next (s.receive p.val flit)
/-- LANE_ACK. -/
def execLaneAck (p : PortId) (flit : Flit) (s : State) : Host.Outcome State Fault Refusal := .next (s.receive p.val flit)
/-- RETRAIN_REQ. -/
def execRetrainReq (p : PortId) (flit : Flit) (s : State) : Host.Outcome State Fault Refusal := .next (s.receive p.val flit)

end Sys2Proof.Machine
end

