-- ==== Sys2Proof/Machine/SlathLoad.lean ====
section
/-! DEFINITION. The checks of a slath at load, and the configuration that a load writes (R41, R162, R173–R175, R179–R185,
R190, R192, R196, R201, R204, R220–R233). -/
namespace Sys2Proof.Machine

/-! ### Reading an image (R204) -/

/-- Read n bytes at a partition address; what other devices hold comes in turn from `remote`, none where one of them is
unreachable. -/
def State.loadBytes (s : State) (p va n : Nat) (remote : Option (List Byte)) : Option (List Byte) × Option (List Byte) × State :=
  match s.hubRead p va n 0 with
  | ({ data, far, fault }, s) =>
    if fault.isSome then (none, remote, s)
    else if far.isEmpty then (some data, remote, s)
    else match remote with
    | none => (none, none, s)
    | some r =>
      let (d, r) := far.foldl (fun (x : List Byte × List Byte) f =>
        (patchAt x.1 f.1 (fit f.2.2.2 x.2), x.2.drop f.2.2.2)) (data, r)
      (some d, some r, s)

/-- Writable bits of the register at an address. -/
def rwMask (a : Nat) : Nat :=
  match findReg a with
  | some (r, _) => r.fields.foldl (fun m f => match f.ty with | .rw => setBits m f.hi f.lo (2 ^ 64 - 1) | _ => m) 0
  | none => 0

/-- A slath as the checks see it: configuration block, entries (none where unreadable), and for each KLOAD the words of
its image. -/
structure Slath where
  cfg : List Byte
  entries : List (Option Nat)
  kernels : List (Nat × Option (List Nat))
  deriving DecidableEq, Repr

def Slath.field (k : Slath) (o n : Nat) : Nat := leVal ((k.cfg.drop o).take n)
def Slath.count (k : Slath) : Nat := k.field 4 4
def Slath.gradeCode (k : Slath) : Nat := k.field 2 1
/-- Arrays that the slath's grade enables (R174). -/
def Slath.arrays (k : Slath) : Nat := if k.gradeCode = 0 then 4 else 3
def Slath.queueMode (k : Slath) : Bool := bit (k.field 3 1) 0
def Slath.region (k : Slath) (n : Nat) : Nat := k.field (0x200 + 8 * n) 8
/-- Bound objects, partition-relative. -/
def Slath.bound (k : Slath) : List Nat :=
  ((List.range 64).filter (fun j => bit (k.field (0x300 + 2 * j) 2) 15)).map (fun j => bits (k.field (0x300 + 2 * j) 2) 13 0)
def Slath.entry (k : Slath) (i : Nat) : Nat := (k.entries.getD i none).getD 0

/-! ### Configuration (R162, R174, R192) -/

/-- The rules of R162 on the valid regions. -/
def Slath.regionsOk (k : Slath) : Bool :=
  let vs := (List.range 32).filter (fun n => regionValid (k.region n))
  vs.all (fun n => regionOk k.arrays (k.region n) ((vs.filter (· != n)).map (k.region ·)))

/-- Bytes of the configuration block that hold no field, and bits of its fields that are rsvd, are zero. -/
def Slath.rsvdOk (k : Slath) : Bool :=
  decide (k.field 3 1 < 2) && k.field 0x10 0xF0 == 0 && k.field 0x380 0x80 == 0 &&
  (List.range 64).all (fun j => !bit (k.field (0x300 + 2 * j) 2) 14) &&
  (List.range 32).all (fun n => k.region n &&& (2 ^ 64 - 1 - rwMask (aGabRegion 0 n)) == 0)

/-- Is an object of partition p bound to a tile other than t? -/
def State.boundElsewhere (s : State) (t i : Nat) : Bool := s.tiles.any (fun x => x.1 != t && x.2.seq.bound.contains i)

/-- Does a slath loaded into another tile wait on an object (R192)? -/
def State.waitedElsewhere (s : State) (t i : Nat) : Bool := s.tiles.any (fun x => x.1 != t && x.2.seq.waitsOn.contains i)

/-- Objects, partition-relative, that an entry waits on: by its wait slots, its command's guard, its window's close condition
(R150, R181, R238). -/
def entWaits (e : Nat) : List Nat :=
  let pl := entPayload e
  (([0, 1].filter (waitEn e ·)).map (fun j => bits (entSlot e j) 29 16))
    ++ (if entKind e = kEngine ∧ guardEn (entTarget e) pl then [guardObj (entTarget e) pl] else [])
    ++ (if entKind e = kWindow ∧ !bit pl 0 ∧ bit pl 223 then [bits pl 205 192] else [])

/-- Objects, partition-relative, that a slath waits on. -/
def Slath.waits (k : Slath) : List Nat := (k.entries.flatMap (fun e => match e with | some e => entWaits e | none => [])).eraseDups

/-- The checks of the configuration block for tile t; `several` tells a load of more than one tile. -/
def State.cfgOk (s : State) (p t : Nat) (several : Bool) (k : Slath) : Bool :=
  let x := s.part p
  k.field 0 2 == 1 && decide (k.gradeCode ≤ 2) && (k.gradeCode != 0 || s.grade == 0) &&
  decide (1 ≤ k.count ∧ k.count ≤ 2 ^ 20) && k.rsvdOk && k.regionsOk && (!several || k.bound.isEmpty) &&
  k.bound.all (fun o => decide (o < x.syncCount) && decide ((x.syncBase + o) / 4096 = t / 256) &&
    !s.boundElsewhere t (x.syncBase + o) && !s.waitedElsewhere t (x.syncBase + o))

/-! ### Objects, sync slots, queue fields, guards (R181, R182, R190, R192, R232, R233, R238) -/

/-- May tile t wait on a partition-relative object? -/
def State.waitable (s : State) (p t o : Nat) : Bool :=
  decide (o < (s.part p).syncCount) && !s.boundElsewhere t ((s.part p).syncBase + o)

/-- The rules of a wait slot. -/
def State.waitSlotOk (s : State) (p t w : Nat) : Bool :=
  bits w 33 30 == 0 && (!bit w 39 || s.waitable p t (bits w 29 16))

/-- The rules of a signal slot. -/
def State.sigSlotOk (s : State) (p w : Nat) : Bool :=
  bits w 31 30 == 0 && (!bit w 39 ||
    ((!bit w 38 || bits w 15 5 == 0) && (bit w 37 || decide (bits w 29 16 < (s.part p).syncCount))))

/-- The sync slots of an entry, by its kind (R180). -/
def State.slotsOk (s : State) (p t e : Nat) : Bool :=
  let kind := entKind e
  let waits := kind != kLoop && kind != kNext
  let sigs := waits && kind != kParam
  [0, 1].all (fun j => s.waitSlotOk p t (entSlot e j) && (waits || !waitEn e j)) &&
  [2, 3].all (fun j => s.sigSlotOk p (entSlot e j) && (sigs || !sigEn e j))

/-- The guard of a command. -/
def State.guardOk (s : State) (p t target pl : Nat) : Bool := !guardEn target pl || s.waitable p t (guardObj target pl)

/-- A queue field: none in address mode; a push needs a pop; the role, where it is fixed. -/
def queueOk (mode : Bool) (q : Nat) (role : Option Bool) : Bool :=
  q == 0 || (mode && (!qfHen q || qfPen q) && (match role with | some r => !qfPen q || qfRole q == r | none => true))

/-- Every bit of a payload outside the listed ranges is zero. -/
def onlyBits (p : Nat) (l : List (Nat × Nat)) : Bool := (l.foldl (fun v r => setBits v r.1 r.2 0) p) == 0

/-! ### Engine payloads (R41, R50, R52, R78, R83, R183, R220–R230) -/

/-- A MAC payload. -/
def Slath.macOk (k : Slath) (p : Nat) : Bool :=
  let acc := accKind (macSfmt p) (macTfmt p)
  bits p 319 248 == 0 && bits p 199 196 == 0 && !bit p 159 && acc.isSome && macForm p != 3 &&
  (macCen p || macDrainRows p != 0) && (!macCen p || macRows p != 0) &&
  decide (macDrainRows p ≤ accRows (acc.getD 1)) && (macForm p != 2 || macRows p % 32 == 0) &&
  ((!macSsc p && !macTsc p) || macForm p == 0) &&
  (!macSsc p || shortCode (macSfmt p)) && (!macTsc p || shortCode (macTfmt p)) &&
  (!macDgab p || acc == some 1) &&
  [0, 1, 3].all (fun j => queueOk k.queueMode (macQ p j) (some false)) &&
  queueOk k.queueMode (macQ p 2) (some true) && (!macDgab p || macQ p 2 == 0)

/-- Instructions that KLOADs of the slath write into some kernel slots (R107). -/
def Slath.written (k : Slath) (slot n : Nat) : List Nat :=
  k.kernels.flatMap (fun x =>
    let p := entPayload (k.entry x.1)
    (x.2.getD []).zipIdx.filterMap (fun w =>
      if slot ≤ kloadKslot p + w.2 ∧ kloadKslot p + w.2 < slot + n then some w.1 else none))

/-- A RUN payload, with the kernels that it may run. -/
def Slath.runOk (k : Slath) (p : Nat) : Bool :=
  let ws := k.written (veKslot p) (veKn p)
  bits p 317 280 == 0 && bits p 231 227 == 0 && bits p 120 119 == 0 && veFsel p != 3 && decide (1 ≤ veKn p ∧ veKn p ≤ 32) &&
  decide (veKslot p + veKn p ≤ 512) && (List.range 4).all (fun j => queueOk k.queueMode (veQ p j) none) &&
  ws.all (fun w => instrOk w && instrOkF (veF p) w &&
    !((wOp w == opLd || wOp w == opSt) && mGab (bits w 23 0) && veQ p (mOperand (bits w 23 0)) != 0))

/-- A KLOAD payload and its image, entry i. -/
def Slath.kloadOk (k : Slath) (i p : Nat) : Bool :=
  onlyBits p [(319, 318), (226, 191), (87, 78), (77, 69), (68, 21), (20, 0)] && decide (1 ≤ kloadKn p ∧ kloadKn p ≤ 512) &&
  decide (kloadKslot p + kloadKn p ≤ 512) &&
  (match k.kernels.find? (fun x => x.1 == i) with
   | some (_, some ws) => ws.all instrOk
   | _ => false)

/-- A COPY payload. -/
def Slath.copyOk (k : Slath) (p : Nat) : Bool :=
  bits p 316 208 == 0 && queueOk k.queueMode (seQ p 0) (some false) && queueOk k.queueMode (seQ p 1) (some true) &&
  (seSkind p == 0 || seQ p 0 == 0) && (seDkind p == 0 || seQ p 1 == 0)

/-- PLOAD and QPUSH payloads. -/
def ploadOk (p : Nat) : Bool :=
  onlyBits p [(319, 317), (183, 148), (109, 103), (102, 96), (20, 0)] && ploadCount p != 0 && ploadSlot p != 0 &&
  decide (ploadSlot p + ploadCount p ≤ 128)
def qpushOk (p : Nat) : Bool :=
  onlyBits p [(319, 317), (183, 148), (113, 110), (109, 103), (20, 0)] && decide (1 ≤ qpushN p ∧ qpushN p ≤ 32)

/-- An ENGINE entry's payload and base registers. -/
def Slath.engineOk (k : Slath) (i e : Nat) : Bool :=
  let t := entTarget e
  let p := entPayload e
  decide (t ≤ 5) && (4 ≤ t || decide (t < k.arrays)) && (!entBh e || decide (t < 4)) &&
  (List.range 4).all (fun j => entBreg e j == 0 || (baseField t p j).isSome) &&
  (if t < 4 then k.macOk p
   else if t = 4 then (match veVop p with | 0 => k.runOk p | 1 => k.kloadOk i p | _ => false)
   else match seSop p with | 0 => k.copyOk p | 1 => ploadOk p | 2 => qpushOk p | _ => false)

/-! ### Loops, spans, recovery points (R86, R113, R188, R194, R196, R201) -/

def loopNext (e : Nat) : Nat := bits (entPayload e) 51 32
def nextLoop (e : Nat) : Nat := bits (entPayload e) 19 0

/-- Is entry i a recovery point? -/
def Slath.isRp (k : Slath) (i : Nat) : Bool := i == 0 || entKind (k.entry i) == kMark || entRp (k.entry i)

/-- Does entry i issue a command that cannot be repeated? -/
def Slath.onceOnly (k : Slath) (e : Nat) : Bool :=
  let p := entPayload e
  entKind e == kEngine &&
    (if entTarget e < 4 then macDgab p && macDrainRows p != 0
     else if entTarget e = 4 then veVop p == 0 && (k.written (veKslot p) (veKn p)).any isClrLoad
     else seSop p == 0 && seDkind p == 3)

/-- LOOPs open at entry i: before it, with their NEXT at i or beyond. -/
def Slath.openLoops (k : Slath) (i : Nat) : List Nat :=
  (List.range i).filter (fun j => entKind (k.entry j) == kLoop && decide (i ≤ loopNext (k.entry j)))

/-- A LOOP or NEXT entry names its partner, loops nest, at most four deep. -/
def Slath.loopsOk (k : Slath) (i e : Nat) : Bool :=
  if entKind e = kLoop then
    let n := loopNext e
    decide (i < n) && decide (n < k.count) && entKind (k.entry n) == kNext && nextLoop (k.entry n) == i &&
    decide (bits (entPayload e) 20 0 ≤ 2 ^ 20) && decide ((k.openLoops i).length < 4) &&
    (k.openLoops i).all (fun j => decide (n < loopNext (k.entry j)))
  else if entKind e = kNext then
    decide (nextLoop e < i) && entKind (k.entry (nextLoop e)) == kLoop && loopNext (k.entry (nextLoop e)) == i
  else true

/-- Entries with ny = 1 that end at entry i. -/
def Slath.nyRun (k : Slath) : Nat → Nat
  | 0 => 0
  | i + 1 => if entNy (k.entry i) then k.nyRun i + 1 else 0

/-- The span rules at an entry. -/
def Slath.spanOk (k : Slath) (i e : Nat) : Bool :=
  !entNy e || (i != 0 && entKind e != kLoop && entKind e != kNext && entKind e != kEnd && !waitEn e 0 && !waitEn e 1 &&
    decide (k.nyRun i + 2 ≤ 64))

/-! ### Entries (R179, R180, R184, R185) -/

/-- The payload of a kind other than ENGINE. -/
def State.kindOk (s : State) (p t e : Nat) : Bool :=
  let pl := entPayload e
  match entKind e with
  | 2 => onlyBits pl [(5, 0)]
  | 3 => onlyBits pl [(51, 0)]
  | 4 => onlyBits pl [(19, 0)]
  | 5 => (List.range 5).all (fun j => decide (bits pl (64 * j + 63) (64 * j + 58) ≤ 0x10))
  | 6 => onlyBits pl [(255, 64), (4, 0)] && (bit pl 0 ||
      (bits pl 127 64 &&& (2 ^ 64 - 1 - rwMask (aSpadWinRange 0 0)) == 0 &&
       bits pl 191 128 &&& (2 ^ 64 - 1 - rwMask (aSpadWinWriters 0 0)) == 0 &&
       bits pl 255 192 &&& (2 ^ 64 - 1 - rwMask (aSpadWinClose 0 0)) == 0 &&
       (!bit (bits pl 255 192) 31 || s.waitable p t (bits pl 205 192))))
  | 7 => onlyBits pl [(31, 0)]
  | 15 => pl == 0
  | _ => false

/-- Every check of entry i for tile t. -/
def State.entryOk (s : State) (p t : Nat) (k : Slath) (i : Nat) : Bool :=
  match k.entries.getD i none with
  | none => false
  | some e =>
    bits e 21 20 == 0 && s.slotsOk p t e && k.loopsOk i e && k.spanOk i e &&
    (!k.onceOnly e || k.isRp (i + 1)) && (i + 1 != k.count || entKind e == kEnd) &&
    (if entKind e = kEngine then k.engineOk i e && s.guardOk p t (entTarget e) (entPayload e)
     else entTarget e == 0 && !entBh e &&
       (List.range 4).all (fun j => entBreg e j == 0 || (entKind e == kWindow && decide (j < 2))) && s.kindOk p t e)

/-- What a load of tile t is rejected for: none, the configuration block as 0xF_FFFF, or the lowest failing entry. -/
def State.slathFault (s : State) (p t : Nat) (several : Bool) (k : Slath) : Option Nat :=
  if !s.cfgOk p t several k then some 0xFFFFF else firstIdx (fun i => !s.entryOk p t k i) k.count

/-! ### Loading (R175, R204, R462) -/

/-- Read an image: its configuration block, its entries and the kernels that its KLOADs name. -/
def State.readSlath (s : State) (p image : Nat) (remote : Option (List Byte)) : Option Slath × State :=
  match s.loadBytes p image 1024 remote with
  | (none, _, s) => (none, s)
  | (some cfg, r, s) =>
    let k : Slath := { cfg, entries := [], kernels := [] }
    let n := if k.count ≤ 2 ^ 20 then k.count else 0
    let (es, r, s) := (List.range n).foldl (fun (x : List (Option Nat) × Option (List Byte) × State) i =>
      let (d, r, s) := x.2.2.loadBytes p (image + 1024 + 64 * i) 64 x.2.1
      (x.1 ++ [d.map leVal], r, s)) ([], r, s)
    let k := { k with entries := es }
    let ks := (List.range n).filter (fun i => let e := k.entry i
      entKind e == kEngine && entTarget e == 4 && veVop (entPayload e) == 1)
    let (kr, _, s) := ks.foldl (fun (x : List (Nat × Option (List Nat)) × Option (List Byte) × State) i =>
      let pl := entPayload (k.entry i)
      let (d, r, s) := x.2.2.loadBytes p (kloadImage pl) (8 * kloadKn pl) x.2.1
      (x.1 ++ [(i, d.map (codesOf 8))], r, s)) ([], r, s)
    (some { k with kernels := kr }, s)

/-- Write a slath's configuration, and the objects it waits on, into tile t, whose sequencer enters LOADED (R139, R167, R175, R192, R205). -/
def State.writeConfig (s : State) (p t image : Nat) (k : Slath) (waits : List Nat) : State :=
  let s := (s.wrN (aSqSlathBase t) image).wrN (aSpadBankOwner t) (k.field 8 8 &&& rwMask (aSpadBankOwner t))
  let s := (List.range 32).foldl (fun s n => s.wrN (aGabRegion t n) (k.region n)) s
  let s := s.onTile t (fun x => { x with slath := [], fetches := [], seq := { x.seq with
    entryCount := k.count, queueMode := k.queueMode,
    sregInit := (List.range 32).map (fun n => BitVec.ofNat 64 (k.field (0x100 + 8 * n) 8)),
    bound := k.bound.map ((s.part p).syncBase + ·), waitsOn := waits } })
  s.toLoaded t

/-- The answer to a rejected load: entry and tile, 0x3FF where every tile fails alike (R462). -/
def rejection (l : List (Nat × Option Nat)) : Option Nat :=
  match l.filterMap (fun x => x.2.map (fun f => (x.1, f))) with
  | [] => none
  | x :: r =>
    let best := r.foldl (fun (b : Nat × Nat) y =>
      let rank (f : Nat) : Nat := if f = 0xFFFFF then 0 else f + 1
      if rank y.2 < rank b.2 then y else b) x
    let alike := l.all (fun y => y.2 == some best.2)
    some (best.2 + (if alike then 0x3FF else best.1) * 2 ^ 32)

/-- Tiles that a load names: by index in the partition. -/
def State.loadTiles (s : State) (p first n : Nat) : List Nat := ((s.partTiles p).drop first).take n

end Sys2Proof.Machine
end

