-- ==== Sys2Proof/Machine/Wale.lean ====
section
/-! DEFINITION. Contained and fatal faults at the MP; the wale engine (R426–R434, R444–R448). -/
namespace Sys2Proof.Machine

/-! ### Faults at the MP (R38, R444, R445, R573) -/

/-- A contained fault is taken: the first since the partition's last restore stops it, is reported, and is kept for the
replies that name it; the third such before a step completes is reported as persistent (R445). -/
def State.takeFault (s : State) (f : FaultPost) : State :=
  let p := f.part
  let x := s.part p
  let s := s.onPart p (fun x => { x with faults := x.faults + 1 })
  if x.faults ≠ 0 then s.partStopped p
  else
    let d0 := faultDetail f.cause f.source f.tile f.entry
    let s := s.onPart p (fun x => { x with detail := some (d0, f.addr), strikes := x.strikes + 1, preempt := none, saving := false })
    let s := (s.postMp 0xC5 p f.cause).event (if 2 ≤ x.strikes then 3 else 2) p d0 f.addr
    let s := if s.job p = 2 then s.setJob p 6 else s
    ((s.finish 0x33 p stFault d0 f.addr).stopPart p 1).partStopped p

/-- CONTAINED_FAULT_POST: the oldest fault post reaches the MP. With trig_contained, or trig_slip for cause 0x06, the
device freezes before the MP acts on it; the post is handled after the freeze (R445, R573). -/
def State.faultReaches (s : State) : State :=
  match s.faults with
  | [] => s
  | f :: rest =>
    let slip := f.cause == 6 && f.source == 1 && s.dbgEn 6
    if !f.froze && (s.dbgEn 5 || slip) then
      ({ s with faults := { f with froze := true } :: rest }).freeze (if s.dbgEn 5 then 4 else 5) 0
    else ({ s with faults := rest }).takeFault f

/-- CONTAINED_FAULT_POST. -/
def execContainedFaultPost (s : State) : Host.Outcome State Fault Refusal := .next (s.clocked (·.faultReaches))

/-- FATAL_FAULT: a fatal fault with its cause. -/
def execFatalFault (cause : Byte) (s : State) : Host.Outcome State Fault Refusal :=
  .next (if s.getF aHifStatus 2 0 = 3 then s else s.fatal cause.toNat)

/-- MP_WATCHDOG_EXPIRY: a fatal fault; the watchdog stands still during a freeze (R444, R577). -/
def execMpWatchdogExpiry (s : State) : Host.Outcome State Fault Refusal :=
  .next (s.clocked (fun s => if s.getF aHifStatus 2 0 = 3 then s else s.fatal 0x14))

/-! ### Slots and records (R426, R433) -/

/-- The wale context of partition p. -/
def State.wale (s : State) (p : Nat) : Wale := (s.part p).wale
def State.onWale (s : State) (p : Nat) (f : Wale → Wale) : State := s.onPart p (fun x => { x with wale := f x.wale })

/-- The partition's objects of the wale, made absolute: step, gate, mirror, commit from the low end of MP_WALE_OBJ. -/
def State.waleObj (s : State) (p k : Nat) : Nat := (s.part p).syncBase + s.getF (aMpWaleObj p) (16 * k + 13) (16 * k)

/-- Bytes of the state regions. -/
def Wale.stateBytes (w : Wale) : Nat := (w.regions.map (·.2)).sum
/-- Places of the state regions in a slot. -/
def Wale.places (w : Wale) : List (Nat × Nat × Nat) :=
  (w.regions.foldl (fun (x : List (Nat × Nat × Nat) × Nat) r => (x.1 ++ [(r.1, r.2, x.2)], x.2 + (r.2 + 255) / 256 * 256)) ([], 2 ^ 19)).1
/-- Size of a slot: record, regions, rounded up to 2 MiB. -/
def Wale.slotSize (w : Wale) : Nat :=
  (2 ^ 19 + (w.regions.map (fun r => (r.2 + 255) / 256 * 256)).sum + 2 ^ 21 - 1) / 2 ^ 21 * 2 ^ 21
/-- Space 0 offset of a local slot. -/
def State.slotBase (s : State) (p i : Nat) : Nat := s.getF (aMpWaleArea p) 41 21 * 2 ^ 21 + i * (s.wale p).slotSize

/-- The slot of the newest complete local wale, where there is one, and the one that a new wale takes (R429). -/
def State.newest (s : State) (p : Nat) : Option Nat :=
  let k := s.getF (aMpWaleStatus p) 28 28
  if (mapGet none (s.wale p).slots k).isSome then some k else none
def State.freeSlot (s : State) (p : Nat) : Nat := match s.newest p with | some k => 1 - k | none => 0

/-- Bytes padded to a multiple of 16. -/
def pad16 (l : List Byte) : List Byte := l ++ List.replicate ((l.length + 15) / 16 * 16 - l.length) 0

/-- Keys and counters of the streams of a partition's tiles (R433). -/
def State.streamBytes (s : State) (p : Nat) : List Byte :=
  (s.partTiles p).flatMap (fun t => (List.range 16).flatMap (fun i =>
    leBytes 8 (s.rdN (aVeRngKey t i)) ++ leBytes 8 (s.rdN (aVeRngCtrLo t i)) ++ leBytes 8 (s.rdN (aVeRngCtrHi t i))))

/-- A step record (R433). -/
def State.stepRecord (s : State) (p : Nat) (poisoned : Bool) (cursors : List Byte) : List Byte :=
  let x := s.part p
  let w := x.wale
  let tables := pad16 (w.regions.flatMap (fun r => leBytes 8 r.1 ++ leBytes 8 r.2)) ++ pad16 cursors
    ++ pad16 ((List.range x.groupCount).flatMap (fun i => leBytes 4 (s.groupVersion (x.groupBase + i)))) ++ w.streams
  let head (crc : Nat) : List Byte :=
    leBytes 2 1 ++ leBytes 1 p ++ leBytes 1 (1 + 2 * b2n poisoned) ++ leBytes 4 (256 + tables.length) ++ leBytes 8 w.step
      ++ leBytes 8 w.hoop ++ leBytes 8 s.planId ++ leBytes 2 s.devId ++ leBytes 2 (s.partTiles p).length
      ++ leBytes 4 w.q ++ leBytes 8 w.stateBytes ++ leBytes 2 w.regions.length
      ++ leBytes 2 (cursors.length / 16) ++ leBytes 2 x.groupBase ++ leBytes 2 x.groupCount ++ leBytes 8 crc
  let all (crc : Nat) : List Byte := fit 256 (head crc) ++ tables
  all (crc64 (all 0))

/-! ### Copies (R270, R285, R429, R431) -/

/-- Copy a block within a 256 B line from a partition address to a space 0 offset, with its poison; the fault's status
where it cannot be read. -/
def State.copyBlock (s : State) (p va n dst : Nat) : Except Nat Bool × State :=
  match s.walk p va with
  | (.fault c, s) => (.error c, s)
  | (.outside, s) => (.error 3, s)
  | (.page big dev sp base _, s) =>
    if dev ≠ s.devId ∨ sp ≠ 0 then (.error 3, s)
    else
      let (po, s) := s.copyPiece (pageAddr big base va) n dst
      (.ok (po != 0), (s.cnt (aCntWaleCopyBytes p) n))

/-- Copy a region to a place: whether any word was poisoned. -/
def State.copyRegion (s : State) (p va n dst : Nat) : Except Nat Bool × State :=
  (linePieces (n / 256 + 2) va n).foldl (fun (x : Except Nat Bool × State) b =>
    match x.1 with
    | .error _ => x
    | .ok bad => match x.2.copyBlock p b.1 b.2 (dst + (b.1 - va)) with
      | (.ok b', s) => (.ok (bad || b'), s)
      | (.error e, s) => (.error e, s)) (.ok false, s)

/-- Copy every region. -/
def State.copyRegions (s : State) (p base : Nat) : Except Nat Bool × State :=
  (s.wale p).places.foldl (fun (x : Except Nat Bool × State) r =>
    match x.1 with
    | .error _ => x
    | .ok bad => match x.2.copyRegion p r.1 r.2.1 (base + r.2.2) with
      | (.ok b, s) => (.ok (bad || b), s)
      | (.error e, s) => (.error e, s)) (.ok false, s)

/-- The cursor table's bytes: none where it cannot be read. -/
def State.cursorBytes (s : State) (p : Nat) : Option (List Byte) × State :=
  match s.hubRead p (s.wale p).cursorTable (16 * (s.wale p).cursors) 1 with
  | ({ data, far, fault }, s) => (if fault.isSome ∨ !far.isEmpty then none else some data, s)

/-! ### Taking a wale (R428–R432) -/

/-- SET or SIGNAL an object of the wale. -/
def State.waleSignal (s : State) (p k : Nat) (set : Bool) (v : Nat) : State :=
  s.sendOp { src := 2050, obj := s.waleObj p k, set, val := v, reply := none }

/-- State field of MP_WALE_STATUS: 0 idle, 1 commit stall, 2 copying, 3 mirroring. -/
def State.waleState (s : State) (p : Nat) : Nat := s.getF (aMpWaleStatus p) 31 30
def State.setWale (s : State) (p st : Nat) : State := s.setF (aMpWaleStatus p) 31 30 st

/-- A wale ends under R432: the gate is still set, the host is told. -/
def State.waleFails (s : State) (p status : Nat) : State :=
  if s.waleState p = 0 ∧ (s.wale p).mirror.isNone then s
  else
    let st := s.waleState p
    let mirror := (s.wale p).mirror.isSome
    let s := s.onWale p (fun w => { w with mirror := none })
    let s := if mirror ∧ st = 1 then s else s.setWale p 0
    let s := if !mirror ∨ st = 2 then s.waleSignal p 1 true (s.wale p).k else s
    ((s.setF (aMpWaleStatus p) 29 29 1).postMp 0xC3 p status).event 7 p status 0

/-- WALE_FAULT. -/
def execWaleFault (p : PartId) (status : Byte) (s : State) : Host.Outcome State Fault Refusal :=
  .next (s.clocked (·.waleFails p.val status.toNat))

/-- Has the wale before the newest been committed (R429)? -/
def State.committed (s : State) (p : Nat) : Bool :=
  wrapGe (s.obj (s.waleObj p 3)) (((s.wale p).q + 2 ^ 32 - 1) % 2 ^ 32)

/-- The record of a copy that has been made, or the wale's failure (R430, R433). -/
def State.waleRecord (p base : Nat) (copy : Except Nat Bool × State) : State :=
  match copy with
  | (.error e, s) => s.waleFails p e
  | (.ok bad, s) =>
    match s.cursorBytes p with
    | (none, s) => s.waleFails p 3
    | (some cur, s) => s.memWrite base ((s.stepRecord p bad cur).set 3 (BitVec.ofNat 8 (2 * b2n bad))) 1

/-- Begin the copy: the slot's complete flag is cleared, and the state regions are copied as they stand (R429, R430). -/
def State.waleCopy (s : State) (p : Nat) : State :=
  let slot := s.freeSlot p
  let s := s.onWale p (fun w => { w with slot, slots := mapPut none w.slots slot none })
  let base := s.slotBase p slot
  let s := (s.memWrite (base + 3) [0] 1).setWale p 2
  waleRecord p base (s.copyRegions p base)

/-- STEP_BOUNDARY: the step object has reached (k + 1) times the tile count: the step advances, a due wale begins, and
otherwise the gate opens at once (R427–R429). -/
def State.stepBoundary (s : State) (p : Nat) : State :=
  let w := s.wale p
  let interval := s.getF (aMpWaleCfg p) 31 16
  let tiles := (s.partTiles p).length
  if !s.partExists p ∨ interval = 0 ∨ !wrapGe (s.obj (s.waleObj p 0)) ((w.k + 1) * tiles % 2 ^ 32) then s
  else
    let n := s.rdN (aMpWaleStep p) + 1
    let s := (s.wrN (aMpWaleStep p) n).onPart p (fun x => { x with strikes := 0, wale := { w with k := w.k + 1 } })
    match (s.part p).replay with
    | some r =>
      let s := s.waleSignal p 1 true (w.k + 1)
      if r.stopStep ≤ n then (s.stopPart p 1).partStopped p else s
    | none =>
      if n % interval ≠ 0 ∧ !w.due then s.waleSignal p 1 true (w.k + 1)
      else
        let q := w.q + 1
        let streams := s.streamBytes p
        let s := s.onWale p (fun w => { w with q, due := false, step := n, hoop := s.hoop, streams })
        let s := (s.setF (aMpWaleStatus p) 27 0 q).postMp 0xC0 p n
        if s.committed p then s.waleCopy p else s.setWale p 1

/-- STEP_BOUNDARY. -/
def execStepBoundary (p : PartId) (s : State) : Host.Outcome State Fault Refusal := .next (s.clocked (·.stepBoundary p.val))

/-- WALE_COMMIT_STALL_END. -/
def execWaleCommitStallEnd (p : PartId) (s : State) : Host.Outcome State Fault Refusal :=
  .next (s.clocked (fun s => if s.waleState p.val = 1 ∧ s.committed p.val then s.waleCopy p.val else s))

/-- WALE_COPY_COMPLETE: every write is answered: the record becomes complete, the gate opens, the mirror starts (R429). -/
def State.copyComplete (s : State) (p : Nat) : State :=
  if s.waleState p ≠ 2 then s
  else
    let w := s.wale p
    let base := s.slotBase p w.slot
    let (flags, _, s) := s.memNat (base + 3) 1
    let s := s.memWrite (base + 3) [BitVec.ofNat 8 (setBits flags 0 0 1)] 1
    let s := s.onWale p (fun x => { x with slots := mapPut none x.slots w.slot (some w.step) })
    let s := (s.setF (aMpWaleStatus p) 28 28 w.slot).wrN (aMpWaleLocal p) w.step
    let s := (s.postMp 0xC1 p w.step).waleSignal p 1 true w.k
    if s.getF (aMpWaleBuddy p) 0 0 = 1 then (s.onWale p (fun x => { x with mirror := some (w.step, w.slot) })).setWale p 3
    else s.setWale p 0

/-- WALE_COPY_COMPLETE. -/
def execWaleCopyComplete (p : PartId) (s : State) : Host.Outcome State Fault Refusal := .next (s.clocked (·.copyComplete p.val))

/-- WALE_MIRROR_COMPLETE: the buddy has answered every write: mirror object, and commit object without commit_en (R427,
R429, R447). -/
def State.mirrorComplete (s : State) (p : Nat) : State :=
  match (s.wale p).mirror with
  | none => s
  | some (step, slot) =>
    let (len, _, s) := s.memNat (s.slotBase p slot + 4) 4
    let s := s.onWale p (fun x => { x with mirror := none })
    let s := if s.waleState p = 3 then s.setWale p 0 else s
    let s := (s.wrN (aMpWaleMirror p) step).cnt (aCntWaleMirrorBytes p) (len + (s.wale p).stateBytes)
    let s := s.waleSignal p 2 false 1
    let s := if s.getF (aMpWaleCfg p) 0 0 = 0 then s.waleSignal p 3 false 1 else s
    s.postMp 0xC2 p step

/-- WALE_MIRROR_COMPLETE. -/
def execWaleMirrorComplete (p : PartId) (s : State) : Host.Outcome State Fault Refusal := .next (s.clocked (·.mirrorComplete p.val))

/-- COMMIT_STALL_OVER_1S. -/
def execCommitStallOver1s (p : PartId) (s : State) : Host.Outcome State Fault Refusal :=
  .next (s.clocked (fun s => if s.waleState p.val = 1 then s.postMp 0xC4 p.val (s.getF (aMpWaleStatus p.val) 27 0) else s))

end Sys2Proof.Machine
end

