-- ==== Sys2Proof/Machine/HostCmd.lean ====
section
/-! DEFINITION. Command packets: the aperture, how a packet is taken and checked (R449–R462, R466–R470, R518), and the
function-level reset, the event and interrupt rows. -/
namespace Sys2Proof.Machine

/-! ### The aperture (R454, R455) -/

/-- APERTURE_WRITE: 64 or 128 bytes at a 64-byte boundary are a packet; a full FIFO holds the write back. -/
def State.aperture (s : State) (off : Nat) (data : List Byte) : State :=
  if !s.hostUp ∨ 1024 ≤ s.host.fifo.length then s
  else if off % 64 = 0 ∧ (data.length = 64 ∨ data.length = 128) then
    (s.onHost (fun h => { h with fifo := h.fifo ++ [data] })).hifShow
  else s.badWrite (off % 65536) data.length

/-- APERTURE_WRITE. -/
def execApertureWrite (offset : BitVec 26) (data : List Byte) (s : State) : Host.Outcome State Fault Refusal :=
  .next (s.aperture offset.toNat data)

/-! ### The opcodes (R461, R462) -/

/-- Which partition fields an opcode takes: 0xFF, an existing partition, a partition that does not exist, either of the
first two. -/
inductive PartKind
  | device | part | newPart | either
  deriving DecidableEq, Repr

/-- A row of R461: opcode, packet size, partition field, and the parameter bytes of R462 as (offset, length). -/
structure HostRow where
  op : Nat
  size : Nat
  kind : PartKind
  used : List (Nat × Nat)
  deriving DecidableEq, Repr

/-- The opcodes. -/
def hostRows : List HostRow :=
  [⟨0x01, 64, .device, []⟩, ⟨0x02, 64, .device, [(16, 12)]⟩, ⟨0x03, 64, .device, [(16, 12), (32, 32)]⟩,
   ⟨0x04, 64, .device, [(16, 4)]⟩, ⟨0x05, 64, .device, [(16, 16)]⟩, ⟨0x06, 64, .device, []⟩,
   ⟨0x10, 64, .device, [(16, 12)]⟩, ⟨0x11, 64, .device, [(16, 4)]⟩, ⟨0x20, 128, .newPart, [(16, 1), (20, 28)]⟩,
   ⟨0x21, 64, .part, []⟩, ⟨0x22, 64, .part, []⟩, ⟨0x30, 64, .part, [(16, 16)]⟩, ⟨0x31, 64, .part, [(16, 10)]⟩,
   ⟨0x32, 64, .part, []⟩, ⟨0x33, 64, .part, []⟩, ⟨0x34, 64, .part, []⟩, ⟨0x35, 64, .part, [(16, 4)]⟩,
   ⟨0x40, 128, .part, [(16, 14), (32, 26), (64, 12)]⟩] ++
  [⟨0x41, 64, .part, []⟩, ⟨0x42, 64, .part, [(16, 9), (32, 12)]⟩, ⟨0x43, 64, .part, [(16, 17)]⟩,
   ⟨0x50, 64, .device, [(16, 12)]⟩, ⟨0x51, 64, .device, []⟩, ⟨0x52, 64, .device, [(16, 12)]⟩,
   ⟨0x53, 128, .device, [(16, 1), (24, 96)]⟩, ⟨0x54, 64, .part, [(16, 12)]⟩, ⟨0x55, 64, .device, [(16, 2)]⟩,
   ⟨0x60, 64, .either, [(16, 13), (32, 8)]⟩, ⟨0x61, 64, .either, [(16, 4)]⟩, ⟨0x62, 64, .device, [(16, 16)]⟩,
   ⟨0x70, 64, .device, [(16, 8)]⟩, ⟨0x71, 64, .device, []⟩, ⟨0x80, 64, .part, []⟩, ⟨0x81, 64, .device, []⟩,
   ⟨0x90, 64, .device, []⟩, ⟨0x91, 64, .device, [(16, 12)]⟩, ⟨0xA0, 64, .part, [(16, 21)]⟩]

/-- The row of an opcode. -/
def hostRow (op : Nat) : Option HostRow := hostRows.find? (fun r => decide (r.op = op))

/-! ### Checks (R457, R458) -/

/-- A packet's host buffer at an offset: bus address and length. -/
def bufAddr (k : List Byte) (o : Nat) : Nat := pktField k o 8
def bufLen (k : List Byte) (o : Nat) : Nat := pktField k (o + 8) 4

/-- A limit that a parameter must keep, with the offset of the parameter. -/
abbrev Limit := Nat × Bool

/-- The limits of a host buffer. -/
def bufLimits (k : List Byte) (o : Nat) : List Limit :=
  [(o, decide (bufAddr k o % 64 = 0)), (o + 8, decide (64 ≤ bufLen k o ∧ bufLen k o ≤ 2 ^ 24 ∧ bufLen k o % 64 = 0))]

/-- Is byte i of a packet named by its row? -/
def HostRow.names (r : HostRow) (i : Nat) : Bool := decide (i < 6) || r.used.any (fun u => decide (u.1 ≤ i ∧ i < u.1 + u.2))

/-- The smallest offset at which a packet breaks check 4: a rsvd byte that is not zero, or a parameter out of its range. -/
def HostRow.badParam (r : HostRow) (k : List Byte) (limits : List Limit) : Option Nat :=
  let a := (List.range k.length).filter (fun i => !r.names i && recByte k i != 0)
  let b := (limits.filter (fun l => !l.2)).map (·.1)
  (a ++ b).min?

/-- Check 3. -/
def State.partFieldOk (s : State) (r : HostRow) (p : Nat) : Bool :=
  match r.kind with
  | .device => p == 255
  | .part => decide (p < 16) && s.partExists p
  | .newPart => decide (p < 16) && !s.partExists p
  | .either => p == 255 || (decide (p < 16) && s.partExists p)

/-- The first of checks 2–4 that a packet of a known opcode fails: its status and d0. -/
def State.packetFault (s : State) (r : HostRow) (k : List Byte) (limits : List Limit) : Option (Nat × Nat) :=
  if ¬(k.length = r.size ∧ pktSize k = (if r.size = 128 then 1 else 0)) then some (stBadLength, 0)
  else if !s.partFieldOk r (pktPart k) then some (stBadPartition, 0)
  else (r.badParam k limits).map (fun o => (stBadParam, o))

/-! ### Taking a packet (R459, R469, R470, R518) -/

/-- HIF_STATUS.mode. -/
def State.mode (s : State) : Nat := s.getF aHifStatus 2 0

/-- May a packet of a class be taken before another of the same class: the exceptions of R459 and R470? -/
def State.mayPass (s : State) (op cls : Nat) : Bool :=
  op == 0x80 || op == 0x81 || (op == 0x71 && s.mode == 4) || (op == 0x32 && (s.runOf 0x43 cls).isSome)

/-- Does a running command keep a packet of a class waiting? -/
def State.classBusy (s : State) (op cls : Nat) : Bool :=
  s.host.running.any (fun r =>
    let o := pktOpcode r.pkt
    pktPart r.pkt == cls && o != 0x81 && !(op == 0x81) && !(op == 0x71 && s.mode == 4) &&
      (if op = 0x80 then o == 0x80 else !(op == 0x32 && o == 0x43)))

/-- The first packet of an opcode that can be taken, with its place. -/
def State.nextPacket (s : State) (op : Nat) : Option (List Byte × Nat) :=
  (s.host.fifo.zipIdx).find? (fun x =>
    decide (pktOpcode x.1 = op) && !s.classBusy op (pktPart x.1) &&
      (s.mayPass op (pktPart x.1) || (s.host.fifo.take x.2).all (fun k => pktPart k != pktPart x.1)))

/-- Take the packet at a place out of the FIFO; it is counted (R473). -/
def State.takeAt (s : State) (i : Nat) : State :=
  ((s.onHost (fun h => { h with fifo := h.fifo.eraseIdx i })).cnt aCntHifPackets).hifShow

/-- The status that the mode gives an opcode instead of serving it (R445, R469). -/
def modeStatus (mode op : Nat) : Option Nat :=
  if mode = 3 then some stFatal
  else if mode = 2 ∧ [0x01, 0x02, 0x04, 0x05, 0x06, 0x10].contains op = false then some stRecovery
  else none

/-- The mode that decides, during a freeze the one before it. -/
def State.serveMode (s : State) (op : Nat) : Nat := if s.mode = 4 then (if op = 0x71 then 1 else s.dbg.mode) else s.mode

/-- Answer packets of unknown opcodes that have come to the head of their class. -/
def State.badOpcodes : Nat → State → State
  | 0, s => s
  | n + 1, s =>
    match (s.host.fifo.zipIdx).find? (fun x =>
        (hostRow (pktOpcode x.1)).isNone && !s.classBusy 0 (pktPart x.1) &&
          (s.host.fifo.take x.2).all (fun k => pktPart k != pktPart x.1)) with
    | none => s
    | some (k, i) =>
      if 256 ≤ s.host.replyQ.length then s
      else badOpcodes n ((s.takeAt i).reply k ((modeStatus s.mode (pktOpcode k)).getD stBadOpcode) 0 0)

/-- Opcodes that the MP serves in any power state (R518). -/
def anyPower (op : Nat) : Bool := [0x01, 0x02, 0x03, 0x10, 0x22, 0x90].contains op

/-- Is the device out of P0, or on its way out of it or back? -/
def State.asleep (s : State) : Bool := s.powerState != 0 || s.getF aPwrStatus 11 11 == 1 || s.pwr.waking

/-- Are commands served at all: a mode that serves, room for a reply, no WARM_RESET under way, and in a freeze only the
opcodes of R470? -/
def State.serves (s : State) (op : Nat) : Bool :=
  s.mode != 0 && decide (s.host.replyQ.length < 256) && ((s.runOf 0x81 255).isNone || s.mode == 2) &&
    (s.mode != 4 || op == 0x71 || op == 0x81)

/-- Serve the next packet of an opcode: a wake keeps it in the FIFO; checks, then its body, which is told how many packets
stood before it. -/
def State.hostCommandAt (s : State) (op : Nat) (limits : State → List Byte → List Limit)
    (body : State → List Byte → Nat → State) : State :=
  if !s.serves op then s
  else
    let s := if s.mode = 4 then s else s.badOpcodes s.host.fifo.length
    match hostRow op, s.nextPacket op with
    | some r, some (k, i) =>
      if s.asleep && !anyPower op && !(op == 0x11 && decide (s.stateInForce ≤ deepest (pktField k 16 4))) then s.wake (if op = 0x11 then 2 else 1)
      else
        let t := s.takeAt i
        match modeStatus (s.serveMode op) op with
        | some st => t.reply k st 0 0
        | none =>
          match s.packetFault r k (limits s k) with
          | some (st, d0) => t.reply k st d0 0
          | none => body t k i
    | _, _ => s

/-- Serve the next packet of an opcode. -/
def State.hostCommand (s : State) (op : Nat) (limits : State → List Byte → List Limit) (body : State → List Byte → State) :
    State :=
  s.hostCommandAt op limits (fun s k _ => body s k)

/-- A command goes on running until another row ends it. -/
def State.startRun (s : State) (k : List Byte) : State :=
  (s.onHost (fun h => { h with running := h.running ++ [{ pkt := k, hoop := s.hoop }] })).hifShow

/-- Reply OK, or BAD_STATE. -/
def State.ok (s : State) (k : List Byte) (d0 d1 : Nat) : State := s.reply k stOk d0 d1
def State.badState (s : State) (k : List Byte) : State := s.reply k stBadState 0 0

/-- Write data into a packet's host buffer, and reply with d0: a buffer that is too short takes nothing (R458, R462). -/
def State.fillBuffer (s : State) (k : List Byte) (o : Nat) (dmaOk : Bool) (data : List Byte) : State :=
  if bufLen k o < data.length then s.reply k stBadParam data.length 0
  else if !dmaOk then s.reply k stHostDma 0 0
  else (s.onHost (·.put (bufAddr k o) data)).ok k data.length 0

/-- The bytes of a packet's host buffer, as the DMA read gave them: none where it failed. -/
def bufData (k : List Byte) (o : Nat) (dma : Option (List Byte)) : Option (List Byte) := dma.map (fit (bufLen k o))

/-- No limits. -/
def noLimits (_ : State) (_ : List Byte) : List Limit := []

/-! ### Identity and images (R462, R533, R535, R539) -/

/-- Firmware version that IDENTIFY reports (R462). -/
def State.fwVersion (s : State) : Nat := s.getF aSecBootStatus 15 0

/-- IDENTIFY; the serial is a number with its first byte most significant. -/
def State.identify (s : State) (k : List Byte) : State :=
  s.ok k (s.grade + s.getF aHifId 23 16 * 2 ^ 8 + s.fwVersion * 2 ^ 16 + s.otp.arb * 2 ^ 32)
    (leVal ((fit 16 Config.serial).drop 8).reverse)

/-- IDENTIFY. -/
def execIdentify (s : State) : Host.Outcome State Fault Refusal := .next (s.hostCommand 0x01 noLimits (·.identify ·))

/-- GET_CERT. -/
def execGetCert (dmaOk : Bool) (s : State) : Host.Outcome State Fault Refusal :=
  .next (s.hostCommand 0x02 (fun _ k => bufLimits k 16) (fun s k => s.fillBuffer k 16 dmaOk certBlob))

/-- ATTEST: quote and statement; the quote is counted. -/
def State.attest (s : State) (k : List Byte) (dmaOk : Bool) : State :=
  let s := if 780 ≤ bufLen k 16 then s.cnt aCntSecQuotes else s
  s.fillBuffer k 16 dmaOk (s.quote ((k.drop 32).take 32) ++ s.statement)

/-- ATTEST. -/
def execAttest (dmaOk : Bool) (s : State) : Host.Outcome State Fault Refusal :=
  .next (s.hostCommand 0x03 (fun _ k => bufLimits k 16) (fun s k => s.attest k dmaOk))

/-- LOAD_IMAGE_BEGIN. -/
def execLoadImageBegin (s : State) : Host.Outcome State Fault Refusal :=
  .next (s.hostCommand 0x04 (fun _ k => [(16, decide (1 ≤ pktField k 16 4 ∧ pktField k 16 4 ≤ 2 ^ 25))])
    (fun s k => (s.onHost (fun h => { h with load := some { len := pktField k 16 4 } })).ok k 0 0))

/-- LOAD_IMAGE_DATA: the piece's bytes that lie within the image are kept. -/
def State.loadData (s : State) (k : List Byte) (dma : Option (List Byte)) : State :=
  let off := pktField k 28 4
  match s.host.load, bufData k 16 dma with
  | none, _ => s.badState k
  | some _, none => s.reply k stHostDma 0 0
  | some l, some d =>
    let n := min d.length (l.len - off)
    let data := (d.take n).zipIdx.foldl (fun m x => mapPut 0 m (off + x.2) x.1) l.data
    (s.onHost (fun h => { h with load := some { l with data, got := l.got ++ [(off, off + n)] } })).ok k n 0

/-- LOAD_IMAGE_DATA. -/
def execLoadImageData (dma : Option (List Byte)) (s : State) : Host.Outcome State Fault Refusal :=
  .next (s.hostCommand 0x05
    (fun s k => bufLimits k 16 ++ [(28, match s.host.load with | some l => decide (pktField k 28 4 < l.len) | none => true)])
    (fun s k => s.loadData k dma))

/-- How far ranges cover from a place on. -/
def covered (rs : List (Nat × Nat)) : Nat → Nat → Nat
  | 0, x => x
  | n + 1, x => covered rs n (rs.foldl (fun m r => if r.1 ≤ x then max m r.2 else m) x)

/-- LOAD_IMAGE_END: the image is verified and written to flash; the ROM boots it in recovery (R469, R533). -/
def State.loadEnd (s : State) (k : List Byte) : State :=
  match s.host.load with
  | none => s.badState k
  | some l =>
    if covered l.got l.got.length 0 < l.len then s.reply k stBadParam 0 0
    else
      let img := (List.range l.len).map (mapGet 0 l.data)
      if s.imageCheck img ≠ 0 then s.reply k stAuthFail 0 0
      else
        let flash := img.zipIdx.foldl (fun m x => mapPut 0 m x.2 x.1) s.otp.flash
        let s := { s with otp := { s.otp with flash } }
        let s : State := (s.onHost (fun h => { h with load := none })).ok k (imgField img 0xC 1) 0
        if s.mode = 2 then (s.bootImage img).setMode 0 else s

/-- LOAD_IMAGE_END. -/
def execLoadImageEnd (s : State) : Host.Outcome State Fault Refusal := .next (s.hostCommand 0x06 noLimits (·.loadEnd ·))

/-! ### The ring and the tolerance (R465, R515) -/

/-- SET_RING: the new ring starts with this reply at count 0; what waited follows. -/
def State.setRing (s : State) (k : List Byte) : State :=
  let s := s.wrN aHifRingBase (pktField k 16 8)
  let s := s.wrN aHifRingCtrl (pktField k 26 2 * 2 ^ 16 + pktField k 25 1 * 2 ^ 8 + 2 ^ 7 + pktField k 24 1)
  let s := (s.wrN aHifRingHead 0).wrN aHifRingTail 0
  let s := s.onHost (fun h => { h with evRecs := [] })
  (s.ringWrite (s.record (pktTag k) 0x10 stOk 0xFF 0 0 false)).drainReplies 257

/-- SET_RING. -/
def execSetRing (s : State) : Host.Outcome State Fault Refusal :=
  .next (s.hostCommand 0x10
    (fun _ k => [(16, decide (pktField k 16 8 % 4096 = 0)), (24, decide (7 ≤ pktField k 24 1 ∧ pktField k 24 1 ≤ 16))])
    (·.setRing ·))

/-- SET_LATENCY_TOLERANCE. -/
def execSetLatencyTolerance (s : State) : Host.Outcome State Fault Refusal :=
  .next (s.hostCommand 0x11 noLimits (fun s k => (s.setTolerance (pktField k 16 4)).ok k (deepest (pktField k 16 4)) 0))

/-! ### The function-level reset, event records, coalescing (R450, R466, R468) -/

/-- FUNCTION_LEVEL_RESET: the host interface alone is reset; commands that run go on without replies. -/
def State.flr (s : State) : State :=
  if !(decide (4 ≤ s.pwr.released) || s.pwr.warm) then s
  else
    let n := s.host.fifo.length
    let m := s.host.running.length
    let keep := s.getF aHifStatus 2 0 + s.getF aHifStatus 6 6 * 2 ^ 6
    let s := s.onHost (fun h => { h with
      fifo := [], replyQ := [], evRecs := [], unmasked := [], pend := [], since := [],
      running := h.running.map (fun r => { r with mute := true }),
      lows := h.lows.filter (fun x => decide (x.req ≠ 0)), highs := h.highs.filter (fun x => decide (x.req ≠ 0)),
      rngLows := h.rngLows.filter (fun x => decide (x.req ≠ 0)), rngCaps := h.rngCaps.filter (fun x => decide (x.req ≠ 0)) })
    let s := (((s.wrN aHifRingBase 0).wrN aHifRingCtrl 0).wrN aHifRingHead 0).wrN aHifRingTail 0
    (((s.wrN aHifStatus keep).clearHub 0).postMp 0xD3 n m).hifShow

/-- FUNCTION_LEVEL_RESET. -/
def execFunctionLevelReset (s : State) : Host.Outcome State Fault Refusal := .next s.flr

/-- EVENT_RECORD_WRITE: the oldest waiting event is written while fewer than 64 event records are unconsumed; FATAL has a
slot of its own; EVENTS_LOST follows once the queue is empty. -/
def State.eventWrite (s : State) : State :=
  let fatal (r : List Byte) : Bool := decide (leVal ((r.drop 2).take 2) = 4)
  if !s.ringRoom then s
  else
    let few := decide (s.host.evRecs.length < 64)
    match s.host.eventQ.find? (fun r => few || fatal r) with
    | some r => (s.onHost (fun h => { h with eventQ := h.eventQ.erase r })).ringWrite r
    | none =>
      if few ∧ s.host.lost ≠ 0 then
        let n := s.host.lost
        (s.onHost (fun h => { h with lost := 0 })).ringWrite (s.record 0 12 0 255 n 0 true)
      else s

/-- EVENT_RECORD_WRITE. -/
def execEventRecordWrite (s : State) : Host.Outcome State Fault Refusal := .next s.eventWrite

/-- INTERRUPT_COAL_TIMEOUT: coal_time after the first record since the last message of a vector. -/
def execInterruptCoalTimeout (vector : Fin 32) (s : State) : Host.Outcome State Fault Refusal :=
  .next (if vector.val ≠ 1 ∧ mapGet 0 s.host.since vector.val ≠ 0 ∧ s.getF aHifRingCtrl 31 16 ≠ 0 then s.sendMsi vector.val else s)

/-! ### JTAG (R597) -/

/-- What IDCODE reports: version 1, part number 0xD4A6; the maker's code is the implementation's (R597). -/
def idcode : W32 := BitVec.ofNat 32 (0x1D4A6000 + 2 * (Config.jtagMaker.toNat % 2 ^ 11) + 1)

/-- The instruction takes force; BYPASS captures a zero, IDCODE the code; SAMPLE/PRELOAD the balls, which are free. -/
def State.jtagTake (s : State) (i : Jtag) : State :=
  match i with
  | .idcode => { s with jtag := { ir := .idcode, dr := idcode } }
  | .samplePreload =>
    let (v, s) := s.freeNat 32
    { s with jtag := { ir := .samplePreload, dr := BitVec.ofNat 32 v } }
  | .extest => if s.pwr.deasserted then s else { s with jtag := { ir := .extest, dr := s.jtag.dr } }
  | _ => { s with jtag := { ir := .bypass, dr := 0 } }

/-- JTAG_INSTRUCTION: a private instruction acts as BYPASS while locked; the spec names no effect of one while unlocked. -/
def execJtagInstruction (ir : Jtag) (s : State) : Host.Outcome State Fault Refusal :=
  if ir = .other ∧ s.getF aHifStatus 6 6 = 1 then .refused .privateJtagInstruction else .next (s.jtagTake ir)

end Sys2Proof.Machine
end

