-- ==== Sys2Proof/Machine/HostPart.lean ====
section
/-! DEFINITION. The host's partition, job and wale commands (R404, R426–R435, R460–R463, R475–R485, R510, R585). -/
namespace Sys2Proof.Machine

/-! ### PARTITION_CREATE, DESTROY, QUERY (R475–R479) -/

/-- Do two ranges overlap? -/
def overlap (a n b m : Nat) : Bool := decide (a < b + m ∧ b < a + n)

/-- Other existing partitions than p whose range overlaps one. -/
def State.clash (s : State) (p a n : Nat) (f : Part → Nat × Nat) : Bool :=
  (List.range 16).any (fun q => q != p && s.partExists q && overlap a n (f (s.part q)).1 (f (s.part q)).2)

/-- Parameters of PARTITION_CREATE. -/
def pcGroups (k : List Byte) : Nat := pktField k 16 1
def pcDdr (k : List Byte) : Nat × Nat := (pktField k 20 2 * 2 ^ 30, pktField k 22 2 * 2 ^ 30)
def pcSync (k : List Byte) : Nat × Nat := (pktField k 24 2, pktField k 26 2)
def pcGroupRange (k : List Byte) : Nat × Nat := (pktField k 28 2, pktField k 30 2)
def pcTable (k : List Byte) : Nat := pktField k 32 8
def pcSave (k : List Byte) : Nat := pktField k 40 8

/-- Does a range lie inside the DDR range of a packet? -/
def pcInside (k : List Byte) (a n : Nat) : Bool := decide ((pcDdr k).1 ≤ a ∧ a + n ≤ (pcDdr k).1 + (pcDdr k).2)

/-- Does a range lie outside the doze area, where there is one (R517)? -/
def State.offDoze (s : State) (a n : Nat) : Bool :=
  s.getF aPwrDozeBase 0 0 == 0 || !overlap a n (s.getF aPwrDozeBase 41 32 * 2 ^ 32) (2 ^ 32)

/-- The checks of R475 but for the tile groups; the retirement pool is the top 1 GiB (R331), the doze area is refused
(R517). -/
def State.createLimits (s : State) (k : List Byte) : List Limit :=
  let p := pktPart k
  let ddr := pcDdr k
  let sy := pcSync k
  let gr := pcGroupRange k
  [(16, decide (1 ≤ pcGroups k ∧ pcGroups k ≤ 16)),
   (20, decide (ddr.1 + ddr.2 + 2 ^ 30 ≤ s.ddrBytes) && !s.clash p ddr.1 ddr.2 (fun x => (x.ddrBase, x.ddrLen)) &&
     s.offDoze ddr.1 ddr.2),
   (22, decide (ddr.2 ≠ 0)),
   (24, decide (sy.1 + sy.2 ≤ 16384) && !s.clash p sy.1 sy.2 (fun x => (x.syncBase, x.syncCount))),
   (28, decide (gr.1 + gr.2 ≤ 1024) && !s.clash p gr.1 gr.2 (fun x => (x.groupBase, x.groupCount))),
   (32, decide (pcTable k % 2 ^ 21 = 0) && pcInside k (pcTable k) (2 ^ 21)),
   (40, decide (pcSave k % 2 ^ 21 = 0) && pcInside k (pcSave k) (65536 + 64 * pcGroups k * imageSize))]

/-- Groups that are some partition's home, and groups that are resident, as masks. -/
def State.homeMask (s : State) : Nat := (List.range 16).foldl (fun m q => if s.partExists q then m ||| s.partHome q else m) 0

/-- Placement of g groups in two passes: the mask, none where both find fewer (R476). -/
def State.place (s : State) (g : Nat) : Option Nat :=
  let free := (List.range 16).filter (fun i => !bit s.homeMask i)
  let idle := (List.range 16).filter (fun i => bit s.homeMask i && !bit (s.othersGroups 16) i)
  let l := (free ++ idle).take g
  if l.length < g then none else some (l.foldl (fun m i => m + 2 ^ i) 0)

/-- PARTITION_CREATE: the tiles are reset and cleared, and the partition is resident (R476–R478). -/
def State.create (s : State) (k : List Byte) : State :=
  let p := pktPart k
  match s.place (pcGroups k) with
  | none => s.reply k stNoResource 0 0
  | some mask =>
    let s := forTiles (groupTiles mask) (fun s t => (s.resetTile t).clearTile t) s
    let s := s.onPart p (fun _ => {
      ddrBase := (pcDdr k).1, ddrLen := (pcDdr k).2, syncBase := (pcSync k).1, syncCount := (pcSync k).2,
      groupBase := (pcGroupRange k).1, groupCount := (pcGroupRange k).2, saveArea := pcSave k })
    let s := (s.wrN (aMpPartStatus p) (2 ^ 31 + 2 ^ 30 + mask)).wrN (aSeXlateBase p) (pcTable k + 1)
    (s.postMp 0xE0 p mask).ok k mask 0

/-- PARTITION_CREATE. -/
def execPartitionCreate (s : State) : Host.Outcome State Fault Refusal :=
  .next (s.hostCommand 0x20 (·.createLimits ·) (·.create ·))

/-- PARTITION_DESTROY: every resource is free; the reply waits for the pins (R288, R461, R479). -/
def State.destroy (s : State) (k : List Byte) : State :=
  let p := pktPart k
  if s.job p = 4 ∨ s.partBusy p then s.badState k
  else
    let home := s.partHome p
    let s := ((s.startRun k).disarm p).endWale p
    let s := (s.leaveReady p).wrN (aMpPartStatus p) 0
    let s := (s.wrN (aMpPartSlice p) 0).wrN (aSeXlateBase p) 0
    let s := (((s.wrN (aMpWaleCfg p) 0).wrN (aMpWaleObj p) 0).wrN (aMpWaleArea p) 0).wrN (aMpWaleBuddy p) 0
    let s := s.onPart p (fun _ => {})
    (((s.pinRelease (2 ^ p)).xlateInv p false).postMp 0xE4 p home).scanReady

/-- PARTITION_DESTROY. -/
def execPartitionDestroy (s : State) : Host.Outcome State Fault Refusal := .next (s.hostCommand 0x21 noLimits (·.destroy ·))

/-- PARTITION_QUERY. -/
def execPartitionQuery (s : State) : Host.Outcome State Fault Refusal :=
  .next (s.hostCommand 0x22 noLimits (fun s k =>
    let p := pktPart k
    s.ok k (s.partHome p + s.job p * 2 ^ 16) (s.rdN (aMpWaleStep p))))

/-! ### SLATH_LOAD (R175, R204) -/

/-- Tiles of a partition. -/
def State.partTileCount (s : State) (p : Nat) : Nat := (s.partTiles p).length

/-- The limits of a tile range at an offset within n tiles; `least` is the smallest count. -/
def rangeLimits (k : List Byte) (o n least : Nat) : List Limit :=
  [(o, decide (pktField k o 4 < n)), (o + 4, decide (least ≤ pktField k (o + 4) 4 ∧ pktField k o 4 + pktField k (o + 4) 4 ≤ n))]

/-- SLATH_LOAD: every tile's checks, then its configuration; the job is loaded (R204, R462). -/
def State.slathLoad (s : State) (k : List Byte) (remote : Option (List Byte)) : State :=
  let p := pktPart k
  if s.job p = 4 ∨ s.partBusy p ∨ !s.partResident p ∨ !s.partAtRest p then s.badState k
  else
    let image := pktField k 16 8
    let ts := s.loadTiles p (pktField k 24 4) (pktField k 28 4)
    match s.readSlath p image remote with
    | (none, s) => s.reply k stRejected (0xFFFFF + 0x3FF * 2 ^ 32) 0
    | (some x, s) =>
      match rejection (ts.map (fun t => (t, s.slathFault p t (decide (1 < ts.length)) x))) with
      | some d0 => s.reply k stRejected d0 0
      | none =>
        let waits := x.waits.map ((s.part p).syncBase + ·)
        let s := forTiles ts (fun s t => s.writeConfig p t image x waits) s
        let kept : SlathKept := { image, first := pktField k 24 4, count := pktField k 28 4, cfg := x.cfg, waits }
        let s := s.onPart p (fun y => { y with loads := y.loads ++ [kept], faults := 0, detail := none })
        (s.setJob p 1).ok k 0 0

/-- SLATH_LOAD. -/
def execSlathLoad (remote : Option (List Byte)) (s : State) : Host.Outcome State Fault Refusal :=
  .next (s.hostCommand 0x30
    (fun s k => (16, decide (pktField k 16 8 % 1024 = 0 ∧ pktField k 16 8 < 2 ^ 48)) :: rangeLimits k 24 (s.partTileCount (pktPart k)) 1)
    (fun s k => s.slathLoad k remote))

/-! ### JOB_START (R175, R190, R404, R427) -/

/-- A collective descriptor of 64 bytes. -/
def ceDescriptor (b : List Byte) : CeOp :=
  { group := pktField b 0 2, op := pktField b 2 1, fmt := pktField b 3 1, count := pktField b 4 4, src := pktField b 8 8,
    dst := pktField b 16 8, trig := pktField b 24 2, done := pktField b 26 2, trigInc := pktField b 28 4,
    trigBase := pktField b 32 4, doneAmt := pktField b 36 4, segTable := pktField b 40 8 }

/-- Descriptors armed by the partitions other than p. -/
def State.armedElsewhere (s : State) (p : Nat) : Nat :=
  ((List.range 16).filter (· ≠ p)).foldl (fun n q => n + s.rdN (aCeOpCount q)) 0

/-- Arm a partition's operation table: false where it cannot be read. -/
def State.arm (s : State) (p base n : Nat) (remote : Option (List Byte)) : Bool × State :=
  match s.loadBytes p base (64 * n) remote with
  | (none, _, s) => (false, s)
  | (some d, _, s) =>
    let ce : List (Nat × Option CeOp) := (List.range n).map (fun i => (i, some (ceDescriptor ((d.drop (64 * i)).take 64))))
    (true, ((s.onPart p (fun x => { x with ce })).wrN (aCeOpBase p) base).wrN (aCeOpCount p) n)

/-- The scalar registers of a tile at job start (R175). -/
def State.initSregs (s : State) (p t : Nat) : State :=
  let q := (s.tile t).seq
  let s := (List.range 27).foldl (fun s i => s.setSreg t (i + 1) (q.sregInit.getD (i + 1) 0).toNat) s
  (((s.setSreg t 28 (tileIndex (s.partHome p) t)).setSreg t 29 t).setSreg t 30 s.devId).setSreg t 31 p

/-- Empty the withy queues of a tile (R237). -/
def State.emptyWithies (s : State) (t : Nat) : State :=
  (List.range 16).foldl (fun s q => s.wqClear t q) s

/-- The start of a job whose descriptors are armed: objects zero, queues empty, registers set, wale counts zero, and the
ramp-up (R91, R175, R190, R427). -/
def State.startJob (s : State) (p : Nat) : State :=
  let x := s.part p
  let s := (List.range x.syncCount).foldl (fun s i => s.setObj (x.syncBase + i) 0) s
  let s := (s.onWale p (fun w => { w with k := 0, q := 0 })).setF (aMpWaleStatus p) 27 0 0
  let ts := (s.partTiles p).filter (fun t => s.sq t == sqLoaded)
  let s := forTiles ts (fun s t => ((s.emptyWithies t).initSregs p t).sqStart t) s
  s.rampUp p

/-- JOB_START: from a loaded job; the reply follows the release (R404, R461). -/
def State.jobStart (s : State) (k : List Byte) (remote : Option (List Byte)) : State :=
  let p := pktPart k
  let n := pktField k 24 2
  if s.job p ≠ 1 ∨ s.partBusy p ∨ !s.partResident p then s.badState k
  else if 1024 < s.armedElsewhere p + n then s.reply k stNoResource 0 0
  else match s.arm p (pktField k 16 8) n remote with
  | (false, s) => s.reply k stFault (faultDetail 5 3 none 0) (pktField k 16 8)
  | (true, s) => (s.startRun k).startJob p

/-- JOB_START. -/
def execJobStart (remote : Option (List Byte)) (s : State) : Host.Outcome State Fault Refusal :=
  .next (s.hostCommand 0x31 (fun _ k => [(16, decide (pktField k 16 8 % 64 = 0 ∧ pktField k 16 8 < 2 ^ 48))])
    (fun s k => s.jobStart k remote))

/-! ### JOB_STOP, JOB_PREEMPT, JOB_RESUME, SET_TIME_SLICE (R460, R481–R485) -/

/-- JOB_STOP: a pre-empted partition is stopped at once; otherwise every tile is asked to stop, and the reply waits for
the last one. A fault post on its way is handled before the stop completes (R38). -/
def State.jobStop (s : State) (k : List Byte) : State :=
  let p := pktPart k
  if s.job p = 4 then
    let (d0, d1) := s.faultWords p
    let s := (s.leaveReady p).setJob p 3
    if s.faults.any (fun f => f.part == p) then s.startRun k else s.ok k d0 d1
  else ((s.startRun k).stopPart p 1).partStopped p

/-- A stop stays queued while a pre-emption of its partition by its slice goes on, and a stop or a pre-emption while a
resume does. -/
def State.heldBack (s : State) (op : Nat) : Bool :=
  match s.nextPacket op with
  | some (k, _) =>
    let x := s.part (pktPart k)
    decide (pktPart k < 16) && (x.resuming.isSome || (op == 0x32 && x.preempt.isSome))
  | none => false

/-- JOB_STOP. -/
def execJobStop (s : State) : Host.Outcome State Fault Refusal :=
  .next (if s.heldBack 0x32 then s else s.hostCommand 0x32 noLimits (·.jobStop ·))

/-- JOB_PREEMPT: together with a slice end there is one pre-emption, and it is the command's (R460, R483). -/
def State.jobPreempt (s : State) (k : List Byte) : State :=
  let p := pktPart k
  if s.job p = 4 then s.ok k 0 0
  else if s.job p ≠ 2 then s.badState k
  else match (s.part p).preempt with
  | none => (s.startRun k).preemptStart p 2
  | some (_, h) => (s.startRun k).onPart p (fun x => { x with preempt := some (2, h) })

/-- JOB_PREEMPT. -/
def execJobPreempt (s : State) : Host.Outcome State Fault Refusal := 
  .next (if s.heldBack 0x33 then s else s.hostCommand 0x33 noLimits (·.jobPreempt ·))

/-- JOB_RESUME: a saved partition joins the ready queue; one that is stopped and resident ramps up where it stands, and
its halted contexts return to their steps (R278, R279, R482). -/
def State.jobResume (s : State) (k : List Byte) : State :=
  let p := pktPart k
  if (s.part p).resuming.isSome then s.startRun k
  else if !(s.part p).saved.isEmpty ∧ (s.job p = 4 ∨ s.job p = 3) then
    ((s.startRun k).joinReady p).scanReady
  else if s.job p = 3 ∧ s.partResident p ∧ s.partAtRest p ∧ !s.partBusy p then
    let s := s.startRun k
    let s := forTiles (s.partTiles p) (fun s t => if s.sq t = sqStopped then s.sqResume t else s) s
    (s.resumeCtxs p).rampUp p
  else s.badState k

/-- JOB_RESUME. -/
def execJobResume (s : State) : Host.Outcome State Fault Refusal := .next (s.hostCommand 0x34 noLimits (·.jobResume ·))

/-- SET_TIME_SLICE. -/
def execSetTimeSlice (s : State) : Host.Outcome State Fault Refusal :=
  .next (s.hostCommand 0x35 noLimits (fun s k => (s.wrN (aMpPartSlice (pktPart k)) (pktField k 16 4)).ok k 0 0))

/-! ### WALE_CONFIGURE, WALE_NOW (R426, R429) -/

/-- The state regions of a buffer: entries up to the first of length 0. -/
def regionList (d : List Byte) : List (Nat × Nat) :=
  (((List.range (d.length / 16)).map (fun i => (pktField d (16 * i) 8, pktField d (16 * i + 8) 8))).takeWhile (fun r => r.2 != 0))

/-- May regions be a wale's: 1 to 64 ranges of the address space, aligned to 256 bytes? -/
def regionsFit (l : List (Nat × Nat)) : Bool :=
  decide (1 ≤ l.length ∧ l.length ≤ 64) &&
    l.all (fun r => decide (r.1 % 256 = 0 ∧ r.2 % 256 = 0 ∧ r.1 + r.2 ≤ 2 ^ 48))

/-- WALE_CONFIGURE: only of a partition that holds a job and does not run it. -/
def State.waleConfigure (s : State) (k : List Byte) (dma : Option (List Byte)) : State :=
  let p := pktPart k
  let x := s.part p
  if s.job p = 0 ∨ s.job p = 4 ∨ s.partBusy p then s.badState k
  else match bufData k 64 dma with
  | none => s.reply k stHostDma 0 0
  | some d =>
    let regions := regionList d
    let w : Wale := { regions, cursorTable := pktField k 48 8, cursors := pktField k 56 2 }
    let area := pktField k 32 8
    if !regionsFit regions then s.reply k stBadParam 64 0
    else if area < x.ddrBase ∨ x.ddrBase + x.ddrLen < area + 2 * w.slotSize then s.reply k stBadParam 32 0
    else
      let objs := pktField k 20 2 + pktField k 22 2 * 2 ^ 16 + pktField k 24 2 * 2 ^ 32 + pktField k 26 2 * 2 ^ 48
      let s := s.wrN (aMpWaleCfg p) (pktField k 16 2 * 2 ^ 16 + pktField k 18 1 * 2 ^ 8 + pktField k 19 1)
      let s := (s.wrN (aMpWaleObj p) objs).wrN (aMpWaleArea p) area
      let s := s.wrN (aMpWaleBuddy p) (pktField k 28 2 * 2 ^ 48 + pktField k 40 8 + 1)
      (s.onWale p (fun y => { w with k := y.k, q := y.q })).ok k 0 0

/-- The limits of WALE_CONFIGURE. -/
def State.waleLimits (s : State) (k : List Byte) : List Limit :=
  let n := (s.part (pktPart k)).syncCount
  [(16, decide (pktField k 16 2 ≠ 0)), (18, decide (1 ≤ pktField k 18 1 ∧ pktField k 18 1 ≤ 100)),
   (19, decide (pktField k 19 1 ≤ 1)), (32, decide (pktField k 32 8 % 2 ^ 21 = 0 ∧ pktField k 32 8 < 2 ^ 42)),
   (40, decide (pktField k 40 8 % 2 ^ 21 = 0 ∧ pktField k 40 8 < 2 ^ 42)), (48, decide (pktField k 48 8 < 2 ^ 48)),
   (56, decide (pktField k 56 2 ≤ 256))]
    ++ [20, 22, 24, 26].map (fun o => (o, decide (pktField k o 2 < n))) ++ bufLimits k 64

/-- WALE_CONFIGURE. -/
def execWaleConfigure (dma : Option (List Byte)) (s : State) : Host.Outcome State Fault Refusal :=
  .next (s.hostCommand 0x40 (·.waleLimits ·) (fun s k => s.waleConfigure k dma))

/-- WALE_NOW: the next boundary is due; a partition without wales has none. -/
def State.waleNow (s : State) (k : List Byte) : State :=
  let p := pktPart k
  if s.getF (aMpWaleCfg p) 31 16 = 0 then s.badState k
  else (s.onWale p (fun w => { w with due := true })).ok k ((s.rdN (aMpWaleStep p) + 1) % 2 ^ 64) 0

/-- WALE_NOW. -/
def execWaleNow (s : State) : Host.Outcome State Fault Refusal := .next (s.hostCommand 0x41 noLimits (·.waleNow ·))

/-! ### RESTORE (R433, R435) -/

/-- A slot's record where it is complete, of step r, and its CRC holds. -/
def recordOk (d : List Byte) (r : Nat) : Option (List Byte) :=
  let len := pktField d 4 4
  let rec_ := d.take len
  if pktField d 0 2 = 1 ∧ bit (recByte d 3) 0 ∧ pktField d 8 8 = r ∧ 256 ≤ len ∧ len ≤ 2 ^ 19 ∧ rec_.length = len ∧
      crc64 (rec_.take 0x38 ++ List.replicate 8 0 ++ rec_.drop 0x40) = pktField d 0x38 8 then some rec_
  else none

/-- Read the record of a local slot. -/
def State.slotRecord (s : State) (p i r : Nat) : Option (List Byte) × State :=
  let len := s.memNat (s.slotBase p i + 4) 4
  let s := len.2.2
  let d := s.memRead (s.slotBase p i) (max 256 (min len.1 (2 ^ 19))) 1
  (recordOk d.1 r, d.2.2)

/-- The local slot that holds step r, the newest complete one first. -/
def State.findSlot (s : State) (p r : Nat) : Option (Nat × List Byte) × State :=
  let first := (s.newest p).getD 0
  let a := s.slotRecord p first r
  let b := a.2.slotRecord p (1 - first) r
  if a.1.isSome then (a.1.map (first, ·), a.2) else (b.1.map (1 - first, ·), b.2)

/-- The buddy's slot, as it was read, goes into a free local slot where its record is good (R435 step 1). -/
def State.takeMirror (s : State) (p r : Nat) (mirror : Option (List Byte)) : State :=
  match mirror with
  | some m =>
    if (recordOk m r).isSome then
      let i := s.freeSlot p
      (s.onWale p (fun w => { w with slots := mapPut none w.slots i none })).memWrite (s.slotBase p i) m 1
    else s
  | none => s

/-- Parts of a record: regions, cursors, group versions, streams (R433). -/
def recRegions (d : List Byte) : List (Nat × Nat) :=
  (List.range (pktField d 0x30 2)).map (fun i => (pktField d (0x100 + 16 * i) 8, pktField d (0x108 + 16 * i) 8))
def recCursors (d : List Byte) : List Byte := (d.drop (0x100 + 16 * pktField d 0x30 2)).take (16 * pktField d 0x32 2)
def recVersions (d : List Byte) : List Nat :=
  let o := 0x100 + 16 * pktField d 0x30 2 + 16 * pktField d 0x32 2
  (List.range (pktField d 0x36 2)).map (fun i => pktField d (o + 4 * i) 4)
def recStreams (d : List Byte) : List Byte :=
  d.drop (0x100 + 16 * pktField d 0x30 2 + 16 * pktField d 0x32 2 + (4 * pktField d 0x36 2 + 15) / 16 * 16)

/-- Copy a block of a slot back to a partition address, with its poison. -/
def State.copyBack (s : State) (p src n va : Nat) : State :=
  match s.walk p va with
  | (.fault _, s) | (.outside, s) => s
  | (.page big dev sp base _, s) =>
    if dev ≠ s.devId ∨ sp ≠ 0 then s else (s.copyPiece src n (pageAddr big base va)).2

/-- Copy every state region back. -/
def State.regionsBack (s : State) (p base : Nat) (regions : List (Nat × Nat)) : State :=
  ({ regions : Wale }.places).foldl (fun s r =>
    (linePieces (r.2.1 / 256 + 2) r.1 r.2.1).foldl (fun s b => s.copyBack p (base + r.2.2 + (b.1 - r.1)) b.2 b.1) s) s

/-- Keys and counters of every tile from a record. -/
def State.streamsBack (s : State) (p : Nat) (d : List Byte) : State :=
  ((s.partTiles p).flatMap (fun t => (List.range 16).map (fun i => (t, i)))).zipIdx.foldl (fun s x =>
    let o := 24 * x.2
    let (t, i) := x.1
    ((s.wrN (aVeRngKey t i) (pktField d o 8)).wrN (aVeRngCtrLo t i) (pktField d (o + 8) 8)).wrN (aVeRngCtrHi t i) (pktField d (o + 16) 8)) s

/-- The configurations of the accepted loads again (R435 step 6). -/
def State.loadsBack (s : State) (p : Nat) : State :=
  (s.part p).loads.foldl (fun s l =>
    forTiles (s.loadTiles p l.first l.count) (fun s t => s.writeConfig p t l.image { cfg := l.cfg, entries := [], kernels := [] } l.waits) s) s

/-- Steps 3–6 of R435 from a slot and its record. -/
def State.restoreFrom (s : State) (p r slot : Nat) (d : List Byte) : State :=
  let s := forTiles (s.partTiles p) (fun s t => ((s.resetTile t).clearTile t).setF (aTileCntCtrl t) 1 0 (s.part p).trace) s
  let s := (s.dropPartChunks p).regionsBack p (s.slotBase p slot) (recRegions d)
  let s := (s.hubWrite p (s.wale p).cursorTable (recCursors d) 1).2
  let s := s.streamsBack p (recStreams d)
  let s := (List.range 4).foldl (fun s i => s.setObj (s.waleObj p i) 0) s
  let s := (s.wrN (aMpWaleStep p) r).wrN (aMpWaleLocal p) r
  let s := (s.setF (aMpWaleStatus p) 27 0 0).setF (aMpWaleStatus p) 28 28 slot
  let s := s.onPart p (fun x => { x with
    faults := 0, detail := none, saved := [],
    wale := { x.wale with k := 0, q := 0, due := false, mirror := none, slots := mapPut none x.wale.slots slot (some r) } })
  let s := (s.setF (aMpWaleStatus p) 31 30 0).loadsBack p
  (s.setJob p (if (s.part p).loads.isEmpty then 0 else 1)).postMp 0xC6 p r

/-- Groups whose version differs from a record's. -/
def State.mismatches (s : State) (d : List Byte) : List Nat :=
  (recVersions d).zipIdx.filterMap (fun x =>
    let g := pktField d 0x34 2 + x.2
    if s.groupVersion g = x.1 then none else some g)

/-- May a partition be restored: it is resident, at rest and not pre-empted? -/
def State.restorable (s : State) (p : Nat) : Bool :=
  s.partResident p && s.partAtRest p && !s.partBusy p && [0, 1, 3, 6].contains (s.job p)

/-- A restore that finds no valid slot: FAULT of the wale engine, whose cause the spec does not number. -/
def State.noSlot (s : State) (k : List Byte) : State :=
  let (c, s) := s.freeNat 8
  s.reply k stFault (faultDetail c 4 none 0) 0

/-- RESTORE. -/
def State.restore (s : State) (k : List Byte) (dmaOk : Bool) (mirror : Option (List Byte)) : State :=
  let p := pktPart k
  let r := pktField k 16 8
  if !s.restorable p then s.badState k
  else
    let s := if pktField k 24 1 = 1 then s.takeMirror p r mirror else s
    match s.findSlot p r with
    | (none, s) => s.noSlot k
    | (some (slot, d), s) =>
      let bad := s.mismatches d
      let out := recCursors d ++ bad.flatMap (leBytes 2 ·)
      if bufLen k 32 < out.length then s.reply k stBadParam out.length 0
      else
        let s := s.restoreFrom p r slot d
        if !dmaOk then s.reply k stHostDma 0 0
        else (s.onHost (·.put (bufAddr k 32) out)).ok k
          (bit (recByte d 3) 1 |> b2n |> (· + bad.length * 2 ^ 16 + pktField d 0x32 2 * 2 ^ 32)) 0

/-- RESTORE. -/
def execRestore (dmaOk : Bool) (mirror : Option (List Byte)) (s : State) : Host.Outcome State Fault Refusal :=
  .next (s.hostCommand 0x42 (fun _ k => (24, decide (pktField k 24 1 ≤ 1)) :: bufLimits k 32)
    (fun s k => s.restore k dmaOk mirror))

/-! ### STEP_REPLAY (R315, R585) -/

/-- Load step control blocks of a partition's tiles from their copies in its state regions: 64 B into the scratchpad word that the
slath chose, each (R305, R315). -/
def State.blocksBack (s : State) (p : Nat) (blocks : List (Nat × Nat × Nat)) : State :=
  (blocks.filter (fun b => (s.partTiles p).contains b.1)).foldl (fun s b =>
    let (h, s) := s.hubRead p b.2.2 64 0
    if h.fault.isSome then s else s.spadWrite b.1 (spadRange b.2.1 64) h.data) s

/-- STEP_REPLAY: a restore with the step control blocks, and the steps that follow up to the stop step, with no wale. -/
def State.stepReplay (s : State) (k : List Byte) (mirror : Option (List Byte)) (blocks : List (Nat × Nat × Nat)) : State :=
  let p := pktPart k
  let r := pktField k 16 8
  let flags := pktField k 32 1
  if !s.restorable p ∨ (s.part p).loads.isEmpty then s.badState k
  else
    let s := if bit flags 1 then s.takeMirror p r mirror else s
    match s.findSlot p r with
    | (none, s) => s.noSlot k
    | (some (slot, d), s) =>
      let s := (s.restoreFrom p r slot d).blocksBack p blocks
      match s.arm p (s.rdN (aCeOpBase p)) (s.rdN (aCeOpCount p)) none with
      | (false, s) => s.reply k stFault (faultDetail 5 3 none 0) (s.rdN (aCeOpBase p))
      | (true, s) =>
        let s := (s.startRun k).onPart p (fun x => { x with
          replay := some { stopStep := pktField k 24 8, capture := bit flags 0, trace := x.trace } })
        s.startJob p

/-- STEP_REPLAY: `mirror.blocks` tells where the slaths keep their step control blocks: tile, scratchpad address, partition address of the
copy, which the MP knows and no table of the spec gives. -/
def execStepReplay (mirror : ReplayData) (s : State) : Host.Outcome State Fault Refusal :=
  .next (s.hostCommand 0x43 (fun _ k => [(24, decide (pktField k 16 8 < pktField k 24 8)), (32, decide (pktField k 32 1 ≤ 3))])
    (fun s k => s.stepReplay k mirror.record (mirror.blocks.map (fun b => (b.1.val, b.2.1.toNat, b.2.2.toNat)))))

/-! ### PARTITION_RESET (R459, R510, R511) -/

/-- PARTITION_RESET: the partition's other commands end ABORTED first; an OTP pulse holds the reset back. -/
def State.partitionReset (s : State) (k : List Byte) : State :=
  let p := pktPart k
  ((s.abortPart p).startRun k).deferReset 4 p (·.partReset p)

/-- PARTITION_RESET. -/
def execPartitionReset (s : State) : Host.Outcome State Fault Refusal :=
  .next (s.hostCommand 0x80 noLimits (·.partitionReset ·))

/-! ### MEM_COPY (R273–R277, R462) -/

/-- MEM_COPY to the device. -/
def State.copyIn (s : State) (k : List Byte) (dma : Option (List Byte)) : State :=
  let p := pktPart k
  match dma with
  | none => s.reply k stHostDma 0 0
  | some d =>
    let data := fit (pktField k 32 4) d
    match s.hubWrite p (pktField k 24 8) data 0 with
    | ({ fault := some (c, a), .. }, s) => s.reply k stFault (if c = 0 then 0x10 else c) a
    | ({ far, .. }, s) =>
      if far.isEmpty then s.ok k data.length 0
      else
        let (open_, s) := s.farWrites (.copy p) 0 data far
        let job : CopyJob := { raw := data, open_, host := pktField k 16 8, toHost := false }
        (s.startRun k).onPart p (fun x => { x with copy := some job })

/-- MEM_COPY to the host. -/
def State.copyOut (s : State) (k : List Byte) (dmaOk : Bool) : State :=
  let p := pktPart k
  match s.hubRead p (pktField k 24 8) (pktField k 32 4) 0 with
  | ({ fault := some (c, a), .. }, s) => s.reply k stFault (if c = 0 then 0x10 else c) a
  | ({ data, far, .. }, s) =>
    if !dmaOk then s.reply k stHostDma 0 0
    else if far.isEmpty then (s.onHost (·.put (pktField k 16 8) data)).ok k data.length 0
    else
      let (open_, s) := s.farReads (.copy p) 0 far
      let job : CopyJob := { raw := data, open_, host := pktField k 16 8, toHost := true }
      (s.startRun k).onPart p (fun x => { x with copy := some job })

/-- MEM_COPY. -/
def execMemCopy (dma : Option (List Byte)) (s : State) : Host.Outcome State Fault Refusal :=
  .next (s.hostCommand 0xA0
    (fun _ k => [(24, decide (pktField k 24 8 + pktField k 32 4 ≤ 2 ^ 48)),
      (32, decide (64 ≤ pktField k 32 4 ∧ pktField k 32 4 ≤ 2 ^ 24 ∧ pktField k 32 4 % 64 = 0)), (36, decide (pktField k 36 1 ≤ 1))])
    (fun s k => if pktField k 36 1 = 0 then s.copyIn k dma else s.copyOut k dma.isSome))

end Sys2Proof.Machine
end

