-- ==== Sys2Proof/Machine/HostDev.lean ====
section
/-! DEFINITION. The host's fabric, observation, reset and debug commands, and the bring-up of the fabric (R403, R413–R418,
R441, R506, R546–R550, R561, R565, R571, R575, R579). -/
namespace Sys2Proof.Machine

/-! ### FABRIC_PLAN (R414, R545, R547) -/

/-- Length that a plan body gives itself. -/
def planLen (d : List Byte) : Nat := pktField d 4 4

/-- The bytes of a plan body that R414 lists, as (offset, length), in front of the firmware list. -/
def planUsed : List (Nat × Nat) :=
  [(0, 0x1A), (0x20, 0x1F), (0xC40, 0x108), (0x440, 0x800)] ++
  (List.range 16).flatMap (fun p => [(0x40 + 64 * p, 2), (0x48 + 64 * p, 0x30)])

/-- The layout of a plan body. -/
def planOk (b : List Byte) : Bool :=
  let f := pktField b 0x16 2
  let e := pktField b 0x18 2
  let explore := bit (recByte b 2) 0
  pktField b 0 2 == 1 && decide (planLen b = 3408 + 64 * f + 16 * e) && decide (recByte b 2 ≤ 1) && decide (recByte b 3 ≤ 64) &&
  pktField b 8 8 != 0 && decide (1 ≤ pktField b 0x10 4 ∧ pktField b 0x10 4 ≤ 65536) && decide (f ≤ 32) &&
  decide (e ≤ (if explore then 1024 else 0)) && decide (recByte b 0x3C < 32) && decide (recByte b 0x3E ≤ 1) &&
  (List.range 16).all (fun p =>
    let kind := recByte b (0x40 + 64 * p)
    decide (kind ≤ 2) && decide (recByte b (0x41 + 64 * p) ≤ (if kind = 1 then 15 else 0)) &&
    (kind != 0 || pktField b (0x48 + 64 * p) 16 == 0) && (kind == 2 || pktField b (0x58 + 64 * p) 32 == 0)) &&
  (List.range 0xD50).all (fun i => recByte b i == 0 || planUsed.any (fun u => decide (u.1 ≤ i ∧ i < u.1 + u.2)))

/-- FABRIC_PLAN: slot, signature, layout, serial; then the plan is stored, MS3 extended, and every exchange restarts. -/
def State.fabricPlan (s : State) (k : List Byte) (dma : Option (List Byte)) : State :=
  match bufData k 16 dma with
  | none => s.reply k stHostDma 0 0
  | some d =>
    let n := planLen d
    let body := d.take n
    let tr := fit 172 (d.drop n)
    let slot := recByte tr 0
    let key := (tr.drop 1).take 57
    let digest := shake256 body 64
    let op := s.opSlot slot
    if 4 ≤ slot ∨ op.hash.isEmpty ∨ op.revoked ∨ !bit op.roles 0 ∨ keyHash key ≠ op.hash then s.reply k stAuthFail 0 0
    else if !edVerify key (ascii "qorkar-plan") digest (tr.drop 58) then s.reply k stAuthFail 0 0
    else if !planOk body then s.reply k stBadParam 16 0
    else if (body.drop 0x20).take 16 ≠ fit 16 Config.serial then s.reply k stBadParam 16 0
    else
      let s := { s with fab := { s.fab with plan := body, explored := [], nextId := 0 } }
      let s := (s.extend 3 5 digest).postMp 0xFB slot (s.planId % 2 ^ 48)
      let s := (List.range 16).foldl (fun s p => if s.lk p = lkAuth then s.startAuth p else s) s
      s.ok k s.planId 0

/-- FABRIC_PLAN. -/
def execFabricPlan (dma : Option (List Byte)) (s : State) : Host.Outcome State Fault Refusal :=
  .next (s.hostCommand 0x50 (fun _ k => bufLimits k 16) (fun s k => s.fabricPlan k dma))

/-! ### BRING_UP (R414–R418) -/

/-- FAB_STATUS: the mismatch mask and the phase. -/
def State.mismatch (s : State) : Nat := s.getF aFabStatus 15 0
def State.markMismatch (s : State) (p : Nat) : State := s.setF aFabStatus p p 1

/-- Is the device the anchor: by its plan's anchor ID, or by its strap in explore mode (R409, R418)? -/
def State.isAnchor (s : State) : Bool :=
  if s.planExplore then s.pwr.anchorStrap else s.planField 0x14 2 == s.planField 0x30 2

/-- BRING_UP: phase 1 begins, and every port is enabled. -/
def State.bringUp (s : State) (k : List Byte) : State :=
  if s.fab.plan.isEmpty ∨ s.pwr.released < 8 then s.badState k
  else
    let s := (s.startRun k).wrN aFabStatus (2 ^ 28 + b2n s.planExplore * 2 ^ 27)
    (List.range 16).foldl (fun s p => if s.lk p = lkDisabled then s.enablePort p true else s) s

/-- BRING_UP. -/
def execBringUp (s : State) : Host.Outcome State Fault Refusal := .next (s.hostCommand 0x51 noLimits (·.bringUp ·))

/-- Phase 3 on a port: its neighbour against the plan (R417). -/
def State.checkPort (s : State) (p : Nat) : State :=
  let kind := s.planKind p
  let there := s.lk p = lkAuth ∨ s.lk p = lkActive
  let a := (s.port p).auth.peerHello.getD []
  let same := (a.drop 32).take 16 = s.planSerial p ∧ (kind ≠ 1 ∨ recByte a 48 = s.planPort p)
  if kind = 0 then (if there then (s.lnkQuarantine p).markMismatch p else if s.lk p = lkQuarantine then s.markMismatch p else s)
  else if there ∧ same then s
  else if there then (s.lnkQuarantine p).markMismatch p
  else s.markMismatch p

/-- Phase 4: a port of the plan that is no longer in AUTH or ACTIVE has failed. -/
def State.qualified (s : State) (p : Nat) : State :=
  if s.planKind p = 0 ∨ s.lk p = lkAuth ∨ s.lk p = lkActive then s else s.markMismatch p

/-- A 4-byte or 8-byte field of the plan into a register by its field types. -/
def State.planReg (s : State) (a o n : Nat) : State := s.regPut a (s.planField o n)

/-- The acceptance registers from the plan. -/
def State.acceptances (s : State) : State :=
  let s := (List.range 16).foldl (fun s n =>
    (s.planReg (aFabDdrAccept n) (0xC40 + 8 * n) 8).planReg (aFabSyncAccept n) (0xCC0 + 8 * n) 8) s
  s.planReg aFabMgmtAccept 0xD40 8

/-- Time ports of HOOP_CTRL from the plan. -/
def State.timePorts (s : State) : State :=
  let t := s.planField 0x3D 1
  (((s.setF aHoopCtrl 3 0 (t % 16)).setF aHoopCtrl 7 4 (t / 16)).setF aHoopCtrl 9 9 (s.planField 0x3E 1)).setF aHoopCtrl 8 8 (b2n s.isAnchor)

/-- Every port in AUTH that passed goes ACTIVE. -/
def State.activatePorts (s : State) : State :=
  (List.range 16).foldl (fun s p =>
    if s.lk p = lkAuth ∧ (s.port p).auth.code = some 0 then s.lnkActivate p else s) s

/-- Phase 5: ID, tables and acceptance registers, ports ACTIVE. -/
def State.writeTables (s : State) : State :=
  let s := if s.planExplore then s
    else
      let s := (List.range 256).foldl (fun s i =>
        (s.planReg (aFabRouteRegion i) (0x440 + 4 * i) 4).planReg (aFabRouteLocal i) (0x840 + 4 * i) 4) s
      let id := 2 ^ 31 + s.planField 0x30 2
      (if s.rdN aFabId = id then s else s.regPut aFabId id).timePorts
  s.acceptances.activatePorts

/-- Explore mode after phase 2: ports go ACTIVE; the anchor takes its ID and sends EXPLORE on them (R418). -/
def State.exploreStart (s : State) : State :=
  let s := s.activatePorts
  let s := { s with fab := { s.fab with found := [], known := [], parentPort := none } }
  if s.isAnchor then
    ((s.regPut aFabId (2 ^ 31 + s.planField 0x14 2)).setF aHoopCtrl 8 8 1).exploreOut none
  else s

/-- BRING_UP_PHASE_COMPLETE: the phase's outcome, event 0xB7, the next phase; after phase 7 the fabric is ready and the
BRING_UP is answered. -/
def State.phaseDone (s : State) : State :=
  let n := s.getF aFabStatus 30 28
  if n = 0 then s
  else
    let explore := s.planExplore
    let s := match n with
      | 2 => if explore then s.exploreStart else s
      | 3 => if explore then s else (List.range 16).foldl (·.checkPort ·) s
      | 4 => if explore then s else (List.range 16).foldl (·.qualified ·) s
      | 5 => s.writeTables
      | _ => s
    let s := s.postMp 0xB7 n s.mismatch
    if n < 7 then s.setF aFabStatus 30 28 (n + 1)
    else
      let s := (s.setF aFabStatus 30 28 0).setF aFabStatus 31 31 1
      s.finish 0x51 255 stOk (s.mismatch + s.getF aHoopStatus 28 22 * 2 ^ 16) s.planId

/-- BRING_UP_PHASE_COMPLETE. -/
def execBringUpPhaseComplete (s : State) : Host.Outcome State Fault Refusal := .next (s.clocked (·.phaseDone))

/-! ### Routes, groups, ASSUME_ID (R390, R403, R441) -/

/-- ROUTE_LOAD: 256 region entries, then 256 local entries. -/
def State.routeLoad (s : State) (k : List Byte) (dma : Option (List Byte)) : State :=
  match bufData k 16 dma with
  | none => s.reply k stHostDma 0 0
  | some d =>
    ((List.range 256).foldl (fun s i =>
      (s.regPut (aFabRouteRegion i) (pktField d (4 * i) 4)).regPut (aFabRouteLocal i) (pktField d (1024 + 4 * i) 4)) s).ok k 0 0

/-- ROUTE_LOAD. -/
def execRouteLoad (dma : Option (List Byte)) (s : State) : Host.Outcome State Fault Refusal :=
  .next (s.hostCommand 0x52 (fun _ k => bufLimits k 16 ++ [(24, decide (bufLen k 16 = 2048))]) (fun s k => s.routeLoad k dma))

/-- ROUTE_UPDATE: each entry in order. -/
def State.routeUpdate (s : State) (k : List Byte) : State :=
  ((List.range (pktField k 16 1)).foldl (fun s i =>
    let e := pktField k (24 + 8 * i) 8
    s.regPut (if bit e 40 then aFabRouteLocal (bits e 39 32) else aFabRouteRegion (bits e 39 32)) (bits e 31 0)) s).ok k 0 0

/-- The limits of ROUTE_UPDATE: the count, rsvd bits of the entries in use, and nothing beyond them. -/
def routeLimits (k : List Byte) : List Limit :=
  let n := pktField k 16 1
  (16, decide (1 ≤ n ∧ n ≤ 12)) :: (List.range 12).flatMap (fun i =>
    let o := 24 + 8 * i
    if i < n then [(o + 5, decide (recByte k (o + 5) ≤ 1)), (o + 6, recByte k (o + 6) == 0), (o + 7, recByte k (o + 7) == 0)]
    else (List.range 8).map (fun j => (o + j, recByte k (o + j) == 0)))

/-- ROUTE_UPDATE. -/
def execRouteUpdate (s : State) : Host.Outcome State Fault Refusal := .next (s.hostCommand 0x53 (fun _ k => routeLimits k) (·.routeUpdate ·))

/-- Entries of a GROUPS buffer, 40 bytes each; entries of zeros at the end fill the buffer up. -/
def groupEntries (d : List Byte) : List (List Byte) :=
  (((List.range (d.length / 40)).map (fun i => (d.drop (40 * i)).take 40)).reverse.dropWhile (·.all (· == 0))).reverse

/-- Membership of a group: size, position and neighbours (R403, R422). -/
def State.membership (s : State) (g : Nat) : List Nat :=
  [s.getF (aCeGroupG0 g) 60 29, s.getF (aCeGroupG1 g) 31 0, s.rdN (aCeGroupG2 g)]

/-- Write one group descriptor; the version counts on where its membership changes. -/
def State.putGroup (s : State) (e : List Byte) : State :=
  let g := pktField e 0 8
  let v := s.groupVersion g
  let old := s.membership g
  let s := ((s.regPut (aCeGroupG0 g) (pktField e 8 8)).regPut (aCeGroupG1 g) (pktField e 16 4 + v * 2 ^ 32)).regPut
    (aCeGroupG2 g) (pktField e 24 8)
  if s.membership g = old then s else (s.setF (aCeGroupG1 g) 63 32 (v + 1)).dropChunks g

/-- GROUPS: within the partition's range, and while no run of the groups is in progress. -/
def State.groupsCmd (s : State) (k : List Byte) (dma : Option (List Byte)) : State :=
  let x := s.part (pktPart k)
  match bufData k 16 dma with
  | none => s.reply k stHostDma 0 0
  | some d =>
    let es := groupEntries d
    if es.any (fun e => decide (pktField e 0 8 < x.groupBase ∨ x.groupBase + x.groupCount ≤ pktField e 0 8)) then
      s.reply k stBadParam 16 0
    else if es.any (fun e => s.groupBusy (pktField e 0 8)) then s.badState k
    else (es.foldl (·.putGroup ·) s).ok k es.length 0

/-- GROUPS. -/
def execGroups (dma : Option (List Byte)) (s : State) : Host.Outcome State Fault Refusal :=
  .next (s.hostCommand 0x54 (fun _ k => bufLimits k 16) (fun s k => s.groupsCmd k dma))

/-- Device IDs for which the plan holds an identity: the own one, the buddy, the spares. -/
def State.planIds (s : State) : List Nat :=
  let v := s.planField 0x3C 1
  [s.planField 0x30 2] ++ (if bit v 0 then [s.planField 0x32 2] else [])
    ++ ((List.range 4).filter (fun i => bit v (i + 1))).map (fun i => s.planField (0x34 + 2 * i) 2)

/-- ASSUME_ID: FAB_ID takes the ID, every peer context is freed, MS3 is extended. -/
def State.assumeId (s : State) (k : List Byte) : State :=
  let id := pktField k 16 2
  let old := s.devId
  if (List.range 16).any (fun p => s.job p == 2) then s.badState k
  else if s.fab.plan.isEmpty ∨ !s.planIds.contains id then s.reply k stBadParam 16 0
  else (((s.regPut aFabId (2 ^ 31 + id)).extend 3 6 (leBytes 2 id)).postMp 0xC7 old id).ok k old 0

/-- ASSUME_ID. -/
def execAssumeId (s : State) : Host.Outcome State Fault Refusal := .next (s.hostCommand 0x55 noLimits (·.assumeId ·))

/-! ### COUNTERS, TRACE, RIM_DUMP (R561, R565, R571) -/

/-- Insert into a rising list of numbers; sort. -/
def insertNat (x : Nat) : List Nat → List Nat
  | [] => [x]
  | y :: r => if x ≤ y then x :: y :: r else y :: insertNat x r
def sortNat (l : List Nat) : List Nat := l.foldr insertNat []

/-- Registers of a tile unit in a set: 0 always-on, 1 detailed, 2 both, each in ascending offset. -/
def unitSet (t u set : Nat) : List Nat :=
  let det := if u < 6 then (List.range 8).map (aCntStall t u ·) else []
  let on := sortNat ((unitCounters t u).filter (fun a => !det.contains a))
  match set with
  | 0 => on
  | 1 => det
  | _ => on ++ det

/-- A record of a snapshot. -/
def State.cntRecord (s : State) (kind unit num epoch : Nat) (regs : List Nat) : List Byte :=
  leBytes 1 kind ++ leBytes 1 unit ++ leBytes 2 num ++ leBytes 1 epoch ++ [0] ++ leBytes 2 regs.length ++ leBytes 8 s.hoop
    ++ regs.flatMap (fun a => leBytes 8 (s.rdN a))

/-- Byte i of an epoch register. -/
def State.epochAt (s : State) (a i : Nat) : Nat := s.getF a (8 * i + 7) (8 * i)

/-- Records of a tile: every unit of the grade. -/
def State.tileRecords (s : State) (set t : Nat) : List (List Byte) :=
  ((List.range 8).filter (fun u => u != 3 || s.grade == 0)).map (fun u =>
    s.cntRecord 0 u t (s.epochAt (aTileCntEpoch t) u) (unitSet t u set))

/-- A snapshot. -/
def State.snapshotBytes (s : State) (part set : Nat) (ts : List Nat) : List Byte :=
  let rest (l : List Nat) : List Nat := if set = 1 then [] else sortNat l
  let recs := ts.flatMap (s.tileRecords set ·) ++ (if part ≠ 255 then [] else
    (List.range 16).map (fun p => s.cntRecord 1 0 p (s.epochAt (aCntEpochPort (p / 8)) (p % 8)) (rest (portCounters p))) ++
    (List.range 16).map (fun c => s.cntRecord 2 0 c (s.epochAt (aCntEpochCh (c / 8)) (c % 8)) (rest (chanCounters c))) ++
    (List.range 8).map (fun h => s.cntRecord 3 0 h (s.epochAt aCntEpochHub h) (rest (hubCounters h))))
  fit 64 (leBytes 2 1 ++ leBytes 1 set ++ leBytes 1 part ++ leBytes 4 recs.length ++ leBytes 8 s.hoop ++ leBytes 8 s.hoop)
    ++ recs.flatten

/-- Tiles that a COUNTERS names. -/
def State.cntTiles (s : State) (k : List Byte) : List Nat :=
  let p := pktPart k
  ((if p = 255 then List.range 1024 else s.partTiles p).drop (pktField k 32 4)).take (pktField k 36 4)

/-- COUNTERS. -/
def execCounters (dmaOk : Bool) (s : State) : Host.Outcome State Fault Refusal :=
  .next (s.hostCommand 0x60
    (fun s k => bufLimits k 16 ++ [(28, decide (pktField k 28 1 ≤ 2))] ++
      rangeLimits k 32 (if pktPart k = 255 then 1024 else s.partTileCount (pktPart k)) 0)
    (fun s k => s.fillBuffer k 16 dmaOk (s.snapshotBytes (pktPart k) (pktField k 28 1) (s.cntTiles k))))

/-- TRACE: the mask of a partition's tiles, kept for its placements and resumes, or of every tile. -/
def State.traceCmd (s : State) (k : List Byte) : State :=
  let p := pktPart k
  let m := pktField k 16 4
  let ps := if p = 255 then (List.range 16).filter (s.partExists ·) else [p]
  let s := ps.foldl (fun s q => s.onPart q (fun x => { x with trace := m })) s
  let ts := if p = 255 then List.range 1024 else if s.partResident p then s.partTiles p else []
  (forTiles ts (fun s t => s.setF (aTileCntCtrl t) 1 0 m) s).ok k 0 0

/-- TRACE. -/
def execTrace (s : State) : Host.Outcome State Fault Refusal :=
  .next (s.hostCommand 0x61 (fun _ k => [(16, decide (pktField k 16 4 < 4))]) (·.traceCmd ·))

/-- A rim as a dump writes it: header, then 256 entries, the oldest first. -/
def State.rimBytes (s : State) (kind unit num key : Nat) : List Byte :=
  let r := mapGet {} s.rims key
  leBytes 1 kind ++ leBytes 1 unit ++ leBytes 2 num ++ leBytes 4 r.posted ++ leBytes 8 s.hoop
    ++ fit 4096 (r.entries.flatMap (fun e => leBytes 16 e.toNat))

/-- The rims that a selector names: unit, number, key. -/
def State.rimsOf (s : State) (sel : Nat) : List (Nat × Nat × Nat) :=
  match bits sel 31 30 with
  | 0 => ((List.range 15).filter (fun u => bit sel u && (u != 4 || s.grade == 0))).map (fun u => (u, bits sel 29 20, rimTile (bits sel 29 20) u))
  | 1 => ((List.range 16).filter (bit sel ·)).map (fun p => (0, p, rimPort p))
  | _ => [(0, 0, rimMp)]

/-- Has a selector no bit of no meaning? -/
def selectorOk (sel : Nat) : Bool :=
  match bits sel 31 30 with
  | 0 => bits sel 19 15 == 0
  | 1 => bits sel 29 16 == 0
  | 2 => bits sel 29 0 == 0
  | _ => false

/-- RIM_DUMP. -/
def execRimDump (dmaOk : Bool) (s : State) : Host.Outcome State Fault Refusal :=
  .next (s.hostCommand 0x62 (fun _ k => bufLimits k 16 ++ [(28, selectorOk (pktField k 28 4))])
    (fun s k =>
      let sel := pktField k 28 4
      s.fillBuffer k 16 dmaOk ((s.rimsOf sel).flatMap (fun x => s.rimBytes (bits sel 31 30) x.1 x.2.1 x.2.2))))

/-! ### FREEZE_AT, UNFREEZE, WARM_RESET (R459, R470, R506, R575, R579) -/

/-- FREEZE_AT: armed, with event 0xE9. -/
def State.freezeAt (s : State) (k : List Byte) : State :=
  let h := pktField k 16 8
  (((s.wrN aDbgFreezeAt h).setF aDbgFreezeStatus 9 9 1).postMp 0xE9 1 (h % 2 ^ 48)).ok k 0 0

/-- FREEZE_AT. -/
def execFreezeAt (s : State) : Host.Outcome State Fault Refusal :=
  .next (s.hostCommand 0x70 (fun s k => [(16, decide (s.hoop < pktField k 16 8))]) (·.freezeAt ·))

/-- UNFREEZE: the clocks restart, or the armed freeze is cancelled. -/
def State.unfreezeCmd (s : State) (k : List Byte) : State :=
  if s.frozen then s.unfreezeNow.ok k 0 0
  else if s.getF aDbgFreezeStatus 9 9 = 1 then
    ((s.setF aDbgFreezeStatus 9 9 0).postMp 0xE9 2 (s.rdN aDbgFreezeAt % 2 ^ 48)).ok k 0 0
  else s.badState k

/-- UNFREEZE. -/
def execUnfreeze (s : State) : Host.Outcome State Fault Refusal := .next (s.hostCommand 0x71 noLimits (·.unfreezeCmd ·))

/-- WARM_RESET: packets before it end ABORTED, those behind it stay in the FIFO; an OTP pulse holds the reset back. -/
def State.warmCmd (s : State) (k : List Byte) (before : List (List Byte)) : State :=
  let n := before.length
  let s := s.onHost (fun h => { h with fifo := h.fifo.drop n })
  let s := before.foldl (fun s x => (s.cnt aCntHifPackets).reply x stAborted 0 0) s
  (s.startRun k).deferReset 3 0 (·.doWarm)

/-- WARM_RESET. -/
def execWarmReset (s : State) : Host.Outcome State Fault Refusal :=
  .next (s.hostCommandAt 0x81 noLimits (fun s k i => s.warmCmd k (s.host.fifo.take i)))

/-! ### Debug unlock (R546, R548–R550) -/

/-- DEBUG_CHALLENGE: 16 bytes from the entropy source, unless eight unlocks have failed since the reset. -/
def State.debugChallenge (s : State) (k : List Byte) : State :=
  if 8 ≤ s.getF aSecStatus 10 7 then s.badState k
  else
    let (c, s) := s.entropy 16
    ({ s with sec := { s.sec with challenge := some (c, s.hoop) } }).ok k (leVal (c.take 8)) (leVal (c.drop 8))

/-- DEBUG_CHALLENGE. -/
def execDebugChallenge (s : State) : Host.Outcome State Fault Refusal := .next (s.hostCommand 0x90 noLimits (·.debugChallenge ·))

/-- The first check of R549 that a response fails; 0 where it passes. -/
def State.responseCheck (s : State) (d : List Byte) : Nat :=
  let slot := recByte d 2
  let scope := recByte d 3
  let op := s.opSlot slot
  let key := (d.drop 0x28).take 57
  let fresh := match s.sec.challenge with
    | some (c, h) => decide (c = (d.drop 8).take 16 ∧ s.hoop - h ≤ 72000000000)
    | none => false
  if !fresh then 1
  else if (d.drop 0x18).take 16 ≠ fit 16 Config.serial then 2
  else if 4 ≤ slot ∨ op.hash.isEmpty ∨ op.revoked ∨ keyHash key ≠ op.hash then 3
  else if 8 ≤ scope ∨ (bit scope 0 ∧ !bit op.roles 1) ∨ ((bit scope 1 ∨ bit scope 2) ∧ !bit op.roles 2) then 4
  else if !edVerify key (ascii "qorkar-debug") (d.take 0x88) ((d.drop 0x88).take 114) then 5
  else 0

/-- The operator slot after a response's registration and revocation: none where one of them is refused (R546). -/
def State.slotChange (s : State) (d : List Byte) : Option OpSlot :=
  let scope := recByte d 3
  let t := recByte d 0x61
  let x := s.opSlot t
  let reg := bit scope 1
  let rev := bit scope 2
  let x' : OpSlot := if reg then { hash := (d.drop 0x64).take 32, roles := recByte d 0x62 % 16 } else x
  let x' : OpSlot := if rev then { x' with revoked := true } else x'
  let left := (List.range 4).any (fun i =>
    let y := if i = t then x' else s.opSlot i
    !y.hash.isEmpty && !y.revoked && bit y.roles 2)
  if 4 ≤ t ∨ (reg ∧ (!x.hash.isEmpty ∨ x.revoked)) ∨ (rev ∧ !left) then none else some x'

/-- DEBUG_UNLOCK. -/
def State.debugUnlock (s : State) (k : List Byte) (dma : Option (List Byte)) : State :=
  match bufData k 16 dma with
  | none => s.reply k stHostDma 0 0
  | some d =>
    let slot := recByte d 2
    let scope := recByte d 3
    let n := s.responseCheck d
    let s := { s with sec := { s.sec with challenge := none } }
    if n ≠ 0 then
      let s := (s.cnt aCntSecUnlockFail).setF aSecStatus 10 7 (min 8 (s.getF aSecStatus 10 7 + 1))
      (s.postMp 0xFC slot n).reply k stAuthFail 0 0
    else
      let change := bit scope 1 || bit scope 2
      match (if change then s.slotChange d else some {}) with
      | none => s.reply k stBadParam 16 0
      | some x =>
        let t := recByte d 0x61
        let s := if change then
            let s := { s.setOpSlot t x with sec := { s.sec with pulse := true } }
            let s := if bit scope 1 then s.postMp 0xFD t 1 else s
            (if bit scope 2 then s.postMp 0xFD t 2 else s).secShow
          else s
        let s := if bit scope 0 then (s.setF aHifStatus 6 6 1).setF aSecStatus 6 6 1 else s
        (((s.extend 2 4 (d.take 64)).postMp 0xFC slot 0)).ok k 0 0

/-- DEBUG_UNLOCK. -/
def execDebugUnlock (dma : Option (List Byte)) (s : State) : Host.Outcome State Fault Refusal :=
  .next (s.hostCommand 0x91 (fun _ k => bufLimits k 16 ++ [(24, decide (250 ≤ bufLen k 16))]) (fun s k => s.debugUnlock k dma))

end Sys2Proof.Machine
end

