-- ==== Sys2Proof/Machine/VeInstr.lean ====
section
/-! DEFINITION. The vector instructions, one meaning each (R104, R105, R112–R130). -/
namespace Sys2Proof.Machine

/-- Any form of an opcode. -/
def anyForm (_fmt _mod : Nat) : Bool := true
/-- One issue cycle (R115). -/
def oneCycle (_lanes : Nat) : Nat := 1
/-- Issue cycles of RND: ceil(L ÷ 32) (R115). -/
def rndCycles (l : Nat) : Nat := (l + 31) / 32

/-- Field of the issuing word. -/
def VeCtx.va (c : VeCtx) : Nat := bits c.word 43 38
def VeCtx.vb (c : VeCtx) : Nat := bits c.word 37 32
def VeCtx.vc (c : VeCtx) : Nat := bits c.word 31 26
def VeCtx.vd (c : VeCtx) : Nat := bits c.word 49 44
def VeCtx.mod (c : VeCtx) : Nat := bits c.word 23 0

/-- Element lanes, and raw lanes, of the register that number r names. -/
def Tile.elems (x : Tile) (c : VeCtx) (r : Nat) : List Nat := lanesOf (fmtOf c.word) (x.vreg c r)
def Tile.raws (x : Tile) (c : VeCtx) (r : Nat) : List Nat := rawLanes (fmtOf c.word) (x.vreg c r)

/-- A lane operation over the element lanes of va, vb and vc. -/
def State.veLanes (s : State) (t : Nat) (c : VeCtx) (g : Nat → Nat → Nat → Nat × Nat) : State :=
  let x := s.tile t
  let a := x.elems c c.va
  let b := x.elems c c.vb
  let d := x.elems c c.vc
  s.lanesTo t c (fun i => g (nth a i) (nth b i) (nth d i))

/-- A bit operation over the element lanes of va and vb, with the lane number (R104). MOV, SEL, LOG, TRN, LD and ST move bits
and do not read them as numbers: they set no flag, nan_seen neither (DESIGN CHOICE, log entry 75: R67 does not say). -/
def State.veRaw (s : State) (t : Nat) (c : VeCtx) (g : Nat → Nat → Nat → Nat) : State :=
  let x := s.tile t
  let a := x.elems c c.va
  let b := x.elems c c.vb
  s.lanesTo t c (fun i => (g i (nth a i) (nth b i), 0))

/-- The step that a vector instruction takes. -/
def veStep (t op : Nat) (i : VFields) (body : VeCtx → State → State) (s : State) : Host.Outcome State Fault Refusal :=
  .next (s.clocked (fun s => s.veIssue t op i anyForm oneCycle body))

/-- NOP (R115). -/
def execNop (t : TileId) (i : VFields) (s : State) : Host.Outcome State Fault Refusal := veStep t.val opNop i (fun _ s => s) s

/-- MOV (R115). -/
def execMov (t : TileId) (i : VFields) (s : State) : Host.Outcome State Fault Refusal :=
  veStep t.val opMov i (fun c s => s.veRaw t.val c (fun _ a _ => a)) s

/-- One lane of MOVI (R114): the 32-bit immediate by lane width and half. -/
def moviLane (w half imm old : Nat) : Nat :=
  if w < 64 then imm % 2 ^ w else if half = 0 then imm * 2 ^ 32 else old / 2 ^ 32 * 2 ^ 32 + imm

/-- MOVI writes every lane of vd whatever the masks hold (R105, R114): the immediate's low w bits, w the lane width (R103). -/
def State.movi (s : State) (t : Nat) (c : VeCtx) : State :=
  let f := fmtOf c.word
  let old := (s.tile t).raws c c.vd
  let l := old.map (moviLane f.laneBits (bits c.word 32 32) (bits c.word 31 0))
  s.launch t c [(physReg c.f c.win c.vd, ofLanes f l)] [] false

/-- MOVI. -/
def execMovi (t : TileId) (i : VFields) (s : State) : Host.Outcome State Fault Refusal :=
  veStep t.val opMovi i (fun c s => s.movi t.val c) s

/-- ADD (R114, R117). -/
def execAdd (t : TileId) (i : VFields) (s : State) : Host.Outcome State Fault Refusal :=
  veStep t.val opAdd i (fun c s => s.veLanes t.val c (fun a b _ =>
    laneAdd (fmtOf c.word) (bit c.mod 1) (bit c.mod 0) a b)) s

/-- MUL (R114, R117). -/
def execMul (t : TileId) (i : VFields) (s : State) : Host.Outcome State Fault Refusal :=
  veStep t.val opMul i (fun c s => s.veLanes t.val c (fun a b _ => laneMul (fmtOf c.word) (bit c.mod 1) a b)) s

/-- FMA (R114, R117). -/
def execFma (t : TileId) (i : VFields) (s : State) : Host.Outcome State Fault Refusal :=
  veStep t.val opFma i (fun c s => s.veLanes t.val c (fun a b d =>
    laneFma (fmtOf c.word) (bit c.mod 1) (bit c.mod 0) a b d)) s

/-- MIN (R48). -/
def execMin (t : TileId) (i : VFields) (s : State) : Host.Outcome State Fault Refusal :=
  veStep t.val opMin i (fun c s => s.veLanes t.val c (fun a b _ => lanePick (fmtOf c.word) false a b)) s

/-- MAX (R48). -/
def execMax (t : TileId) (i : VFields) (s : State) : Host.Outcome State Fault Refusal :=
  veStep t.val opMax i (fun c s => s.veLanes t.val c (fun a b _ => lanePick (fmtOf c.word) true a b)) s

/-- A mask of L lanes put over the low L bits of a lane mask, which launches it towards LMlmd (R121, R127). -/
def State.launchMask (s : State) (t : Nat) (c : VeCtx) (l m : Nat) : State :=
  let k := mLmd c.mod
  if k = 0 then s
  else s.launch t c [] [(c.maskKey k, setBits ((s.tile t).lmask c k) (l - 1) 0 m)] false

/-- CMP: comparison in active lanes, 0 in inactive ones (R121). -/
def State.cmp (s : State) (t : Nat) (c : VeCtx) : State :=
  let x := s.tile t
  let f := fmtOf c.word
  let m := x.activeMask c f.lanes
  let a := x.elems c c.va
  let b := x.elems c c.vb
  let r := (List.range f.lanes).map (fun i =>
    if bit m i then laneCmp f (bits c.mod 2 0) (nth a i) (nth b i) else (false, 0))
  let v := packBits 1 (r.map (fun x => b2n x.1))
  (s.launchMask t c f.lanes v).raiseFlags t (r.foldl (fun a x => a ||| x.2) 0)

/-- CMP. -/
def execCmp (t : TileId) (i : VFields) (s : State) : Host.Outcome State Fault Refusal :=
  veStep t.val opCmp i (fun c s => s.cmp t.val c) s

/-- SEL (R121). -/
def execSel (t : TileId) (i : VFields) (s : State) : Host.Outcome State Fault Refusal :=
  veStep t.val opSel i (fun c s =>
    let m := (s.tile t.val).lmask c (mLmd c.mod)
    s.veRaw t.val c (fun k a b => if bit m k then a else b)) s

/-- LOG (R114, R115). -/
def execLog (t : TileId) (i : VFields) (s : State) : Host.Outcome State Fault Refusal :=
  veStep t.val opLog i (fun c s => s.veRaw t.val c (fun _ a b =>
    laneLog (bits c.mod 1 0) a b (fmtOf c.word).width)) s

/-- EXP2 (R118). -/
def execExp2 (t : TileId) (i : VFields) (s : State) : Host.Outcome State Fault Refusal :=
  veStep t.val opExp2 i (fun c s => s.veLanes t.val c (fun a _ _ => laneFn (fmtOf c.word) FVal.exp2 a)) s

/-- LOG2 (R118). -/
def execLog2 (t : TileId) (i : VFields) (s : State) : Host.Outcome State Fault Refusal :=
  veStep t.val opLog2 i (fun c s => s.veLanes t.val c (fun a _ _ => laneFn (fmtOf c.word) FVal.log2 a)) s

/-- RCP (R118). -/
def execRcp (t : TileId) (i : VFields) (s : State) : Host.Outcome State Fault Refusal :=
  veStep t.val opRcp i (fun c s => s.veLanes t.val c (fun a _ _ => laneFn (fmtOf c.word) FVal.rcp a)) s

/-- RSQ (R118). -/
def execRsq (t : TileId) (i : VFields) (s : State) : Host.Outcome State Fault Refusal :=
  veStep t.val opRsq i (fun c s => s.veLanes t.val c (fun a _ _ => laneFn (fmtOf c.word) FVal.rsq a)) s

/-- One value to every active lane of vd, with the flags of the whole instruction. -/
def State.broadcast (s : State) (t : Nat) (c : VeCtx) (v flags : Nat) : State :=
  (s.lanesTo t c (fun _ => (v, 0))).raiseFlags t flags

/-- The lane sum of R119: 16-bit widths add in FP32 and round once. -/
def laneSum (f : Fmt) (mask : Nat) (l : List Nat) : FCode :=
  let l := maskZero mask l
  let any := l.any (fun a => (f.decode a).isNaN)
  let r := if f.width = 16 then fCvt .fp32 f (fTree .fp32 6 (l.map (fun a => fCvt f .fp32 (fc a))))
    else fTree f (if f.width = 64 then 4 else 5) (l.map fc)
  (r.1, rowFlags any [r])

/-- RSUM: inactive lanes contribute +0 (R105, R119; log entry 70). -/
def execRsum (t : TileId) (i : VFields) (s : State) : Host.Outcome State Fault Refusal :=
  veStep t.val opRsum i (fun c s =>
    let x := s.tile t.val
    let f := fmtOf c.word
    let r := laneSum f (x.activeMask c f.lanes) (x.elems c c.va)
    s.broadcast t.val c r.1 r.2) s

/-- The largest or smallest of the active lanes (R48, R119): none where no lane is active. -/
def lanePickAll (f : Fmt) (max : Bool) (mask : Nat) (l : List Nat) : Option FCode :=
  match ((List.range l.length).filter (bit mask ·)).map (nth l ·) with
  | [] => none
  | a :: r =>
    let v := r.foldl (fun b x => (lanePick f max b x).1) a
    some (if (f.decode v).isNaN then f.nanCode else v,
      if (a :: r).any (fun x => (f.decode x).isNaN) then fNanSeen else 0)

/-- RMAX and RMIN share their body. -/
def State.reduceTo (s : State) (t : Nat) (c : VeCtx) (max : Bool) : State :=
  let x := s.tile t
  let f := fmtOf c.word
  match lanePickAll f max (x.activeMask c f.lanes) (x.elems c c.va) with
  | some r => s.broadcast t c r.1 r.2
  | none => s.lanesTo t c (fun _ => (0, 0))

/-- RMAX (R119). -/
def execRmax (t : TileId) (i : VFields) (s : State) : Host.Outcome State Fault Refusal :=
  veStep t.val opRmax i (fun c s => s.reduceTo t.val c true) s

/-- RMIN (R119). -/
def execRmin (t : TileId) (i : VFields) (s : State) : Host.Outcome State Fault Refusal :=
  veStep t.val opRmin i (fun c s => s.reduceTo t.val c false) s

/-- TRN: all eight results land together (R120). -/
def State.transpose (s : State) (t : Nat) (c : VeCtx) : State :=
  let x := s.tile t
  let f := fmtOf c.word
  let m := x.activeMask c f.lanes
  let out := trn f ((List.range 8).map (fun k => x.vreg c (c.va + k)))
  s.launch t c ((List.range 8).map (fun j =>
    (physReg c.f c.win (c.vd + j), ofLanes f (mergeLanes m (x.raws c (c.vd + j)) (rawLanes f (nth out j)))))) [] false

/-- TRN. -/
def execTrn (t : TileId) (i : VFields) (s : State) : Host.Outcome State Fault Refusal :=
  veStep t.val opTrn i (fun c s => s.transpose t.val c) s

/-! ### Random streams (R126–R128) -/

/-- Counter of stream k, and its key. -/
def State.rngCtr (s : State) (t k : Nat) : Nat := s.rdN (aVeRngCtrLo t k) + s.rdN (aVeRngCtrHi t k) * 2 ^ 64
def State.rngKey (s : State) (t k : Nat) : Nat := s.rdN (aVeRngKey t k)

/-- Advance a stream's counter modulo 2^128. -/
def State.rngAdvance (s : State) (t k n : Nat) : State :=
  let c := (s.rngCtr t k + n) % 2 ^ 128
  (s.wrN (aVeRngCtrLo t k) (c % 2 ^ 64)).wrN (aVeRngCtrHi t k) (c / 2 ^ 64)

/-! ### Conversion (R59–R66, R129, R130) -/

/-- Rounding of instruction lane i of a CVT. -/
def cvtRnd (mod key ctr i : Nat) : Rnd :=
  match mRnd mod with
  | 0 => .nearest
  | 1 => .zero
  | _ => .stochastic (rndHalf key ctr i)

/-- What every CVT shares: L, the lane offsets, the active mask and the rounding of each lane. -/
structure CvtCtx where
  src : Fmt
  dst : Fmt
  l : Nat
  soff : Nat
  doff : Nat
  mask : Nat
  mod : Nat
  key : Nat
  ctr : Nat
  deriving DecidableEq, Repr

/-- The conversion that an instruction word asks for (R129). -/
def State.cvtCtx (s : State) (t : Nat) (c : VeCtx) : CvtCtx :=
  let f := fmtOf c.word
  let d := (Fmt.ofCode (mDfmt c.mod)).getD .fp32
  let l := min f.lanes d.lanes
  { src := f, dst := d, l, soff := if d.lanes < f.lanes then mPart c.mod * l else 0,
    doff := if f.lanes < d.lanes then mPart c.mod * l else 0,
    mask := (s.tile t).activeMask c l, mod := c.mod, key := s.rngKey t (mStream c.mod), ctr := s.rngCtr t (mStream c.mod) }

/-- Put results in destination lanes doff to doff + L − 1 of vd; others keep their contents. -/
def cvtPut (k : CvtCtx) (old : Nat) (res : List (Option Nat)) : Nat :=
  ofLanes k.dst ((List.range k.dst.lanes).map (fun j =>
    if k.doff ≤ j ∧ j < k.doff + k.l then ((res.getD (j - k.doff) none).getD (nth (rawLanes k.dst old) j))
    else nth (rawLanes k.dst old) j))

/-- A stochastic conversion draws ceil(L ÷ 8) outputs (R61). -/
def State.cvtDraw (s : State) (t : Nat) (k : CvtCtx) : State :=
  if mRnd k.mod = 2 then s.rngAdvance t (mStream k.mod) ((k.l + 7) / 8) else s

/-- Lane-wise conversion through a value of each active lane. -/
def State.cvtLanes (s : State) (t : Nat) (c : VeCtx) (val : CvtCtx → Nat → Nat → FVal) (scaleNaN : CvtCtx → Nat → Bool) : State :=
  let k := s.cvtCtx t c
  let src := (s.tile t).elems c c.va
  let res := (List.range k.l).map (fun i =>
    if bit k.mask i then
      (if scaleNaN k i then some (k.dst.nanCode, fNanSeen)
       else some (k.dst.convert (cvtRnd k.mod k.key k.ctr i) (mOvf k.mod) (val k i (nth src (k.soff + i)))))
    else none)
  let flags := res.foldl (fun a r => a ||| (r.getD (0, 0)).2) 0
  let old := (s.tile t).vreg c c.vd
  let s := s.launch t c [(physReg c.f c.win c.vd, cvtPut k old (res.map (·.map (·.1))))] [] false
  (s.cvtDraw t k).raiseFlags t flags

/-- CVT with bq = 0 (R129). -/
def execCvt (t : TileId) (i : VFields) (s : State) : Host.Outcome State Fault Refusal :=
  .next (s.clocked (fun s => s.veIssue t.val opCvt i (fun _ m => !mBq m) oneCycle (fun c s =>
    s.cvtLanes t.val c (fun k _ a => k.src.decode a) (fun _ _ => false))))

/-- CVT that dequantises: each element times 2^(s − 127), s = 0xFF giving the canonical NaN (R130). -/
def execCvtDequantise (t : TileId) (i : VFields) (s : State) : Host.Outcome State Fault Refusal :=
  .next (s.clocked (fun s => s.veIssue t.val opCvt i cvtDequant oneCycle (fun c s =>
    let sc := (s.tile t.val).vreg c c.vc
    let byte (k : CvtCtx) (i : Nat) : Nat := nth (unpackBits 8 128 sc) (mSidx k.mod + (k.soff + i) / 32)
    s.cvtLanes t.val c (fun k i a => (k.src.decode a).scale ((byte k i : Int) - 127)) (fun k i => byte k i == 255))))

/-- CVT that block-quantises (R66, R130). Where vd and vc name one register, the scale bytes are laid over the quantised elements
(DESIGN CHOICE, log entry 75: the spec does not say). -/
def State.quantise (s : State) (t : Nat) (c : VeCtx) : State :=
  let k := s.cvtCtx t c
  let x := s.tile t
  let src := x.elems c c.va
  let blocks := (List.range (k.l / 32)).map (fun b =>
    let act := ((List.range 32).map (32 * b + ·)).filter (bit k.mask ·)
    let q := blockQuantise k.dst (mOvf k.mod) (act.map (fun i => (k.src.decode (nth src i), cvtRnd k.mod k.key k.ctr i)))
    (b, act, q))
  let live := blocks.filter (fun b => !b.2.1.isEmpty)
  let res := (List.range k.l).map (fun i =>
    match live.find? (fun b => b.2.1.contains i) with
    | some b => some (nth b.2.2.1 (b.2.1.idxOf i))
    | none => none)
  let vd := x.vreg c c.vd
  let same := physReg c.f c.win c.vd == physReg c.f c.win c.vc
  let newVd := cvtPut k vd res
  let newVc := live.foldl (fun v b => setBits v (8 * (mSidx k.mod + b.1) + 7) (8 * (mSidx k.mod + b.1)) b.2.2.2.1)
    (if same then newVd else x.vreg c c.vc)
  let flags := live.foldl (fun a b => a ||| b.2.2.2.2) 0
  let regs := if same then [(physReg c.f c.win c.vc, newVc)]
    else [(physReg c.f c.win c.vd, newVd), (physReg c.f c.win c.vc, newVc)]
  ((s.launch t c regs [] false).cvtDraw t k).raiseFlags t flags

/-- CVT_BLOCK_QUANTISE. -/
def execCvtBlockQuantise (t : TileId) (i : VFields) (s : State) : Host.Outcome State Fault Refusal :=
  .next (s.clocked (fun s => s.veIssue t.val opCvt i cvtQuant oneCycle (fun c s => s.quantise t.val c)))

/-! ### RND (R127) -/

/-- RND of kind raw. -/
def execRndRaw (t : TileId) (i : VFields) (s : State) : Host.Outcome State Fault Refusal :=
  .next (s.clocked (fun s => s.veIssue t.val opRnd i (fun _ m => bits m 1 0 == 0) rndCycles (fun c s =>
    let k := mStream c.mod
    let f := fmtOf c.word
    let v := packBits 128 ((List.range 8).map (fun n => philox (s.rngKey t.val k) ((s.rngCtr t.val k + n) % 2 ^ 128)))
    (s.lanesTo t.val c (fun i => (nth (rawLanes f v) i, 0))).rngAdvance t.val k 8)))

/-- A uniform FP32 value (u >> 8) × 2^−24 (R127). -/
def uniform32 (u : Nat) : Nat := (Fmt.fp32.roundNE (.fin false (u / 256) (-24))).1

/-- RND of kind uniform. -/
def execRndUniform (t : TileId) (i : VFields) (s : State) : Host.Outcome State Fault Refusal :=
  .next (s.clocked (fun s => s.veIssue t.val opRnd i (fun _ m => bits m 1 0 == 1) rndCycles (fun c s =>
    let k := mStream c.mod
    let key := s.rngKey t.val k
    let ctr := s.rngCtr t.val k
    (s.lanesTo t.val c (fun i => (uniform32 (rndWord key ctr i), 0))).rngAdvance t.val k 8)))

/-- RND of kind Bernoulli: lane 0 of va is the threshold, read as 32 bits. -/
def execRndBernoulli (t : TileId) (i : VFields) (s : State) : Host.Outcome State Fault Refusal :=
  .next (s.clocked (fun s => s.veIssue t.val opRnd i (fun _ m => bits m 1 0 == 2) rndCycles (fun c s =>
    let k := mStream c.mod
    let key := s.rngKey t.val k
    let ctr := s.rngCtr t.val k
    let x := s.tile t.val
    let l := (fmtOf c.word).lanes
    let m := x.activeMask c l
    let thr := x.vreg c c.va % 2 ^ 32
    let v := packBits 1 ((List.range l).map (fun i => b2n (bit m i && decide (rndWord key ctr i < thr))))
    (s.launchMask t.val c l v).rngAdvance t.val k ((l + 3) / 4))))

/-! ### Loads and stores (R112, R113, R137, R160, R165) -/

/-- Address of the operand that the instruction names in this iteration (R225). -/
def VeCtx.addr (c : VeCtx) : Nat :=
  let k := mOperand c.mod
  genAddr (if mGab c.mod then 18 else 21) (c.run.pats.getD k []) (nth c.run.bases k) c.iter

/-- The 32 GAB entries of an access; low entry bits are ignored (R160). -/
def gabGroup (a : Nat) : List Nat := (List.range 32).map (fun i => a / 32 * 32 + i)

/-- Value that an LD returns for a GAB entry: round32(s + c) in a compensated region (R165). -/
def State.gabValue (s : State) (t e : Nat) : Nat :=
  match s.compPair t e with
  | some ce => gabSum ((s.tile t).gabEntry e) ((s.tile t).gabEntry ce)
  | none => (s.tile t).gabEntry e

/-- Entries with the compensations of those in a compensated region. -/
def State.withPairs (s : State) (t : Nat) (es : List Nat) : List Nat := es ++ es.filterMap (fun e => s.compPair t e)

/-- LD (R112): the whole access is read; an uncorrectable granule clears nothing. Both entries of a compensated pair are read
and counted (R165, R171). With gab = 0 the clr bit is accepted and clears nothing (DESIGN CHOICE, log entry 75). -/
def State.load (s : State) (t : Nat) (c : VeCtx) : State :=
  let f := fmtOf c.word
  if mGab c.mod then
    let es := gabGroup c.addr
    match (s.tile t).gabUncorr (s.withPairs t es) with
    | some e => s.veUncorr t c true (4 * e)
    | none =>
      let vals := es.map (s.gabValue t ·)
      let s := s.cnt (aCntGabRdBytes t) (4 * (s.withPairs t es).length)
      let s1 := s.lanesTo t c (fun i => (nth vals i, 0))
      if mClr c.mod then
        let m := (s.tile t).activeMask c 32
        let gone := (es.zip (List.range 32)).filterMap (fun p => if bit m p.2 then some p.1 else none)
        s1.gabStore t ((s.withPairs t gone).map (fun e => (e, 0)))
      else s1
  else
    let as := quadRange c.addr (accessBytes (bits c.word 53 50))
    let (r, s) := s.spadRead t as
    match r.uncorr, r.parity with
    | some a, _ => s.veUncorr t c false a
    | none, some a => s.onRun t (fun r => { r with parity := some a })
    | none, none =>
      let l := unpackBits f.width f.lanes (leVal r.data)
      s.lanesTo t c (fun i => (nth l i, 0))

/-- LD. -/
def execLd (t : TileId) (i : VFields) (s : State) : Host.Outcome State Fault Refusal :=
  veStep t.val opLd i (fun c s => (s.bankHold t.val).load t.val c) s

/-- Does byte j of a packed image hold an element of an active lane? -/
def byteActive (w m j : Nat) : Bool := (List.range (8 / w + 2)).any (fun k =>
  let e := 8 * j / w + k
  bit m e && decide (w * e < 8 * j + 8 ∧ 8 * j < w * e + w))

/-- ST (R112): only elements of active lanes are written; in a compensated region c becomes +0 (R165). -/
def State.store (s : State) (t : Nat) (c : VeCtx) : State :=
  let x := s.tile t
  let f := fmtOf c.word
  let m := x.activeMask c f.lanes
  let a := x.elems c c.va
  if mGab c.mod then
    let act := ((gabGroup c.addr).zip (List.range 32)).filter (fun p => bit m p.2)
    let cs := act.map (fun p => (p.1, nth a p.2))
    let zs := (act.filterMap (fun p => s.compPair t p.1)).map (fun e => (e, 0))
    s.gabStore t (cs ++ zs)
  else
    let w := if f.width < 8 then f.width else f.laneBits
    let as := quadRange c.addr (accessBytes (bits c.word 53 50))
    let old := unpackBits w f.lanes (leVal (as.map (x.byte ·)))
    let img := leBytes as.length (packBits w (mergeLanes m old a))
    let keep := (List.range as.length).filter (byteActive w m ·)
    s.spadWrite t (keep.map (nth as ·)) (keep.map (img.getD · 0))

/-- ST. -/
def execSt (t : TileId) (i : VFields) (s : State) : Host.Outcome State Fault Refusal :=
  veStep t.val opSt i (fun c s => (s.bankHold t.val).store t.val c) s

/-! ### Row statistics (R122–R124) -/

/-- The newest value of a state register: RSTA instructions on one register apply in issue order and never hold (R122). -/
def Tile.rowState (x : Tile) (key : Nat) : Nat :=
  x.ve.flight.foldl (fun v fl => match fl.regs.find? (fun r => r.1 == key) with
    | some r => r.2.toNat
    | none => v) (x.ve.reg key)

/-- RSTA (R122). Its state slots are written whatever the masks hold: the masks choose the input lanes (DEDUCED, log entry 75:
R105 names MOVI and RSTF alone). -/
def execRsta (t : TileId) (i : VFields) (s : State) : Host.Outcome State Fault Refusal :=
  veStep t.val opRsta i (fun c s =>
    let x := s.tile t.val
    let key := physReg c.f c.win c.vd
    let r := rsta (c.mod % 16) (bit c.mod 4 && c.idx0 == 0) (x.activeMask c 32) (x.rowState key) (x.vreg c c.va) (x.vreg c c.vb)
    (s.launch t.val c [(key, r.1)] [] true).raiseFlags t.val r.2) s

/-- RSTF: all 32 lanes of vd whatever the masks hold (R123). -/
def execRstf (t : TileId) (i : VFields) (s : State) : Host.Outcome State Fault Refusal :=
  veStep t.val opRstf i (fun c s =>
    let x := s.tile t.val
    let r := rstf (c.mod % 16) (x.vreg c c.va) (x.vreg c c.vb)
    (s.launch t.val c [(physReg c.f c.win c.vd, r.1)] [] false).raiseFlags t.val r.2) s

/-- RAPP (R124). -/
def execRapp (t : TileId) (i : VFields) (s : State) : Host.Outcome State Fault Refusal :=
  veStep t.val opRapp i (fun c s =>
    let x := s.tile t.val
    let p := unpackBits 32 4 (x.vreg c c.vc)
    s.veLanes t.val c (fun a b _ => rappLane (c.mod % 16) a b (nth p 0) (nth p 1) (nth p 2) (nth p 3))) s

end Sys2Proof.Machine
end

