-- ==== Sys2Proof/Machine/Dispatch.lean ====
section
/-! DEFINITION. Dispatch: one arm per command, each a direct call of its meaning. -/
namespace Sys2Proof.Machine

def exec (i : Instr) (s : State) : Host.Outcome State Fault Refusal :=
  match i with
  | .apertureWrite offset data => Sys2Proof.Machine.execApertureWrite offset data s
  | .identify => Sys2Proof.Machine.execIdentify s
  | .getCert dmaOk => Sys2Proof.Machine.execGetCert dmaOk s
  | .attest dmaOk => Sys2Proof.Machine.execAttest dmaOk s
  | .loadImageBegin => Sys2Proof.Machine.execLoadImageBegin s
  | .loadImageData dma => Sys2Proof.Machine.execLoadImageData dma s
  | .loadImageEnd => Sys2Proof.Machine.execLoadImageEnd s
  | .setRing => Sys2Proof.Machine.execSetRing s
  | .setLatencyTolerance => Sys2Proof.Machine.execSetLatencyTolerance s
  | .partitionCreate => Sys2Proof.Machine.execPartitionCreate s
  | .partitionDestroy => Sys2Proof.Machine.execPartitionDestroy s
  | .partitionQuery => Sys2Proof.Machine.execPartitionQuery s
  | .slathLoad remote => Sys2Proof.Machine.execSlathLoad remote s
  | .jobStart remote => Sys2Proof.Machine.execJobStart remote s
  | .jobStop => Sys2Proof.Machine.execJobStop s
  | .jobPreempt => Sys2Proof.Machine.execJobPreempt s
  | .jobResume => Sys2Proof.Machine.execJobResume s
  | .setTimeSlice => Sys2Proof.Machine.execSetTimeSlice s
  | .waleConfigure dma => Sys2Proof.Machine.execWaleConfigure dma s
  | .waleNow => Sys2Proof.Machine.execWaleNow s
  | .restore dmaOk mirror => Sys2Proof.Machine.execRestore dmaOk mirror s
  | .stepReplay mirror => Sys2Proof.Machine.execStepReplay mirror s
  | .fabricPlan dma => Sys2Proof.Machine.execFabricPlan dma s
  | .bringUp => Sys2Proof.Machine.execBringUp s
  | .routeLoad dma => Sys2Proof.Machine.execRouteLoad dma s
  | .routeUpdate => Sys2Proof.Machine.execRouteUpdate s
  | .groups dma => Sys2Proof.Machine.execGroups dma s
  | .assumeId => Sys2Proof.Machine.execAssumeId s
  | .counters dmaOk => Sys2Proof.Machine.execCounters dmaOk s
  | .trace => Sys2Proof.Machine.execTrace s
  | .rimDump dmaOk => Sys2Proof.Machine.execRimDump dmaOk s
  | .freezeAt => Sys2Proof.Machine.execFreezeAt s
  | .unfreeze => Sys2Proof.Machine.execUnfreeze s
  | .partitionReset => Sys2Proof.Machine.execPartitionReset s
  | .warmReset => Sys2Proof.Machine.execWarmReset s
  | .debugChallenge => Sys2Proof.Machine.execDebugChallenge s
  | .debugUnlock dma => Sys2Proof.Machine.execDebugUnlock dma s
  | .memCopy dma => Sys2Proof.Machine.execMemCopy dma s
  | .functionLevelReset => Sys2Proof.Machine.execFunctionLevelReset s
  | .hifRingHeadWrite head => Sys2Proof.Machine.execHifRingHeadWrite head s
  | .eventRecordWrite => Sys2Proof.Machine.execEventRecordWrite s
  | .interruptCoalTimeout vector => Sys2Proof.Machine.execInterruptCoalTimeout vector s
  | .registerWrite req addr wide data => Sys2Proof.Machine.execRegisterWrite req addr wide data s
  | .veRngCtrWrite req t k hi half data => Sys2Proof.Machine.execVeRngCtrWrite req t k hi half data s
  | .ddrErrLogRead req wide => Sys2Proof.Machine.execDdrErrLogRead req wide s
  | .windowStatusRead req t n => Sys2Proof.Machine.execWindowStatusRead req t n s
  | .lidRead addr => Sys2Proof.Machine.execLidRead addr s
  | .sqStart t => Sys2Proof.Machine.execSqStart t s
  | .sqStop t => Sys2Proof.Machine.execSqStop t s
  | .sqResume t => Sys2Proof.Machine.execSqResume t s
  | .sqRewind t => Sys2Proof.Machine.execSqRewind t s
  | .sqAbort t => Sys2Proof.Machine.execSqAbort t s
  | .sqAbortTakesEffect t => Sys2Proof.Machine.execSqAbortTakesEffect t s
  | .rampSlotReached p j => Sys2Proof.Machine.execRampSlotReached p j s
  | .sequencerRelease p => Sys2Proof.Machine.execSequencerRelease p s
  | .rampDownStart p => Sys2Proof.Machine.execRampDownStart p s
  | .rampDownSlotStop p j => Sys2Proof.Machine.execRampDownSlotStop p j s
  | .slathFetchReturn t block errs remote => Sys2Proof.Machine.execSlathFetchReturn t block errs remote s
  | .slathFetchFault t block => Sys2Proof.Machine.execSlathFetchFault t block s
  | .engine t => Sys2Proof.Machine.execEngine t s
  | .sync t => Sys2Proof.Machine.execSync t s
  | .loop t => Sys2Proof.Machine.execLoop t s
  | .next t => Sys2Proof.Machine.execNext t s
  | .param t => Sys2Proof.Machine.execParam t s
  | .ld8DataReturn t => Sys2Proof.Machine.execLd8DataReturn t s
  | .windowOpen t => Sys2Proof.Machine.execWindowOpen t s
  | .windowClose t => Sys2Proof.Machine.execWindowClose t s
  | .mark t => Sys2Proof.Machine.execMark t s
  | .end_ t => Sys2Proof.Machine.execEnd t s
  | .recoveryPointPass t => Sys2Proof.Machine.execRecoveryPointPass t s
  | .parityEventPost t => Sys2Proof.Machine.execParityEventPost t s
  | .rewindRestore t => Sys2Proof.Machine.execRewindRestore t s
  | .sequencerStopped t => Sys2Proof.Machine.execSequencerStopped t s
  | .waitRelease t n => Sys2Proof.Machine.execWaitRelease t n s
  | .windowCloseByCondition t n => Sys2Proof.Machine.execWindowCloseByCondition t n s
  | .syncOperation n => Sys2Proof.Machine.execSyncOperation n s
  | .commandOverrun t e c => Sys2Proof.Machine.execCommandOverrun t e c s
  | .slipTimeout t e => Sys2Proof.Machine.execSlipTimeout t e s
  | .commandStart t e => Sys2Proof.Machine.execCommandStart t e s
  | .macCommand t m => Sys2Proof.Machine.execMacCommand t m s
  | .macComputeComplete t m => Sys2Proof.Machine.execMacComputeComplete t m s
  | .macDrainComplete t m => Sys2Proof.Machine.execMacDrainComplete t m s
  | .commandCompletion t e c => Sys2Proof.Machine.execCommandCompletion t e c s
  | .operandParityEvent t m addr stored => Sys2Proof.Machine.execOperandParityEvent t m addr stored s
  | .ballastExpired t m => Sys2Proof.Machine.execBallastExpired t m s
  | .veRun t => Sys2Proof.Machine.execVeRun t s
  | .kload t => Sys2Proof.Machine.execKload t s
  | .nop t n => Sys2Proof.Machine.execNop t n s
  | .mov t n => Sys2Proof.Machine.execMov t n s
  | .movi t n => Sys2Proof.Machine.execMovi t n s
  | .add t n => Sys2Proof.Machine.execAdd t n s
  | .mul t n => Sys2Proof.Machine.execMul t n s
  | .fma t n => Sys2Proof.Machine.execFma t n s
  | .min t n => Sys2Proof.Machine.execMin t n s
  | .max t n => Sys2Proof.Machine.execMax t n s
  | .cmp t n => Sys2Proof.Machine.execCmp t n s
  | .sel t n => Sys2Proof.Machine.execSel t n s
  | .log t n => Sys2Proof.Machine.execLog t n s
  | .exp2 t n => Sys2Proof.Machine.execExp2 t n s
  | .log2 t n => Sys2Proof.Machine.execLog2 t n s
  | .rcp t n => Sys2Proof.Machine.execRcp t n s
  | .rsq t n => Sys2Proof.Machine.execRsq t n s
  | .rsum t n => Sys2Proof.Machine.execRsum t n s
  | .rmax t n => Sys2Proof.Machine.execRmax t n s
  | .rmin t n => Sys2Proof.Machine.execRmin t n s
  | .trn t n => Sys2Proof.Machine.execTrn t n s
  | .cvt t n => Sys2Proof.Machine.execCvt t n s
  | .cvtBlockQuantise t n => Sys2Proof.Machine.execCvtBlockQuantise t n s
  | .cvtDequantise t n => Sys2Proof.Machine.execCvtDequantise t n s
  | .rndRaw t n => Sys2Proof.Machine.execRndRaw t n s
  | .rndUniform t n => Sys2Proof.Machine.execRndUniform t n s
  | .rndBernoulli t n => Sys2Proof.Machine.execRndBernoulli t n s
  | .ld t n => Sys2Proof.Machine.execLd t n s
  | .st t n => Sys2Proof.Machine.execSt t n s
  | .rsta t n => Sys2Proof.Machine.execRsta t n s
  | .rstf t n => Sys2Proof.Machine.execRstf t n s
  | .rapp t n => Sys2Proof.Machine.execRapp t n s
  | .veResultLanding t n => Sys2Proof.Machine.execVeResultLanding t n s
  | .veParityStop t addr stored => Sys2Proof.Machine.execVeParityStop t addr stored s
  | .copy t => Sys2Proof.Machine.execCopy t s
  | .pload t => Sys2Proof.Machine.execPload t s
  | .qpush t => Sys2Proof.Machine.execQpush t s
  | .farRequestIssue t c => Sys2Proof.Machine.execFarRequestIssue t c s
  | .farResponse t c id => Sys2Proof.Machine.execFarResponse t c id s
  | .contextHalt t c => Sys2Proof.Machine.execContextHalt t c s
  | .seCtxResume t c => Sys2Proof.Machine.execSeCtxResume t c s
  | .seCtxAbort t c => Sys2Proof.Machine.execSeCtxAbort t c s
  | .translationWalkComplete t c uncorrectable => Sys2Proof.Machine.execTranslationWalkComplete t c uncorrectable s
  | .seXlateInv part all => Sys2Proof.Machine.execSeXlateInv part all s
  | .xlateInvComplete => Sys2Proof.Machine.execXlateInvComplete s
  | .windowAccess t id => Sys2Proof.Machine.execWindowAccess t id s
  | .mergeWrite t addr gab => Sys2Proof.Machine.execMergeWrite t addr gab s
  | .correctedWriteBack t store addr errs => Sys2Proof.Machine.execCorrectedWriteBack t store addr errs s
  | .uncorrectableRead t reader store addr errs => Sys2Proof.Machine.execUncorrectableRead t reader store addr errs s
  | .arbiterWaitLimit inst r => Sys2Proof.Machine.execArbiterWaitLimit inst r s
  | .arbiterSitOutEnd inst r => Sys2Proof.Machine.execArbiterSitOutEnd inst r s
  | .slotGrant id => Sys2Proof.Machine.execSlotGrant id s
  | .capWaitNotice bank => Sys2Proof.Machine.execCapWaitNotice bank s
  | .capReservationLapse bank => Sys2Proof.Machine.execCapReservationLapse bank s
  | .capRetryTimeout t c => Sys2Proof.Machine.execCapRetryTimeout t c s
  | .l2Access id errs upset => Sys2Proof.Machine.execL2Access id errs upset s
  | .l2PinRelease mask => Sys2Proof.Machine.execL2PinRelease mask s
  | .l2PinReleaseComplete => Sys2Proof.Machine.execL2PinReleaseComplete s
  | .ddrTrain => Sys2Proof.Machine.execDdrTrain s
  | .ddrTrainingComplete failMask ranks density => Sys2Proof.Machine.execDdrTrainingComplete failMask ranks density s
  | .backgroundInitComplete => Sys2Proof.Machine.execBackgroundInitComplete s
  | .caparAlert c => Sys2Proof.Machine.execCaparAlert c s
  | .refreshDue c bank => Sys2Proof.Machine.execRefreshDue c bank s
  | .refreshManagement c bank => Sys2Proof.Machine.execRefreshManagement c bank s
  | .patrolScrubRead c errs => Sys2Proof.Machine.execPatrolScrubRead c errs s
  | .ddrRetireGo entry => Sys2Proof.Machine.execDdrRetireGo entry s
  | .retirementCopyComplete => Sys2Proof.Machine.execRetirementCopyComplete s
  | .receiverDetect p => Sys2Proof.Machine.execReceiverDetect p s
  | .linkTrainingComplete p ok lanes => Sys2Proof.Machine.execLinkTrainingComplete p ok lanes s
  | .alignComplete p => Sys2Proof.Machine.execAlignComplete p s
  | .lnkCfgEnable p enable => Sys2Proof.Machine.execLnkCfgEnable p enable s
  | .dataFlitReceive p flit => Sys2Proof.Machine.execDataFlitReceive p flit s
  | .idleFlitReceive p flit => Sys2Proof.Machine.execIdleFlitReceive p flit s
  | .ackTimeout p => Sys2Proof.Machine.execAckTimeout p s
  | .idleTimeout p => Sys2Proof.Machine.execIdleTimeout p s
  | .credit p flit => Sys2Proof.Machine.execCredit p flit s
  | .initParam p flit => Sys2Proof.Machine.execInitParam p flit s
  | .initDone p flit => Sys2Proof.Machine.execInitDone p flit s
  | .echoReq p flit => Sys2Proof.Machine.execEchoReq p flit s
  | .echoResp p flit => Sys2Proof.Machine.execEchoResp p flit s
  | .laneMap p flit => Sys2Proof.Machine.execLaneMap p flit s
  | .laneMapApply p => Sys2Proof.Machine.execLaneMapApply p s
  | .laneAck p flit => Sys2Proof.Machine.execLaneAck p flit s
  | .retrainReq p flit => Sys2Proof.Machine.execRetrainReq p flit s
  | .controlFlitResend p => Sys2Proof.Machine.execControlFlitResend p s
  | .retrainComplete p => Sys2Proof.Machine.execRetrainComplete p s
  | .retrainTimeout p => Sys2Proof.Machine.execRetrainTimeout p s
  | .portDown p reason => Sys2Proof.Machine.execPortDown p reason s
  | .laneFail p lane lostLock => Sys2Proof.Machine.execLaneFail p lane lostLock s
  | .peerHeldChange p held => Sys2Proof.Machine.execPeerHeldChange p held s
  | .lnkReauth p => Sys2Proof.Machine.execLnkReauth p s
  | .lnkQuarantine p => Sys2Proof.Machine.execLnkQuarantine p s
  | .lnkActivate p => Sys2Proof.Machine.execLnkActivate p s
  | .lnkLaneRecover p => Sys2Proof.Machine.execLnkLaneRecover p s
  | .laneRecovered p lane => Sys2Proof.Machine.execLaneRecovered p lane s
  | .lnkRetrain p => Sys2Proof.Machine.execLnkRetrain p s
  | .portReset p => Sys2Proof.Machine.execPortReset p s
  | .hello p msg => Sys2Proof.Machine.execHello p msg s
  | .chain p msg => Sys2Proof.Machine.execChain p msg s
  | .proof p msg => Sys2Proof.Machine.execProof p msg s
  | .result p msg => Sys2Proof.Machine.execResult p msg s
  | .signatureJobComplete p => Sys2Proof.Machine.execSignatureJobComplete p s
  | .authTimeout p => Sys2Proof.Machine.execAuthTimeout p s
  | .explore p pkt => Sys2Proof.Machine.execExplore p pkt s
  | .read p pkt => Sys2Proof.Machine.execRead p pkt s
  | .write p pkt => Sys2Proof.Machine.execWrite p pkt s
  | .signal p pkt => Sys2Proof.Machine.execSignal p pkt s
  | .set p pkt => Sys2Proof.Machine.execSet p pkt s
  | .resp p pkt => Sys2Proof.Machine.execResp p pkt s
  | .coll p pkt => Sys2Proof.Machine.execColl p pkt s
  | .time p pkt => Sys2Proof.Machine.execTime p pkt s
  | .tpTimeout ctx => Sys2Proof.Machine.execTpTimeout ctx s
  | .fabIdWrite req data => Sys2Proof.Machine.execFabIdWrite req data s
  | .timeSend p => Sys2Proof.Machine.execTimeSend p s
  | .hoopHoldover => Sys2Proof.Machine.execHoopHoldover s
  | .collectiveRunStart p desc => Sys2Proof.Machine.execCollectiveRunStart p desc s
  | .collectiveRunComplete p desc => Sys2Proof.Machine.execCollectiveRunComplete p desc s
  | .collectiveRunFail p desc cause => Sys2Proof.Machine.execCollectiveRunFail p desc cause s
  | .stepBoundary p => Sys2Proof.Machine.execStepBoundary p s
  | .waleCommitStallEnd p => Sys2Proof.Machine.execWaleCommitStallEnd p s
  | .waleCopyComplete p => Sys2Proof.Machine.execWaleCopyComplete p s
  | .waleMirrorComplete p => Sys2Proof.Machine.execWaleMirrorComplete p s
  | .waleFault p status => Sys2Proof.Machine.execWaleFault p status s
  | .containedFaultPost => Sys2Proof.Machine.execContainedFaultPost s
  | .fatalFault cause => Sys2Proof.Machine.execFatalFault cause s
  | .mpWatchdogExpiry => Sys2Proof.Machine.execMpWatchdogExpiry s
  | .timeSliceExpiry p => Sys2Proof.Machine.execTimeSliceExpiry p s
  | .preemptAllStopped p => Sys2Proof.Machine.execPreemptAllStopped p s
  | .preemptSaveComplete p => Sys2Proof.Machine.execPreemptSaveComplete p s
  | .resumeRestoreComplete p => Sys2Proof.Machine.execResumeRestoreComplete p s
  | .throttleFrameBoundary => Sys2Proof.Machine.execThrottleFrameBoundary s
  | .vrHotChange on => Sys2Proof.Machine.execVrHotChange on s
  | .thermalThrottleChange on => Sys2Proof.Machine.execThermalThrottleChange on s
  | .thermtrip => Sys2Proof.Machine.execThermtrip s
  | .supplyDipWarning rail => Sys2Proof.Machine.execSupplyDipWarning rail s
  | .supplyDipRecovery => Sys2Proof.Machine.execSupplyDipRecovery s
  | .dipHoldExpiry => Sys2Proof.Machine.execDipHoldExpiry s
  | .dipRampStep => Sys2Proof.Machine.execDipRampStep s
  | .powerOnReset source => Sys2Proof.Machine.execPowerOnReset source s
  | .resetN => Sys2Proof.Machine.execResetN s
  | .perstN => Sys2Proof.Machine.execPerstN s
  | .refclkStop => Sys2Proof.Machine.execRefclkStop s
  | .resetReleaseStep => Sys2Proof.Machine.execResetReleaseStep s
  | .bootVerify otpRepairs => Sys2Proof.Machine.execBootVerify otpRepairs s
  | .tileGroupReset groups => Sys2Proof.Machine.execTileGroupReset groups s
  | .blockResetRelease => Sys2Proof.Machine.execBlockResetRelease s
  | .otpPulseEnd => Sys2Proof.Machine.execOtpPulseEnd s
  | .powerStateEntry => Sys2Proof.Machine.execPowerStateEntry s
  | .powerStateEntryComplete => Sys2Proof.Machine.execPowerStateEntryComplete s
  | .wakeEvent cause => Sys2Proof.Machine.execWakeEvent cause s
  | .powerStateExitComplete => Sys2Proof.Machine.execPowerStateExitComplete s
  | .cntClear req data => Sys2Proof.Machine.execCntClear req data s
  | .freezeN asserted => Sys2Proof.Machine.execFreezeN asserted s
  | .freezeAtReached => Sys2Proof.Machine.execFreezeAtReached s
  | .heldPropagation p => Sys2Proof.Machine.execHeldPropagation p s
  | .breakReached => Sys2Proof.Machine.execBreakReached s
  | .freezePinRelease => Sys2Proof.Machine.execFreezePinRelease s
  | .challengeExpiry => Sys2Proof.Machine.execChallengeExpiry s
  | .lowHalfReadCapture req addr => Sys2Proof.Machine.execLowHalfReadCapture req addr s
  | .mpReady => Sys2Proof.Machine.execMpReady s
  | .resetSourcesDeasserted => Sys2Proof.Machine.execResetSourcesDeasserted s
  | .pcieDStateChange d3hot => Sys2Proof.Machine.execPcieDStateChange d3hot s
  | .bringUpPhaseComplete => Sys2Proof.Machine.execBringUpPhaseComplete s
  | .waitAtStartPassed1024 t e => Sys2Proof.Machine.execWaitAtStartPassed1024 t e s
  | .capWaitHeld1024 t c => Sys2Proof.Machine.execCapWaitHeld1024 t c s
  | .commitStallOver1s p => Sys2Proof.Machine.execCommitStallOver1s p s
  | .moduleThermalSensorChange c hot => Sys2Proof.Machine.execModuleThermalSensorChange c hot s
  | .jtagInstruction ir => Sys2Proof.Machine.execJtagInstruction ir s

end Sys2Proof.Machine
end

