-- ==== Sys2Proof/Machine/Tick.lean ====
section
/-! DEFINITION. One HCLK with nothing commanded: the hoop and the counters in HCLK and ACLK (R409–R412, R446, R455, R495, R498, R526,
R560, R562, R587). -/
namespace Sys2Proof.Machine

/-- The tick, −1, 0 or 1, that a 1,024-HCLK mark adds: toward the offset, else the rate trim; the anchor counts freely. -/
def State.markTick (s : State) : Int :=
  if s.getF aHoopStatus 31 31 = 0 ∨ s.getF aHoopCtrl 8 8 = 1 then 0
  else if s.fab.slew ≠ 0 then (if 0 < s.fab.slew then 1 else -1)
  else max (-1) (min 1 (Config.hoopTrim s.fab.offsets))

/-- The hoop after one HCLK. -/
def State.hoopTick (s : State) : State :=
  if s.fab.hold ≠ 0 then { s with fab := { s.fab with hold := s.fab.hold - 1 } }
  else if s.fab.phase < 1023 then { s with hoop := (s.hoop + 1) % 2 ^ 64, fab := { s.fab with phase := s.fab.phase + 1 } }
  else
    let d := s.markTick
    let slew := if s.fab.slew = 0 then 0 else s.fab.slew - d
    { s with hoop := (((s.hoop : Int) + 1 + d) % 2 ^ 64).toNat, fab := { s.fab with phase := 0, slew } }

/-- Count an HCLK in a counter where a condition holds. -/
def State.cntIf (s : State) (b : Bool) (a : Nat) : State := if b then s.cnt a else s

/-- Commit stalls are counted for each partition (R446). -/
def State.stallTick (s : State) : State :=
  (List.range 16).foldl (fun s p => s.cntIf (s.getF (aMpWaleStatus p) 31 30 == 1) (aCntWaleStall p)) s

/-- The counters in HCLK, and the REFCLK edges, one in twelve HCLK, in which a full FIFO keeps credits back. -/
def State.counterTick (s : State) : State :=
  let s := s.cntIf (decide (s.getF aClkStatus 6 0 * s.getF aClkStatus 14 8 < 4096)) aCntClkThrottle
  let s := s.cntIf (s.getF aDbgFreezeStatus 10 10 == 1) aCntDbgFrozen
  let n := s.stateInForce
  let s := s.cntIf (n != 0) (aCntPwrState (n - 1))
  let s := s.cntIf (decide (1024 ≤ s.host.fifo.length) && s.hoop % 12 == 0) aCntHifCreditHold
  s.stallTick

/-- Does a channel at the rate in use end an access of 128 B in this HCLK: 16 in 24 HCLK at 12,800 MT/s, 11 at 8,800 MT/s
(R318; the even spread is a DESIGN CHOICE, log entry 83)? -/
def State.accessEnds (s : State) : Bool :=
  let k := if s.getF aDdrStatus 6 6 = 1 then 16 else 11
  (s.hoop + 1) * k / 24 != s.hoop * k / 24

/-- Background initialisation writes one more access of each channel's module (R336). -/
def State.initTick (s : State) : State :=
  if s.getF aDdrStatus 1 0 = 2 ∧ s.getF aDdrStatus 7 7 = 0 ∧ s.accessEnds then
    let s := (List.range 16).foldl (fun s c => s.initTo c (min s.moduleBytes (s.rdN (aDdrInitPtr c) + 128))) s
    if (List.range 16).all (fun c => s.rdN (aDdrInitPtr c) == s.moduleBytes) then s.initEnd else s
  else s

/-- The router core's requests under the retry flag: one whose 512 NCLK are over comes again (R282, R399). -/
def State.retryTick (s : State) : State :=
  let due := (s.mem.retries.filter (fun x => x.2 == some 1)).map (·.1)
  let s := { s with mem := { s.mem with retries := s.mem.retries.map (fun x => (x.1, x.2.map (· - 1))) } }
  due.foldl (fun s id => s.comeAgain id) s

/-- A port's share of an HCLK: a flit slot lasts 1.28 ns at ×8, 192 ÷ 125 HCLK, and as many times that as the width is narrower
(R345). As one ends, waiting packets go, and where none does an idle flit fills it; every slot carries some flit (R349, R350,
R367). -/
def State.slotTick (s : State) (p : Nat) : State :=
  if !s.carries p then s
  else
    let passed := (s.port p).slot + 125
    let len := 192 * 2 ^ s.getF (aLnkStatus p) 7 6
    if passed < len then s.onPort p (fun q => { q with slot := passed })
    else
      let n := (s.port p).wire.length
      let s := (s.onPort p (fun q => { q with slot := passed - len })).pump p
      if (s.port p).wire.length = n then s.sendIdle p else s

/-- The ports' share of an HCLK. -/
def State.linkTick (s : State) : State := (List.range 16).foldl State.slotTick s

/-! ### ACLK: one divider period in each HCLK, both at 1.2 GHz (R495, R497, R560, R562) -/

/-- Does a pattern that keeps l of every 64 keep number k (R495)? -/
def kept (l k : Nat) : Bool := decide (k * l / 64 < (k + 1) * l / 64)

/-- A divider period of the throttled clocks: whether it delivers a pulse under L and D (R495). -/
def State.aclkPeriod (s : State) : Bool × State :=
  let on := kept (s.getF aClkStatus 6 0) s.pwr.period
  (on && kept (s.getF aClkStatus 14 8) s.pwr.pulse,
   { s with pwr := { s.pwr with period := (s.pwr.period + 1) % 64, pulse := if on then (s.pwr.pulse + 1) % 64 else s.pwr.pulse } })

/-- Does ACLK run: the quadrants are released, the device is in P0, and no freeze or trip has stopped it? -/
def State.aclkRuns (s : State) : Bool :=
  decide (7 ≤ s.pwr.released) && s.powerState == 0 && s.getF aDbgFreezeStatus 10 10 == 0 && !s.pwr.thermtrip

/-- Has engine e of a tile a command, waiting or running? -/
def Tile.engineHolds (x : Tile) (e : Nat) : Bool :=
  !(x.queue e).isEmpty ||
  (match e with
   | 4 => x.ve.run.isSome || !x.ve.ending.isEmpty || x.ve.kload.isSome
   | 5 => x.ctxs.any (fun c => c.2.cmd.isSome) || x.seAux.isSome
   | m => !(x.array m).runs.isEmpty)

/-- Has engine e of a tile a command that has started? -/
def Tile.engineStarted (x : Tile) (e : Nat) : Bool :=
  (match x.queue e with | c :: _ => c.started | [] => false) || { x with queues := [] }.engineHolds e

/-- Engines of a tile that the grade has. -/
def State.engines (s : State) : List Nat := (List.range 6).filter (fun e => decide (4 ≤ e ∨ e < s.arraysPerTile))

/-- A divider period of a tile's clock, which is gated while its sequencer is IDLE (R505): a delivered edge counts in
CNT_TILE_ACLK, in CNT_SE_BUSY while a context runs or drains, and under stall cause 7 while the tile waits for a pre-emption;
a skipped one counts under cause 6 of the engines at work (R560, R562). -/
def State.tileTick (s : State) (on : Bool) (t : Nat) (x : Tile) : State :=
  if s.sq t = sqIdle then s
  else if !on then
    s.engines.foldl (fun s e =>
      if x.engineStarted e || (decide (e < 4) && s.getF (aMacStatus t e) 3 3 == 1) then s.stall t e 6 else s) s
  else
    let s := (s.cnt (aCntTileAclk t)).cntIf
      (x.ctxs.any (fun c => c.2.state == .running || c.2.state == .draining)) (aCntSeBusy t)
    let leaving := match s.tilePart t with | some p => (s.part p).preempt.isSome | none => false
    if leaving && (s.sq t == sqStopping || s.sq t == sqStopped) then
      s.engines.foldl (fun s e => if x.engineHolds e then s else s.stall t e 7) s
    else s

/-- The tiles' share of an HCLK. -/
def State.aclkTick (s : State) : State :=
  if s.aclkRuns then
    let (on, s) := s.aclkPeriod
    s.tiles.foldl (fun s x => s.tileTick on x.1 x.2) s
  else s

/-- The memory system's share of an HCLK. -/
def State.memTick (s : State) : State := s.initTick.retryTick

/-- One HCLK, once the always-on domain is released (R505). -/
def State.tick (s : State) : State := if s.pwr.released = 0 then s else s.memTick.fabTick.linkTick.aclkTick.counterTick.hoopTick

end Sys2Proof.Machine
end

