-- ==== Sys2Proof/Safety.lean ====
section
/-! DEFINITION. What claims are stated in: the canonical form of the state's keyed stores, a safe outcome, the answer of a
command, and what a change leaves alone. -/
namespace Sys2Proof.Machine

/-- The byte memories hold their keys strictly rising and no byte equal to what an unlisted address reads as. -/
def Memory.wf (m : List Host.Cell) : Bool := mapWf (fun _ => (0 : Byte)) m

/-- The registers in canonical form: addresses rise, and no entry equals its register's reset value. -/
def State.regsWf (s : State) : Bool := mapWf regDefault s.regs

/-- The canonical form of the stores that commands address directly: registers, DDR, host memory, flash, sync objects,
rims, tiles and partitions. -/
def State.wf (s : State) : Bool :=
  s.regsWf && Memory.wf s.mem.ddr && Memory.wf s.host.mem && Memory.wf s.otp.flash &&
  mapWf (fun _ => (0 : W32)) s.sync.objs && mapWf (fun _ => ({} : Rim)) s.rims && mapWf (fun _ => ({} : Tile)) s.tiles &&
  mapWf (fun _ => ({} : Part)) s.parts

/-- A safe outcome: the block goes on. -/
def Safe (o : Host.Outcome State Fault Refusal) : Prop := ∃ t, o = .next t

/-- Command c, carried out in state s, answers a next state, and `q` holds of that state. -/
def Answers (c : Instr) (s : State) (q : State → Prop) : Prop := ∃ t, exec c s = .next t ∧ q t

/-- The clocks run: the device is not frozen and has not tripped (R572, R601). -/
def State.live (s : State) : Prop := s.getF aDbgFreezeStatus 10 10 = 0 ∧ s.pwr.thermtrip = false

/-- From s to t no register changes but those whose address satisfies `p`. -/
def State.regsBut (s : State) (p : Nat → Prop) (t : State) : Prop := ∀ a, ¬ p a → t.rd a = s.rd a

/-- From s to t no tile but tile u changes. -/
def State.tilesBut (s : State) (u : Nat) (t : State) : Prop := ∀ v, v ≠ u → t.tile v = s.tile v

/-- From s to t no rim but rim k changes. -/
def State.rimsBut (s : State) (k : Nat) (t : State) : Prop := ∀ j, j ≠ k → mapGet {} t.rims j = mapGet {} s.rims j

/-- Does address a lie in the register block of tile u (R21)? -/
def inTile (u a : Nat) : Prop := tileBase u ≤ a ∧ a < tileBase u + 0x8000

/-- Does address a lie in the register block of port p (R371)? -/
def inPort (p a : Nat) : Prop := aLnkCfg p ≤ a ∧ a < aLnkCfg p + 0x400

/-- The newest event of a rim: its code, entry field and address field (R567). -/
def State.lastEvent (s : State) (k : Nat) : Option (Nat × Nat × Nat) :=
  match (mapGet {} s.rims k).entries.getLast? with
  | some e => some (bits e.toNat 55 48, bits e.toNat 79 56, bits e.toNat 127 80)
  | none => none

/-- The sequencer of tile t stands before entry e with nothing left to wait for: it runs or is blocked, the entry is in
the buffer, its waits are released, and its recovery point has been passed (R187, R195). -/
def State.atEntry (s : State) (t e : Nat) : Prop :=
  (s.sq t = sqRun ∨ s.sq t = sqBlocked) ∧ (s.tile t).seq.paramOp = 0 ∧ (s.tile t).seq.ld8 = none ∧
  (s.tile t).entryAt (s.pc t) = some e ∧ (s.registerWaits t e).waitsOk t e = true ∧
  (needsRp (s.pc t) e = true → (s.tile t).seq.rpPassed = true)

/-- Every signal of a list goes to one of the device's own objects, and one with remote = 1 passes R401 with the own ID as its
source (R182, R480). -/
def State.sigsPass (s : State) (l : List Sig) : Prop :=
  ∀ g ∈ l, g.remote = true → g.dev = s.devId ∧ s.syncAccept g.obj s.devId = 0

/-- The operations that the signals of a list send from tile t (R182, R193). -/
def State.opsOf (t : Nat) (l : List Sig) : List SyncOp :=
  l.map (fun g => { src := t, obj := g.obj, set := g.set, val := g.val, reply := none })

/-- Every signal of entry e of tile t stays in the device and is accepted. -/
def State.sigsLocal (s : State) (t e : Nat) : Prop := s.sigsPass (s.entrySigs t e)

/-- The operations that the signals of entry e of tile t send. -/
def State.sigOps (s : State) (t e : Nat) : List SyncOp := State.opsOf t (s.entrySigs t e)

/-- Is the 32-bit word k of an accumulator file outside the rows of a command's compute part (R79)? -/
def accOutside (p k : Nat) : Prop :=
  match accKind (macSfmt p) (macTfmt p) with
  | some kind =>
    let w := if kind = 0 then 64 else 32
    k < w * macAccBase p ∨ w * (macAccBase p + macRows p) ≤ k
  | none => True

/-- Command c, at the head of array m's queue, commits: no compute part holds the array, no pattern word is bad, no start
condition and no check fails, and nothing has a zero count (R79, R163, R213, R215, R218). -/
def State.macReady (s : State) (t m : Nat) (c : Cmd) : Prop :=
  (s.tile t).startedHead m (fun _ => true) = some c ∧ ((s.tile t).array m).computing = false ∧
  (s.tile t).patternBad m c.payload = false ∧ s.waitCause t m c = 0 ∧ macBoundFault c.payload = false ∧
  (s.regionFault t m c.payload).1 = 0 ∧
  macOperandFault (s.commit t m c).1 ((s.commit t m c).2.macOps t c.payload (s.commit t m c).1) = none ∧
  (s.commit t m c).2.zeroSlot t (cmdPatterns m c.payload) = none

/-- The instruction of opcode op and fields i stands next in the command that runs on tile t, in context c: it executes
in this iteration and no write in flight holds it (R108, R110, R111). -/
def State.veReady (s : State) (t op : Nat) (i : VFields) (c : VeCtx) : Prop :=
  (s.tile t).veNext = some c ∧ c.matches op i = true ∧ c.when_ = true ∧ (s.tile t).veHeld c = false ∧
  c.run.originDue = false

/-- The write of vd that an instruction in context c launches when it gives lane i the value g i: active lanes take it,
the others keep what vd held (R105, R111). -/
def State.laneWrite (s : State) (t : Nat) (c : VeCtx) (g : Nat → Nat) : Flight :=
  let f := fmtOf c.word
  let old := rawLanes f ((s.tile t).vreg c c.vd)
  { regs := [(physReg c.f c.win c.vd, BitVec.ofNat 1024 (ofLanes f ((List.range f.lanes).map (fun i =>
      if bit ((s.tile t).activeMask c f.lanes) i then g i else nth old i))))],
    masks := [], rsta := false, owner := c.run.cmd.issue }

/-- What issue leaves of tile t when the instruction in context c has issued in `cycles` and launched the writes `fl`:
the run stands at its next position, the issue is counted, and nothing has landed or been stored (R108, R111). -/
def State.issued (s : State) (t : Nat) (c : VeCtx) (cycles : Nat) (fl : List Flight) (u : State) : Prop :=
  (u.tile t).ve = { (s.tile t).ve with flight := (s.tile t).ve.flight ++ fl, run := some c.run.begun.advance } ∧
  u.rd (aCntVeIssue t) = s.rd (aCntVeIssue t) + BitVec.ofNat 64 cycles ∧
  u.tile t = { s.tile t with ve := (u.tile t).ve } ∧ s.tilesBut t u ∧ u = { s with regs := u.regs, tiles := u.tiles }

/-- Command c stands started at the head of tile t's SE queue with operation `sop`, its start conditions hold and no
PLOAD or QPUSH runs (R213, R227, R231). -/
def State.seStarts (s : State) (t sop : Nat) (c : Cmd) : Prop :=
  (s.tile t).startedHead 5 (fun p => seSop p == sop) = some c ∧ (s.tile t).seAux = none ∧ s.waitCause t 5 c = 0

/-- Command c, a COPY at the head of tile t's SE queue, commits: its context is free, no pattern word is bad and no check
fails (R215, R218, R231). -/
def State.copyCommits (s : State) (t : Nat) (c : Cmd) : Prop :=
  let p := c.payload
  let k := s.commit t 5 c
  s.seStarts t 0 c ∧ ((s.tile t).ctx (seCtxNo p)).cmd = none ∧
  (s.tile t).patternBad 5 p = false ∧
  copyFault p k.1 (k.2.pattern t (sePat0 p)) (k.2.pattern t (sePat1 p)) (copyBase k.1 (seSkind p) 0 (seBase0 p))
    (copyBase k.1 (seDkind p) 1 (seBase1 p)) = none ∧
  k.2.zeroSlot t (cmdPatterns 5 p) = none

/-- It is the turn of context c of tile t, whose next request is (w, row, a, len): whether it is a write, its row, its
address and its length; a far-request entry is free (R263, R264). -/
def State.farTurn (s : State) (t c : Nat) (w : Bool) (row a len : Nat) : Prop :=
  ((s.tile t).ctx c).issuing = true ∧ s.capWaits t c = [] ∧ s.seTurn t c = true ∧ s.farUsed t < 64 ∧
  ((s.tile t).ctx c).nextReq = some (w, row, a, len)

/-- From s to u the requests are those of s but for request id, which `f` changed. -/
def State.reqNow (s : State) (id : Nat) (f : Req → Req) (u : State) : Prop :=
  u.mem.reqs = s.mem.reqs.map (fun r => if r.id = id then f r else r)

/-- The opcode of the packets that a command of the host interface serves (R461). -/
def opcodeOf : Instr → Option Nat
  | .identify => some 0x01 | .getCert _ => some 0x02 | .attest _ => some 0x03 | .loadImageBegin => some 0x04
  | .loadImageData _ => some 0x05 | .loadImageEnd => some 0x06 | .setRing => some 0x10 | .setLatencyTolerance => some 0x11
  | .partitionCreate => some 0x20 | .partitionDestroy => some 0x21 | .partitionQuery => some 0x22 | .slathLoad _ => some 0x30
  | .jobStart _ => some 0x31 | .jobStop => some 0x32 | .jobPreempt => some 0x33 | .jobResume => some 0x34
  | .setTimeSlice => some 0x35 | .waleConfigure _ => some 0x40 | .waleNow => some 0x41 | .restore _ _ => some 0x42
  | .stepReplay _ => some 0x43 | .fabricPlan _ => some 0x50 | .bringUp => some 0x51 | .routeLoad _ => some 0x52
  | .routeUpdate => some 0x53 | .groups _ => some 0x54 | .assumeId => some 0x55 | .counters _ => some 0x60
  | .trace => some 0x61 | .rimDump _ => some 0x62 | .freezeAt => some 0x70 | .unfreeze => some 0x71
  | .partitionReset => some 0x80 | .warmReset => some 0x81 | .debugChallenge => some 0x90 | .debugUnlock _ => some 0x91
  | .memCopy _ => some 0xA0 | _ => none

/-- Packet k, at place i of the FIFO, is the next of opcode op that is served: commands are served, no packet of an unknown
opcode waits, the device is awake, and no stop or pre-emption of k's partition is held back (R457, R459, R460, R518). -/
def State.serving (s : State) (op : Nat) (k : List Byte) (i : Nat) : Prop :=
  s.serves op = true ∧ (∀ x ∈ s.host.fifo, (hostRow (pktOpcode x)).isSome = true) ∧ s.asleep = false ∧
  s.nextPacket op = some (k, i) ∧ ((op = 0x32 ∨ op = 0x33) → s.heldBack op = false)

/-- Packet k, at place i of the FIFO, is the next of opcode op, and it passes every check before its body: the mode serves
it, its length and partition field are right, its rsvd bytes are zero and its limits are kept (R458, R469). -/
def State.accepts (s : State) (op : Nat) (limits : List Limit) (k : List Byte) (i : Nat) : Prop :=
  s.serving op k i ∧ modeStatus (s.serveMode op) op = none ∧ ∃ r, hostRow op = some r ∧ s.packetFault r k limits = none

/-- The limits of a packet's parameters, with their offsets, by its opcode (R458, R462, R475). -/
def State.limitsOf (s : State) (op : Nat) (k : List Byte) : List Limit :=
  match op with
  | 0x02 | 0x03 | 0x50 | 0x54 => bufLimits k 16
  | 0x04 => [(16, decide (1 ≤ pktField k 16 4 ∧ pktField k 16 4 ≤ 2 ^ 25))]
  | 0x05 => bufLimits k 16 ++ [(28, match s.host.load with | some l => decide (pktField k 28 4 < l.len) | none => true)]
  | 0x10 => [(16, decide (pktField k 16 8 % 4096 = 0)), (24, decide (7 ≤ pktField k 24 1 ∧ pktField k 24 1 ≤ 16))]
  | 0x20 => s.createLimits k
  | 0x30 => (16, decide (pktField k 16 8 % 1024 = 0 ∧ pktField k 16 8 < 2 ^ 48)) :: rangeLimits k 24 (s.partTileCount (pktPart k)) 1
  | 0x31 => [(16, decide (pktField k 16 8 % 64 = 0 ∧ pktField k 16 8 < 2 ^ 48))]
  | 0x40 => s.waleLimits k
  | 0x42 => (24, decide (pktField k 24 1 ≤ 1)) :: bufLimits k 32
  | 0x43 => [(24, decide (pktField k 16 8 < pktField k 24 8)), (32, decide (pktField k 32 1 ≤ 3))]
  | 0x52 => bufLimits k 16 ++ [(24, decide (bufLen k 16 = 2048))]
  | 0x53 => routeLimits k
  | 0x60 => bufLimits k 16 ++ [(28, decide (pktField k 28 1 ≤ 2))] ++
      rangeLimits k 32 (if pktPart k = 255 then 1024 else s.partTileCount (pktPart k)) 0
  | 0x61 => [(16, decide (pktField k 16 4 < 4))]
  | 0x62 => bufLimits k 16 ++ [(28, selectorOk (pktField k 28 4))]
  | 0x70 => [(16, decide (s.hoop < pktField k 16 8))]
  | 0x91 => bufLimits k 16 ++ [(24, decide (250 ≤ bufLen k 16))]
  | 0xA0 => [(24, decide (pktField k 24 8 + pktField k 32 4 ≤ 2 ^ 48)),
      (32, decide (64 ≤ pktField k 32 4 ∧ pktField k 32 4 ≤ 2 ^ 24 ∧ pktField k 32 4 % 64 = 0)), (36, decide (pktField k 36 1 ≤ 1))]
  | _ => []

/-- Nothing turns a write of requester `req` at address a away: the function answers and its FIFO has room, the address is
aligned and holds a register's range, no freeze, no power state and no rule on writers is in its way, and it is none that the
MP does not make (R37, R452, R578). -/
def State.admits (s : State) (req : Requester) (a : Nat) (wide : Bool) : Prop :=
  (req = .host → s.hostUp = true ∧ s.host.fifo.length < 1024) ∧ misaligned a wide = false ∧
  ¬(s.frozen = true ∧ frozenRange a = true) ∧ reservedRange a = false ∧ ¬(0x10000 ≤ a ∧ a < 0x20000) ∧
  s.regOff a = false ∧ s.dropWrite req a = false ∧ s.mpHolds req a = false

/-- Requester k holds no half and no low register (R13, R133). -/
def State.holdsNone (s : State) (k : Nat) : Prop :=
  ∀ h ∈ s.host.lows ++ s.host.highs ++ s.host.rngLows ++ s.host.rngCaps, h.req ≠ k

end Sys2Proof.Machine
end

