-- ==== Sys2Proof/Certificates/Slice0/Obligations.lean ====
section
/-! DEFINITION. The statements for the provers: each is a proposition, and each formalises rules of the specification or
names the log entry of the choice it rests on. -/
open Sys2Proof Sys2Proof.Machine

/-! ### The queue, the idle block, and reset -/

/-- A step takes the command at the front of the queue and carries it out with the queue's rest (the model's queue, log
entry 1). -/
def Obligations.StepCarriesOutFrontCommand : Prop :=
  ∀ (s : State) (c : Instr) (rest : List Instr), s.pending = c :: rest →
    Sys2Proof.Machine.step s = Sys2Proof.Machine.exec c { s with pending := rest }

/-- What a step on an empty queue does: one HCLK (DESIGN CHOICE, log entry 2). -/
def Obligations.IdleStepIsOneHclk : Prop :=
  (∀ s : State, s.pending = [] → s.pwr.released = 0 → Sys2Proof.Machine.step s = .next s) ∧
  (∀ s : State, s.pending = [] → ∃ t, Sys2Proof.Machine.step s = .next t) ∧
  (∀ s : State, s.pending = [] → s.pwr.released ≠ 0 → s.fab.outbox = [] → (∀ x ∈ s.mem.retries, x.2 ≠ some 1) →
    ∃ t, Sys2Proof.Machine.step s = .next t ∧
    (s.fab.hold = 0 → s.fab.phase < 1023 → t.hoop = (s.hoop + 1) % 2 ^ 64 ∧ t.fab.phase = s.fab.phase + 1) ∧
    (s.fab.hold ≠ 0 → t.hoop = s.hoop ∧ t.fab.hold = s.fab.hold - 1) ∧
    t.rd aCntClkThrottle = s.rd aCntClkThrottle +
      (if s.getF aClkStatus 6 0 * s.getF aClkStatus 14 8 < 4096 then 1 else 0) ∧
    t.rd aCntDbgFrozen = s.rd aCntDbgFrozen + (if s.getF aDbgFreezeStatus 10 10 = 1 then 1 else 0) ∧
    (∀ p < 16, t.rd (aCntWaleStall p) = s.rd (aCntWaleStall p) + (if s.getF (aMpWaleStatus p) 31 30 = 1 then 1 else 0)) ∧
    t.tiles = s.tiles ∧ t.sync = s.sync ∧ t.parts = s.parts ∧ t.pending = [])

/-- The values that the register tables and the release order give for reset. -/
def Obligations.ResetLeavesIdleDevice : Prop :=
  (∀ t < 1024, State.reset.sq t = sqIdle ∧ ∀ u ≤ 7, ∀ a ∈ unitCounters t u, State.reset.rd a = 0) ∧
  (∀ p < 16, State.reset.lk p = lkDisabled ∧ State.reset.partExists p = false ∧ State.reset.job p = 0) ∧
  State.reset.getF aDdrStatus 1 0 = 0 ∧ State.reset.powerState = 0 ∧ State.reset.rdN aPwrTol = 0 ∧
  State.reset.getF aClkStatus 6 0 = 64 ∧ State.reset.getF aClkStatus 14 8 = 64 ∧ State.reset.hoop = 0 ∧
  (∀ i, State.reset.obj i = 0) ∧ State.reset.host.fifo = [] ∧ State.reset.host.replyQ = [] ∧
  State.reset.host.eventQ = [] ∧ State.reset.pending = [] ∧ State.reset.otp.arb ≤ 64

/-! ### Sequencers -/

/-- R205 and R202. -/
def Obligations.SqControlMovesBetweenStates : Prop :=
  let frame (s : State) (t : TileId) (u : State) : Prop :=
    s.tilesBut t.val u ∧ s.regsBut (fun a => a = aSqStatus t.val ∨ a = aSqPc t.val ∨ ∃ n < 4, a = aSqLoopPos t.val n) u ∧
    u = { s with regs := u.regs, tiles := u.tiles, rims := u.rims, sync := u.sync } ∧ u.sync.objs = s.sync.objs ∧
    u.sync.ops = s.sync.ops
  let ignored (s u : State) (t : TileId) (v : Nat) : Prop :=
    u = { s with rims := u.rims } ∧ s.rimsBut rimMp u ∧ u.lastEvent rimMp = some (0xD6, v, aSqCtrl t.val)
  (∀ (s : State) (t : TileId), s.live → s.sq t.val = sqLoaded → Answers (.sqStart t) s (fun u =>
    u.sq t.val = sqRamp ∧ frame s t u)) ∧
  (∀ (s : State) (t : TileId), s.live → s.sq t.val ≠ sqLoaded → Answers (.sqStart t) s (fun u => ignored s u t 1)) ∧
  (∀ (s : State) (t : TileId), s.live → (s.sq t.val = sqRun ∨ s.sq t.val = sqBlocked) → s.atStopPoint t.val = true →
    Answers (.sqStop t) s (fun u =>
      u.sq t.val = sqStopping ∧ (u.tile t.val).seq.stopReq = some 1 ∧ (∀ e < 6, (u.tile t.val).queue e = []) ∧
      u.sync.objs = s.sync.objs ∧ u.sync.ops = s.sync.ops ∧ s.tilesBut t.val u)) ∧
  (∀ (s : State) (t : TileId), s.live →
    (s.sq t.val = sqRewind ∨ (s.sq t.val = sqRun ∨ s.sq t.val = sqBlocked) ∧ s.atStopPoint t.val = false) →
    Answers (.sqStop t) s (fun u =>
      u.sq t.val = s.sq t.val ∧ (u.tile t.val).seq.stopReq = some 1 ∧ u.regs = s.regs ∧ frame s t u)) ∧
  (∀ (s : State) (t : TileId), s.live → s.sq t.val ≠ sqRun → s.sq t.val ≠ sqBlocked → s.sq t.val ≠ sqRewind →
    Answers (.sqStop t) s (fun u => ignored s u t 2)) ∧
  (∀ (s : State) (t : TileId), s.live → s.sq t.val = sqStopped → Answers (.sqResume t) s (fun u =>
    u.sq t.val = sqRamp ∧ frame s t u)) ∧
  (∀ (s : State) (t : TileId), s.live → s.sq t.val ≠ sqStopped → Answers (.sqResume t) s (fun u => ignored s u t 4)) ∧
  (∀ (s : State) (t : TileId), s.live → (s.sq t.val = sqStopped ∨ s.sq t.val = sqFaulted) →
    (s.tile t.val).seq.snapshot.isSome = true → Answers (.sqRewind t) s (fun u =>
      u.sq t.val = sqRewind ∧ (u.tile t.val).seq.rewind = some (s.pc t.val) ∧ frame s t u)) ∧
  (∀ (s : State) (t : TileId), s.live → s.sq t.val ≠ sqStopped → s.sq t.val ≠ sqFaulted →
    Answers (.sqRewind t) s (fun u => ignored s u t 8)) ∧
  (∀ (s : State) (t : TileId), s.live → (s.sq t.val = sqStopped ∨ s.sq t.val = sqDone) → Answers (.sqAbort t) s (fun u =>
    u.sq t.val = sqLoaded ∧ u.pc t.val = 0 ∧ (u.tile t.val).seq.withdrawn = [] ∧ frame s t u)) ∧
  (∀ (s : State) (t : TileId), s.live → s.sq t.val ≠ sqStopped → s.sq t.val ≠ sqDone → s.sq t.val ≠ sqFaulted →
    Answers (.sqAbort t) s (fun u => ignored s u t 16)) ∧
  (∀ (s : State) (t : TileId), s.live → s.sq t.val = sqFaulted → (s.tile t.val).drained = false →
    Answers (.sqAbort t) s (fun u =>
      u.sq t.val = sqFaulted ∧ (u.tile t.val).seq.abortDue = true ∧ s.tilesBut t.val u ∧ u = { s with tiles := u.tiles })) ∧
  (∀ (s : State) (t : TileId), s.live → s.sq t.val = sqFaulted → (s.tile t.val).seq.abortDue = true →
    (s.tile t.val).drained = true → Answers (.sqAbortTakesEffect t) s (fun u =>
      u.sq t.val = sqLoaded ∧ u.pc t.val = 0 ∧ u.getF (aSqStatus t.val) 9 7 = 0 ∧ u.getF (aSqStatus t.val) 11 11 = 0 ∧
      (u.tile t.val).seq.withdrawn = [] ∧ (u.tile t.val).seq.abortDue = false ∧ u.sync.objs = s.sync.objs ∧
      u.sync.ops = s.sync.ops ∧ s.tilesBut t.val u ∧ u.mem = s.mem)) ∧
  (∀ (s : State) (t : TileId), s.live → (s.tile t.val).drained = false → Answers (.sqAbortTakesEffect t) s (fun u => u = s))

/-- R184, R187, R193 and R194. -/
def Obligations.SyncAndMarkExecute : Prop :=
  let done (s : State) (t : TileId) (e : Nat) (u : State) : Prop :=
    u.sq t.val = sqRun ∧ u.pc t.val = (s.pc t.val + 1) % 2 ^ 20 ∧ u.rd (aCntSqEntries t.val) = s.rd (aCntSqEntries t.val) + 1 ∧
    u.sync.ops = s.sync.ops ++ s.sigOps t.val e ∧ u.sync.objs = s.sync.objs ∧ (∀ n < 32, u.sreg t.val n = s.sreg t.val n) ∧
    u.mem = s.mem ∧ s.tilesBut t.val u
  (∀ (s : State) (t : TileId) (e : Nat), s.live → s.atEntry t.val e → entKind e = kSync → s.sigsLocal t.val e →
    (s.tile t.val).seq.stopReq = none → s.getF (aSqStatus t.val) 11 11 = 0 →
    (s.tile t.val).live.all (fun c => !bit (bits (entPayload e) 5 0) c.target) = true →
    Answers (.sync t) s (done s t e)) ∧
  (∀ (s : State) (t : TileId) (e : Nat), s.live → s.atEntry t.val e → entKind e = kSync →
    (s.tile t.val).live.any (fun c => bit (bits (entPayload e) 5 0) c.target) = true →
    Answers (.sync t) s (fun u => u.sq t.val = sqBlocked ∧ u.getF (aSqStatus t.val) 6 4 = 5 ∧ u.pc t.val = s.pc t.val)) ∧
  (∀ (s : State) (t : TileId) (e : Nat), s.live → s.atEntry t.val e → entKind e = kMark → s.sigsLocal t.val e →
    (s.tile t.val).seq.stopReq = none → s.getF (aSqStatus t.val) 11 11 = 0 → Answers (.mark t) s (done s t e))

/-- R188 and R189. -/
def Obligations.LoopAndNextCountIterations : Prop :=
  let count (s : State) (t : TileId) (e : Nat) : Nat :=
    if bits (entPayload e) 25 21 ≠ 0 then s.sreg t.val (bits (entPayload e) 25 21) else bits (entPayload e) 20 0
  (∀ (s : State) (t : TileId) (e : Nat), s.live → s.atEntry t.val e → entKind e = kLoop →
    (s.tile t.val).seq.stopReq = none → count s t e ≠ 0 → count s t e ≤ 2 ^ 20 → s.getF (aSqStatus t.val) 9 7 < 4 →
    Answers (.loop t) s (fun u =>
      let d := s.getF (aSqStatus t.val) 9 7
      u.getF (aSqStatus t.val) 9 7 = d + 1 ∧ u.getF (aSqLoopPos t.val d) 63 63 = 1 ∧
      u.getF (aSqLoopPos t.val d) 19 0 = s.pc t.val ∧ u.rdN (aSqLoopCnt t.val d) = count s t e * 2 ^ 32 ∧
      u.sreg t.val (bits (entPayload e) 30 26) = 0 ∧ u.pc t.val = (s.pc t.val + 1) % 2 ^ 20 ∧ u.sq t.val = sqRun ∧
      (∀ n < 32, n ≠ bits (entPayload e) 30 26 → u.sreg t.val n = s.sreg t.val n) ∧ s.tilesBut t.val u ∧ u.mem = s.mem ∧
      u.sync.objs = s.sync.objs ∧ u.sync.ops = s.sync.ops)) ∧
  (∀ (s : State) (t : TileId) (e : Nat), s.live → s.atEntry t.val e → entKind e = kLoop →
    (s.tile t.val).seq.stopReq = none → count s t e = 0 → Answers (.loop t) s (fun u =>
      u.pc t.val = (bits (entPayload e) 51 32 + 1) % 2 ^ 20 ∧ u.getF (aSqStatus t.val) 9 7 = s.getF (aSqStatus t.val) 9 7 ∧
      u.sq t.val = sqRun ∧ ∀ n < 32, u.sreg t.val n = s.sreg t.val n)) ∧
  (∀ (s : State) (t : TileId) (e : Nat), s.live → s.atEntry t.val e → entKind e = kLoop → 2 ^ 20 < count s t e → Answers (.loop t) s (fun u =>
      u.sq t.val = sqFaulted ∧ u.getF (aSqFault t.val) 7 0 = 0x01 ∧ u.getF (aSqFault t.val) 27 8 = s.pc t.val)) ∧
  (∀ (s : State) (t : TileId) (e d : Nat), s.live → s.atEntry t.val e → entKind e = kNext →
    (s.tile t.val).seq.stopReq = none → s.getF (aSqStatus t.val) 9 7 = d + 1 → d < 4 →
    2 ≤ s.getF (aSqLoopCnt t.val d) 52 32 → s.getF (aSqLoopCnt t.val d) 52 32 ≤ 2 ^ 20 →
    s.getF (aSqLoopCnt t.val d) 20 0 < 2 ^ 20 → Answers (.next t) s (fun u =>
      u.getF (aSqLoopCnt t.val d) 52 32 = s.getF (aSqLoopCnt t.val d) 52 32 - 1 ∧
      u.getF (aSqLoopCnt t.val d) 20 0 = s.getF (aSqLoopCnt t.val d) 20 0 + 1 ∧
      u.pc t.val = (s.getF (aSqLoopPos t.val d) 19 0 + 1) % 2 ^ 20 ∧ u.sq t.val = sqRun ∧
      (s.getF (aSqLoopPos t.val d) 62 58 ≠ 0 →
        u.sreg t.val (s.getF (aSqLoopPos t.val d) 62 58) = s.getF (aSqLoopCnt t.val d) 20 0 + 1))) ∧
  (∀ (s : State) (t : TileId) (e d : Nat), s.live → s.atEntry t.val e → entKind e = kNext →
    (s.tile t.val).seq.stopReq = none → s.getF (aSqStatus t.val) 9 7 = d + 1 → d < 4 →
    s.getF (aSqLoopCnt t.val d) 52 32 = 1 → Answers (.next t) s (fun u =>
      u.getF (aSqStatus t.val) 9 7 = d ∧ u.getF (aSqLoopPos t.val d) 63 63 = 0 ∧
      u.pc t.val = (s.pc t.val + 1) % 2 ^ 20 ∧ u.sq t.val = sqRun ∧ ∀ n < 32, u.sreg t.val n = s.sreg t.val n))

/-- R185 and R187. -/
def Obligations.ParamComputesScalars : Prop :=
  let op (e j : Nat) : Nat := paramWord (entPayload e) j
  let run1 (t : TileId) (e : Nat) (s : State) (j : Nat) : State :=
    match scalarOp (bits (op e j) 63 58) (s.sreg t.val (bits (op e j) 52 48)) (s.sreg t.val (bits (op e j) 47 43))
      (bits (op e j) 42 0) (signedOf 43 (bits (op e j) 42 0)) with
    | some v => s.setSreg t.val (bits (op e j) 57 53) v
    | none => s
  (∀ (s : State) (t : TileId) (e : Nat), s.live → s.atEntry t.val e → entKind e = kParam →
    (s.tile t.val).seq.stopReq = none → (∀ j < 5, bits (op e j) 63 58 ≠ 0x10) → Answers (.param t) s (fun u =>
      u.pc t.val = (s.pc t.val + 1) % 2 ^ 20 ∧ u.sq t.val = sqRun ∧
      (∀ n < 32, u.sreg t.val n = ([0, 1, 2, 3, 4].foldl (run1 t e) s).sreg t.val n) ∧
      s.tilesBut t.val u ∧ u.mem = s.mem ∧ u.sync.objs = s.sync.objs ∧ u.sync.ops = s.sync.ops)) ∧
  (∀ (s : State) (t : TileId) (e : Nat), s.live → s.atEntry t.val e → entKind e = kParam → bits (op e 0) 63 58 = 0x10 →
    Answers (.param t) s (fun u =>
      u.sq t.val = sqBlocked ∧ u.getF (aSqStatus t.val) 6 4 = 6 ∧ u.pc t.val = s.pc t.val ∧
      (u.tile t.val).seq.ld8 = some (bits (op e 0) 57 53,
        unsignedOf 21 (s.sreg t.val (bits (op e 0) 52 48) + signedOf 43 (bits (op e 0) 42 0))) ∧
      ∀ n < 32, u.sreg t.val n = s.sreg t.val n)) ∧
  (∀ (s : State) (t : TileId) (e rd a : Nat), s.live → (s.tile t.val).seq.ld8 = some (rd, a) →
    (s.tile t.val).entryAt (s.pc t.val) = some e → s.sq t.val = sqBlocked → (s.tile t.val).seq.paramOp = 5 →
    (s.tile t.val).seq.stopReq = none → 0 < rd → rd < 32 →
    (s.spadRead t.val (spadRange (a / 8 * 8) 8)).1.uncorr = none → (s.spadRead t.val (spadRange (a / 8 * 8) 8)).1.parity = none →
    Answers (.ld8DataReturn t) s (fun u =>
      u.sreg t.val rd = leVal (s.spadRead t.val (spadRange (a / 8 * 8) 8)).1.data % 2 ^ 64 ∧
      u.pc t.val = (s.pc t.val + 1) % 2 ^ 20 ∧ u.sq t.val = sqRun ∧ (u.tile t.val).seq.ld8 = none ∧
      ∀ n < 32, n ≠ rd → u.sreg t.val n = s.sreg t.val n))

/-- R183, R187 and R211. -/
def Obligations.EngineIssuesAndEndFinishes : Prop :=
  (∀ (s : State) (t : TileId) (e : Nat), s.live → s.atEntry t.val e → entKind e = kEngine →
    (s.tile t.val).seq.stopReq = none → ((s.tile t.val).queue (entTarget e)).length < 16 → entTarget e < 6 →
    Answers (.engine t) s (fun u =>
      (∃ c : Cmd, (u.tile t.val).queue (entTarget e) = (s.tile t.val).queue (entTarget e) ++ [c] ∧
        c.entry = s.pc t.val ∧ c.target = entTarget e ∧ c.payload = s.baseSums t.val (entTarget e) e ∧ c.started = false ∧
        c.sigs = s.entrySigs t.val e ∧ c.issue = (s.tile t.val).seq.issueCount) ∧
      (∀ g, g ≠ entTarget e → (u.tile t.val).queue g = (s.tile t.val).queue g) ∧
      u.pc t.val = (s.pc t.val + 1) % 2 ^ 20 ∧ u.sq t.val = sqRun ∧ s.tilesBut t.val u ∧ u.mem = s.mem ∧
      u.sync.objs = s.sync.objs ∧ u.sync.ops = s.sync.ops ∧ ∀ n < 32, u.sreg t.val n = s.sreg t.val n)) ∧
  (∀ (s : State) (t : TileId) (e : Nat), s.live → s.atEntry t.val e → entKind e = kEngine →
    16 ≤ ((s.tile t.val).queue (entTarget e)).length → Answers (.engine t) s (fun u =>
      u.sq t.val = sqBlocked ∧ u.getF (aSqStatus t.val) 6 4 = 2 ∧ u.pc t.val = s.pc t.val ∧
      u.rd (aCntSqQfull t.val) = s.rd (aCntSqQfull t.val) + 1)) ∧
  (∀ (s : State) (t : TileId) (e : Nat), s.live → s.atEntry t.val e → entKind e = kEnd → (s.tile t.val).drained = true →
    (s.tile t.val).seq.parityDone = false → (s.tile t.val).seq.parityDue = none → s.sigsLocal t.val e → s.getF (aSqStatus t.val) 11 11 = 0 → Answers (.end_ t) s (fun u =>
      u.sq t.val = sqDone ∧ (∀ p, s.tilePart t.val = some p → s.job p = 2 →
        (∀ q ∈ s.partTiles p, q ≠ t.val → s.sq q = sqIdle ∨ s.sq q = sqDone) → u.job p = 5) ∧ u.sync.ops = s.sync.ops ++ s.sigOps t.val e ∧ u.pc t.val = s.pc t.val ∧
      (u.lastEvent (rimTile t.val 0)).map (·.1) = some 0x71 ∧ s.tilesBut t.val u ∧ u.mem = s.mem)) ∧
  (∀ (s : State) (t : TileId) (e : Nat), s.live → s.atEntry t.val e → entKind e = kEnd → (s.tile t.val).drained = false →
    Answers (.end_ t) s (fun u =>
      u.sq t.val = sqBlocked ∧ u.getF (aSqStatus t.val) 6 4 = 4 ∧ u.rd (aCntSqDrain t.val) = s.rd (aCntSqDrain t.val) + 1))

/-- R149, R150, R158 and R184. -/
def Obligations.WindowsOpenAndClose : Prop :=
  let ready (s : State) (t : TileId) (e op : Nat) : Prop :=
    s.live ∧ s.atEntry t.val e ∧ isWindow op e = true ∧ s.sigsLocal t.val e ∧ (s.tile t.val).seq.stopReq = none
  let close (e : Nat) : Nat := bits (entPayload e) 255 192
  let value (s : State) (t : TileId) (e : Nat) : Nat := (bits (close e) 63 32 + s.sreg t.val (entBreg e 1)) % 2 ^ 32
  let gone (s : State) (t : TileId) (e : Nat) (u : State) : Prop :=
    let n := bits (entPayload e) 4 1
    u.pc t.val = (s.pc t.val + 1) % 2 ^ 20 ∧ u.sq t.val = sqRun ∧ s.tilesBut t.val u ∧ u.mem = s.mem ∧
    u.sync.objs = s.sync.objs ∧ (∀ k < 32, u.sreg t.val k = s.sreg t.val k) ∧
    s.regsBut (fun a => a = aSpadWinRange t.val n ∨ a = aSpadWinWriters t.val n ∨ a = aSpadWinClose t.val n ∨
      a = aSpadWinStatus t.val n ∨ a = aSqStatus t.val ∨ a = aSqPc t.val ∨ a = aCntSqEntries t.val) u
  let written (s : State) (t : TileId) (e : Nat) (u : State) : Prop :=
    let n := bits (entPayload e) 4 1
    u.rdN (aSpadWinWriters t.val n) = bits (entPayload e) 191 128 ∧
    u.rdN (aSpadWinRange t.val n) = winImage (bits (entPayload e) 127 64) (s.sreg t.val (entBreg e 0)) % 2 ^ 64
  (∀ (s : State) (t : TileId) (e : Nat), ready s t e 0 → bit (close e) 31 = false → Answers (.windowOpen t) s (fun u =>
      let n := bits (entPayload e) 4 1
      u.getF (aSpadWinStatus t.val n) 0 0 = 1 ∧ u.lastEvent (rimTile t.val 0) = some (0x61, s.pc t.val, n) ∧
      written s t e u ∧ gone s t e u)) ∧
  (∀ (s : State) (t : TileId) (e : Nat), ready s t e 0 → bit (close e) 31 = true →
    waitHolds (s.obj (s.absObj t.val (bits (close e) 13 0))) (value s t e) = false → s.absObj t.val (bits (close e) 13 0) < 2 ^ 14 →
    Answers (.windowOpen t) s (fun u =>
      let n := bits (entPayload e) 4 1
      u.getF (aSpadWinStatus t.val n) 0 0 = 1 ∧ u.lastEvent (rimTile t.val 0) = some (0x61, s.pc t.val, n) ∧
      (∃ w ∈ u.sync.waits, w.tile = t.val ∧ w.who = .window n ∧ w.obj = s.absObj t.val (bits (close e) 13 0) ∧
        w.val = value s t e ∧ w.released = false) ∧ written s t e u ∧ gone s t e u)) ∧
  (∀ (s : State) (t : TileId) (e : Nat), ready s t e 0 → bit (close e) 31 = true →
    waitHolds (s.obj (s.absObj t.val (bits (close e) 13 0))) (value s t e) = true → s.absObj t.val (bits (close e) 13 0) < 2 ^ 14 →
    Answers (.windowOpen t) s (fun u =>
      let n := bits (entPayload e) 4 1
      u.getF (aSpadWinStatus t.val n) 0 0 = 0 ∧ u.getF (aSpadWinStatus t.val n) 1 1 = 1 ∧
      u.lastEvent (rimTile t.val 0) = some (0x63, s.absObj t.val (bits (close e) 13 0), n) ∧ written s t e u ∧ gone s t e u)) ∧
  (∀ (s : State) (t : TileId) (e : Nat), ready s t e 1 → Answers (.windowClose t) s (fun u =>
      let n := bits (entPayload e) 4 1
      u.getF (aSpadWinStatus t.val n) 0 0 = 0 ∧ u.getF (aSpadWinStatus t.val n) 1 1 = 0 ∧
      u.lastEvent (rimTile t.val 0) = some (0x62, s.pc t.val, n) ∧ gone s t e u)) ∧
  (∀ (s : State) (t : TileId) (n : Fin 16) (w : WaitRec), s.live → s.waitRec t.val (.window n.val) = some w →
    w.delivered = true → Answers (.windowCloseByCondition t n) s (fun u =>
      u.getF (aSpadWinStatus t.val n.val) 0 0 = 0 ∧ u.getF (aSpadWinStatus t.val n.val) 1 1 = 1 ∧
      (u.lastEvent (rimTile t.val 0)).map (·.1) = some 0x63 ∧ u.tiles = s.tiles ∧
      s.regsBut (· = aSpadWinStatus t.val n.val) u ∧ u.sync.objs = s.sync.objs ∧
      u = { s with regs := u.regs, rims := u.rims, sync := u.sync }))

/-- R148, R195, R199 and R200. -/
def Obligations.RewindReturnsToRecoveryPoint : Prop :=
  (∀ (s : State) (t : TileId) (e : Nat), s.live → (s.tile t.val).entryAt (s.pc t.val) = some e →
    (s.sq t.val = sqRun ∨ s.sq t.val = sqBlocked) → needsRp (s.pc t.val) e = true → (s.tile t.val).seq.rpPassed = false →
    (s.tile t.val).seq.paramOp = 0 → (s.tile t.val).drained = true → (s.tile t.val).seq.parityDone = false →
    (s.tile t.val).seq.parityDue = none → Answers (.recoveryPointPass t) s (fun u =>
      u.getF (aSqRp t.val) 19 0 = s.pc t.val ∧ u.getF (aSqStatus t.val) 11 11 = 0 ∧
      (u.tile t.val).seq.snapshot = some (s.snapshotOf t.val) ∧ (u.tile t.val).seq.fired = [] ∧
      (u.tile t.val).seq.rpPassed = true ∧ (u.lastEvent (rimTile t.val 0)).map (·.1) = some 0x72 ∧
      u.sq t.val = s.sq t.val ∧ u.pc t.val = s.pc t.val ∧ s.tilesBut t.val u ∧
      s.regsBut (fun a => a = aSqRp t.val ∨ a = aSqStatus t.val) u ∧
      u = { s with regs := u.regs, tiles := u.tiles, rims := u.rims })) ∧
  (∀ (s : State) (t : TileId) (x : Nat), s.live → (s.tile t.val).seq.parityDue = some x →
    (s.sq t.val = sqRun ∨ s.sq t.val = sqBlocked ∨ s.sq t.val = sqStopping) → Answers (.parityEventPost t) s (fun u =>
      u.sq t.val = sqRewind ∧ (u.tile t.val).seq.rewind = some x ∧ (u.tile t.val).seq.parityDue = none ∧
      s.regsBut (· = aSqStatus t.val) u ∧ s.tilesBut t.val u ∧ u = { s with regs := u.regs, tiles := u.tiles })) ∧
  (∀ (s : State) (t : TileId) (n : Snapshot), s.live → s.sq t.val = sqRewind → (s.tile t.val).drained = true →
    ((s.tile t.val).seq.mpRewind = true ∨ (s.tile t.val).seq.rewound = false) → (s.tile t.val).seq.issueCount ≤ 4096 →
    (s.tile t.val).seq.snapshot = some n → (s.tile t.val).seq.stopReq = none → n.entry < 2 ^ 20 → Answers (.rewindRestore t) s (fun u =>
      u.sq t.val = sqRun ∧ u.pc t.val = n.entry ∧ u.getF (aSqStatus t.val) 11 11 = 1 ∧
      (∀ k < 32, u.rd (aSqSreg t.val k) = n.sregs.getD k 0) ∧ u.rd (aCntSqRewind t.val) = s.rd (aCntSqRewind t.val) + 1 ∧
      (u.lastEvent (rimTile t.val 0)).map (·.1) = some 0x73 ∧ (u.tile t.val).seq.fired = (s.tile t.val).seq.fired ∧
      (u.tile t.val).spad = (s.tile t.val).spad ∧ s.tilesBut t.val u ∧ u.mem = s.mem ∧ u.sync.objs = s.sync.objs)) ∧
  (∀ (s : State) (t : TileId) (n : Snapshot) (x c : Nat), s.live → s.sq t.val = sqRewind → (s.tile t.val).drained = true →
    ((s.tile t.val).seq.mpRewind = true ∨ (s.tile t.val).seq.rewound = false) → (s.tile t.val).seq.issueCount ≤ 4096 →
    (s.tile t.val).seq.snapshot = some n → (s.tile t.val).seq.stopReq = some c → (s.tile t.val).seq.rewind = some x →
    n.entry < 2 ^ 20 → Answers (.rewindRestore t) s (fun u =>
      u.sq t.val = sqStopped ∧ u.pc t.val = n.entry ∧ (∀ k < 32, u.rd (aSqSreg t.val k) = n.sregs.getD k 0) ∧
      (u.tile t.val).seq.replayDue = some x ∧ u.rd (aCntSqRewind t.val) = s.rd (aCntSqRewind t.val) ∧
      (u.lastEvent (rimTile t.val 0)).map (·.1) = some 0x74 ∧ (u.tile t.val).seq.fired = (s.tile t.val).seq.fired ∧
      (u.tile t.val).spad = (s.tile t.val).spad ∧ s.tilesBut t.val u ∧ u.mem = s.mem ∧ u.sync.objs = s.sync.objs)) ∧
  (∀ (s : State) (t : TileId), s.live → s.sq t.val = sqRewind → (s.tile t.val).drained = true →
    (s.tile t.val).seq.mpRewind = false → (s.tile t.val).seq.rewound = true → Answers (.rewindRestore t) s (fun u => u.sq t.val = sqFaulted ∧ u.getF (aSqFault t.val) 7 0 = 0x02)) ∧
  (∀ (s : State) (t : TileId), s.live → s.sq t.val = sqRewind → (s.tile t.val).drained = true →
    (s.tile t.val).seq.rewound = false → 4096 < (s.tile t.val).seq.issueCount → Answers (.rewindRestore t) s (fun u => u.sq t.val = sqFaulted ∧ u.getF (aSqFault t.val) 7 0 = 0x03))

/-- R190 and R191. -/
def Obligations.SyncOperationsApplyAndRelease : Prop :=
  (∀ (s : State) (i : Nat) (o : SyncOp), s.live → s.sync.ops[i]? = some o → o.reply = none →
    (s.sync.ops.take i).all (fun p => decide (p.src ≠ o.src)) = true → (s.powerState ≠ 1 ∨ s.objBound o.obj = false) →
    Answers (.syncOperation i) s (fun t =>
      t.obj o.obj = (if o.set then o.val % 2 ^ 32 else (s.obj o.obj + o.val) % 2 ^ 32) ∧
      (∀ j, j ≠ o.obj → t.obj j = s.obj j) ∧ t.sync.ops = s.sync.ops.eraseIdx i ∧
      t.sync.waits = s.sync.waits.map (fun w =>
        if w.obj = o.obj ∧ waitHolds (t.obj o.obj) w.val = true then { w with released := true } else w) ∧
      t = { s with sync := t.sync })) ∧
  (∀ (s : State) (i r : Nat) (o : SyncOp), s.live → s.sync.ops[i]? = some o → o.reply = some r →
    (s.sync.ops.take i).all (fun p => decide (p.src ≠ o.src)) = true → (s.powerState ≠ 1 ∨ s.objBound o.obj = false) →
    Answers (.syncOperation i) s (fun t =>
      t.obj o.obj = (if o.set then o.val % 2 ^ 32 else (s.obj o.obj + o.val) % 2 ^ 32) ∧
      (∀ j, j ≠ o.obj → t.obj j = s.obj j) ∧ t.sync.ops = s.sync.ops.eraseIdx i ∧ (∀ q ∈ t.fab.inreqs, q.ref ≠ r) ∧
      t.tiles = s.tiles)) ∧
  (∀ (s : State) (i : Nat) (o : SyncOp), s.live → s.sync.ops[i]? = some o →
    (s.sync.ops.take i).all (fun p => decide (p.src ≠ o.src)) = true → s.powerState = 1 → s.objBound o.obj = true →
    s.pwr.waking = false → Answers (.syncOperation i) s (fun t => t.sync = s.sync ∧ t.pwr.waking = true ∧
      t.getF aPwrStatus 15 12 = 4 ∧ t.rd aCntPwrWake = s.rd aCntPwrWake + 1 ∧
      s.regsBut (fun a => a = aPwrStatus ∨ a = aCntPwrWake) t ∧ t = { s with regs := t.regs, pwr := t.pwr })) ∧
  (∀ (value v : Nat), value < 2 ^ 32 → v < 2 ^ 32 →
    (waitHolds value v = true ↔ 0 ≤ signedOf 32 ((value + 2 ^ 32 - v) % 2 ^ 32))) ∧
  (∀ (s : State) (t : TileId) (i : Nat) (w : WaitRec), s.live →
    (s.sync.waits.filter (fun w => w.tile == t.val))[i]? = some w → w.released = true → w.delivered = false →
    Answers (.waitRelease t i) s (fun u =>
      { w with delivered := true } ∈ u.sync.waits ∧ w ∉ u.sync.waits ∧ u.sync.objs = s.sync.objs ∧ u.sync.ops = s.sync.ops ∧
      u.tiles = s.tiles ∧ s.regsBut (· = aSqStatus t.val) u ∧
      (∀ e, (∃ k, w.who = .entry k) → (s.tile t.val).entryAt (s.pc t.val) = some e → s.sq t.val = sqBlocked →
        s.getF (aSqStatus t.val) 6 4 = 1 → u.waitsOk t.val e = true → u.sq t.val = sqRun)))

/-! ### Ramps, fetches, command queues and MAC arrays -/

/-- R91, R92 and R97. -/
def Obligations.RampsStepThroughSlots : Prop :=
  (∀ (s : State) (p : PartId) (j : Fin 256), s.live → bit (s.rdN aMacRampStatus) p.val = true →
    Answers (.rampSlotReached p j) s (fun u =>
      (∀ x ∈ s.slotArrays p.val j.val, s.getF (aMacStatus x.1 x.2) 4 4 = 1 →
        u.getF (aMacStatus x.1 x.2) 3 3 = 1 ∧ u.getF (aMacStatus x.1 x.2) 4 4 = 0) ∧
      s.regsBut (fun a => ∃ x ∈ s.slotArrays p.val j.val, a = aMacStatus x.1 x.2) u ∧
      u = { s with regs := u.regs, tiles := u.tiles, rims := u.rims })) ∧
  (∀ (s : State) (p : PartId), s.live → bit (s.rdN aMacRampStatus) p.val = true →
    (∀ x ∈ s.partArrays p.val, s.getF (aMacStatus x.1 x.2) 4 4 ≠ 1) → (s.part p.val).detail = none →
    Answers (.sequencerRelease p) s (fun u =>
      bit (u.rdN aMacRampStatus) p.val = false ∧ u.job p.val = 2 ∧
      (∀ t ∈ s.partTiles p.val, s.sq t = sqRamp → u.sq t = sqRun) ∧
      (∀ t < 1024, t ∉ s.partTiles p.val → u.sq t = s.sq t ∧ u.tile t = s.tile t) ∧ u.sync = s.sync)) ∧
  (∀ (s : State) (p : PartId), s.live → s.rampDownReady p.val = true → bit (s.rdN aMacRampCtrl) 0 = false →
    Answers (.rampDownStart p) s (fun u =>
      (u.part p.val).rampedDown = true ∧ (∀ x ∈ s.partArrays p.val, u.getF (aMacStatus x.1 x.2) 3 3 = 0) ∧
      (∀ t < 1024, u.sq t = s.sq t) ∧ u.sync = s.sync ∧ u.mem = s.mem)) ∧
  (∀ (s : State) (p : PartId), s.live → s.rampDownReady p.val = true → bit (s.rdN aMacRampCtrl) 0 = true →
    Answers (.rampDownStart p) s (fun u =>
      u.getF aMacRampStatus (16 + p.val) (16 + p.val) = 1 ∧ (u.part p.val).rampedDown = true ∧
      (∀ x ∈ s.partArrays p.val, u.getF (aMacStatus x.1 x.2) 3 3 = 1) ∧ (∀ t < 1024, u.sq t = s.sq t) ∧
      u.sync = s.sync ∧ u.mem = s.mem)) ∧
  (∀ (s : State) (p : PartId) (j : Fin 256), s.live → bit (s.rdN aMacRampStatus) (16 + p.val) = true →
    Answers (.rampDownSlotStop p j) s (fun u =>
      (∀ x ∈ s.slotArrays p.val j.val, u.getF (aMacStatus x.1 x.2) 3 3 = 0) ∧
      s.regsBut (fun a => a = aMacRampStatus ∨ ∃ x ∈ s.slotArrays p.val j.val, a = aMacStatus x.1 x.2 ∨
        a = aCntMacBallast x.1 x.2 ∨ a = aCntStall x.1 x.2 5) u ∧
      u = { s with regs := u.regs, tiles := u.tiles, rims := u.rims, free := u.free }))

/-- R176, R177 and R277. -/
def Obligations.SlathFetchInstallsEntries : Prop :=
  let installed (s : State) (t : TileId) (b : Nat) (data : List Byte) (u : State) : Prop :=
    ∀ k < 16, 16 * b + k < (s.tile t.val).seq.entryCount → 16 * b + k ≤ s.pc t.val + 255 → s.pc t.val ≤ 16 * b + k + 768 →
      (u.tile t.val).entryAt (16 * b + k) = some (leVal ((data.drop (64 * k)).take 64))
  (∀ (s s1 : State) (t : TileId) (b : Nat) (remote : List Byte) (big wr : Bool) (dev sp base : Nat), s.live →
    (s.tile t.val).fetches.contains b = true → s.walkFree (s.tilePartD t.val) (s.blockAddr t.val b) = true →
    s.walk (s.tilePartD t.val) (s.blockAddr t.val b) = (.page big dev sp base wr, s1) → s1.pc t.val = s.pc t.val →
    (dev ≠ s1.devId ∨ sp ≠ 0) → remote.length = 1024 → s1.tiles = s.tiles →
    Answers (.slathFetchReturn t b [] remote) s (fun u => installed s t b remote u)) ∧
  (∀ (s s1 s2 : State) (t : TileId) (b : Nat) (remote d : List Byte) (big wr : Bool) (base : Nat), s.live →
    (s.tile t.val).fetches.contains b = true → s.walkFree (s.tilePartD t.val) (s.blockAddr t.val b) = true →
    s.walk (s.tilePartD t.val) (s.blockAddr t.val b) = (.page big s1.devId 0 base wr, s1) →
    s1.slotsFree (pageAddr big base (s.blockAddr t.val b)) 1024 = true →
    s1.memRead (pageAddr big base (s.blockAddr t.val b)) 1024 0 = (d, false, s2) → s2.tiles = s.tiles → s2.pc t.val = s.pc t.val →
    Answers (.slathFetchReturn t b [] remote) s (fun u => installed s t b d u)) ∧
  (∀ (s : State) (t : TileId) (b : Nat) (remote : List Byte), s.live → (s.tile t.val).fetches.contains b = true →
    s.walkFree (s.tilePartD t.val) (s.blockAddr t.val b) = false → Answers (.slathFetchReturn t b [] remote) s (fun u =>
      s.regsBut (fun a => ∃ q < 4, a = aCntCapWait q) u ∧ u = { s with regs := u.regs })) ∧
  (∀ (s : State) (t : TileId) (b : Nat), s.live → (s.tile t.val).fetches.contains b = true →
    Answers (.slathFetchFault t b) s (fun u =>
      (u.tile t.val).fetches = (s.tile t.val).fetches.erase b ∧
      (∀ q ∈ s.partTiles (s.tilePartD t.val), s.sq q = sqRun ∨ s.sq q = sqBlocked → (u.tile q).seq.stopReq = some 1) ∧
      u.sync.objs = s.sync.objs ∧ u.mem = s.mem))

/-- R202, R212, R213 and R248. -/
def Obligations.StopsAndStartsTakeEffect : Prop :=
  (∀ (s : State) (t : TileId), s.live → s.sq t.val = sqStopping → (s.tile t.val).stopDrained = true →
    (s.tile t.val).seq.parityDue = none → Answers (.sequencerStopped t) s (fun u =>
      u.sq t.val = sqStopped ∧ u.pc t.val = s.pc t.val ∧ (u.tile t.val).seq.stopReq = none ∧
      (u.lastEvent (rimTile t.val 0)).map (·.1) = some 0x74 ∧ s.tilesBut t.val u ∧ u.sync = s.sync)) ∧
  (∀ (s : State) (t : TileId) (e : Fin 6) (c : Cmd) (rest : List Cmd), s.live → (s.tile t.val).queue e.val = c :: rest →
    c.started = false → (s.tile t.val).canTake e.val c = true →
    ((s.tile t.val).onceOnly e.val c = true → (s.tile t.val).seq.parityDone = false ∧ (s.tile t.val).clearBefore c.issue = true) →
    Answers (.commandStart t e) s (fun u =>
      (u.tile t.val).queue e.val = { c with started := true, waited := 0 } :: rest ∧
      (∀ g, g ≠ e.val → (u.tile t.val).queue g = (s.tile t.val).queue g) ∧ u.sync.objs = s.sync.objs ∧
      u.sync.ops = s.sync.ops ∧ s.tilesBut t.val u ∧ u.mem = s.mem ∧
      (guardEn e.val c.payload = true → ∃ w ∈ u.sync.waits, w.tile = t.val ∧ w.who = .guard e.val ∧ w.val = c.guardVal ∧
        w.obj = s.absObj t.val (guardObj e.val c.payload)) ∧
      (guardEn e.val c.payload = false → u.sync.waits = s.sync.waits))) ∧
  (∀ (s : State) (t : TileId) (e : Fin 6) (c : Cmd) (rest : List Cmd), s.live → (s.tile t.val).queue e.val = c :: rest →
    c.started = false → (s.tile t.val).canTake e.val c = true → (s.tile t.val).onceOnly e.val c = true →
    (s.tile t.val).seq.parityDone = true → Answers (.commandStart t e) s (fun u =>
      (u.tile t.val).queue e.val = rest ∧ (u.tile t.val).seq.completed = (s.tile t.val).seq.completed + 1 ∧
      u.sync.objs = s.sync.objs ∧ u.sync.ops = s.sync.ops ∧ s.tilesBut t.val u ∧ u.regs = s.regs ∧ u.mem = s.mem)) ∧
  (∀ (s : State) (t : TileId) (e : Fin 6) (c : Cmd) (rest : List Cmd), s.live → (s.tile t.val).queue e.val = c :: rest →
    c.started = false → (s.tile t.val).onceOnly e.val c = true → (s.tile t.val).seq.parityDone = false →
    (s.tile t.val).clearBefore c.issue = false → Answers (.commandStart t e) s (fun u => u = s)) ∧
  (∀ (s : State) (t : TileId) (e : Fin 6) (c : Cmd), s.live → (s.tile t.val).startedHead e.val (fun _ => true) = some c →
    s.waitCause t.val e.val c ≠ 0 → Answers (.waitAtStartPassed1024 t e) s (fun u =>
      u.lastEvent (rimTile t.val (e.val + 1)) = some (0x80, c.entry % 2 ^ 24, s.waitCause t.val e.val c) ∧
      s.rimsBut (rimTile t.val (e.val + 1)) u ∧ u = { s with rims := u.rims }))

/-- R203, R207 and R240. -/
def Obligations.TimeoutsAndOverrunsFault : Prop :=
  let recorded (s : State) (t : TileId) (cause : Nat) (u : State) : Prop :=
    u.sq t.val = sqFaulted ∧ u.getF (aSqFault t.val) 7 0 = cause ∧ u.getF (aSqFault t.val) 28 28 = 1 ∧
    u.sync = s.sync ∧ s.tilesBut t.val u
  let faulted (s : State) (t : TileId) (cause : Nat) (u : State) : Prop :=
    recorded s t cause u ∧ u.faults.length = s.faults.length + 1
  (∀ (s : State) (t : TileId) (e : Fin 6) (c : Cmd), s.live → (s.tile t.val).startedHead e.val (fun _ => true) = some c →
    s.waitCause t.val e.val c ≠ 0 → Answers (.slipTimeout t (some e)) s (faulted s t 0x06)) ∧
  (∀ (s : State) (t : TileId), s.live → s.sq t.val = sqBlocked → s.getF (aSqStatus t.val) 6 4 = 1 →
    Answers (.slipTimeout t none) s (faulted s t 0x06)) ∧
  (∀ (s : State) (t : TileId) (m : Fin 4) (c : Fin 8) (r : MacRun), s.live → ((s.tile t.val).array m.val).runs[c.val]? = some r →
    (r.stage = .compute ∨ r.stage = .held) →
    Answers (.commandOverrun t ⟨m.val, by omega⟩ c) s (fun u => faulted s t 0x05 u ∧
      ((u.tile t.val).array m.val).runs = ((s.tile t.val).array m.val).runs.eraseIdx c.val ∧
      (∀ k, accOutside r.cmd.payload k → mapGet 0 ((u.tile t.val).array m.val).acc k =
        mapGet 0 ((s.tile t.val).array m.val).acc k) ∧ (u.tile t.val).spad = (s.tile t.val).spad)) ∧
  (∀ (s : State) (t : TileId) (m : Fin 4) (c : Fin 8) (r : MacRun), s.live → ((s.tile t.val).array m.val).runs[c.val]? = some r →
    r.stage = .drain → ((s.tile t.val).array m.val).inStage .held = none →
    Answers (.commandOverrun t ⟨m.val, by omega⟩ c) s (fun u => recorded s t 0x05 u ∧
      ((u.tile t.val).array m.val).runs = ((s.tile t.val).array m.val).runs.eraseIdx c.val ∧
      ((u.tile t.val).array m.val).acc = ((s.tile t.val).array m.val).acc)) ∧
  (∀ (s : State) (t : TileId) (c : Fin 8) (r : VeRun), s.live → (s.tile t.val).ve.issuing = some r →
    Answers (.commandOverrun t 4 c) s (fun u => faulted s t 0x05 u ∧ (u.tile t.val).ve = { (s.tile t.val).ve with run := none })) ∧
  (∀ (s : State) (t : TileId) (c : Fin 8) (k : Cmd × Option Nat), s.live → (s.tile t.val).ve.issuing = none →
    (s.tile t.val).ve.kload = some k → Answers (.commandOverrun t 4 c) s (fun u => faulted s t 0x05 u ∧
      (u.tile t.val).ve.kload = none ∧ u.getF (aVeStatus t.val) 1 1 = 0)) ∧
  (∀ (s : State) (t : TileId) (c : Fin 8), s.live → ((s.tile t.val).ctx c.val).state = .running →
    ((s.tile t.val).ctx c.val).cmd.isSome = true → ((s.tile t.val).ctx c.val).err = none →
    ((s.tile t.val).ctx c.val).parity = none →
    Answers (.commandOverrun t 5 c) s (fun u => faulted s t 0x05 u ∧ ((u.tile t.val).ctx c.val).err = some (0, 0) ∧
      ((u.tile t.val).ctx c.val).issuing = false)) ∧
  (∀ (s : State) (t : TileId) (c : Fin 8), s.live → ((s.tile t.val).ctx c.val).cmd = none → (s.tile t.val).seAux.isSome = true →
    Answers (.commandOverrun t 5 c) s (fun u => faulted s t 0x05 u ∧ (u.tile t.val).seAux = none))

/-- R79, R84, R213, R214, R218 and R220. -/
def Obligations.MacCommandCommitsOrFaults : Prop :=
  let joins (s : State) (t : TileId) (m : Fin 4) (c : Cmd) (g : MacStage) (u : State) : Prop :=
    let k := s.commit t.val m.val c
    ((u.tile t.val).array m.val).runs = ((k.2.tile t.val).array m.val).runs ++
      [{ cmd := c, ops := k.2.macOps t.val c.payload k.1, stage := g, handles := k.1, zero := none, parity := none,
         reported := false }] ∧
    (u.tile t.val).queue m.val = ((s.tile t.val).queue m.val).tail ∧ (u.tile t.val).spad = (s.tile t.val).spad ∧
    s.tilesBut t.val u ∧ u.sync.objs = s.sync.objs ∧ u.sync.ops = s.sync.ops ∧ u.mem = s.mem
  let begun (t : TileId) (m : Fin 4) (c : Cmd) (u : State) : Prop :=
    u.getF (aMacStatus t.val m.val) 1 1 = 1 ∧
    u.lastEvent (rimTile t.val (m.val + 1)) = some (0x40, c.entry % 2 ^ 24, macAccBase c.payload)
  (∀ (s : State) (t : TileId) (m : Fin 4) (c : Cmd), s.live → s.macReady t.val m.val c → macCen c.payload = true →
    ((s.tile t.val).array m.val).overlaps c.payload = false →
    let k := s.commit t.val m.val c
    let o := k.2.macOps t.val c.payload k.1
    (s.tile t.val).firstBad o.accesses = none → ((s.tile t.val).array m.val).keepsBad o = false →
    Answers (.macCommand t m) s (fun u =>
      ((u.tile t.val).array m.val).acc = (((s.tile t.val).array m.val).compute (s.tile t.val) o).acc ∧
      joins s t m c .compute u ∧ begun t m c u)) ∧
  (∀ (s : State) (t : TileId) (m : Fin 4) (c : Cmd), s.live → s.macReady t.val m.val c → macCen c.payload = true →
    ((s.tile t.val).array m.val).overlaps c.payload = true → Answers (.macCommand t m) s (fun u =>
      ((u.tile t.val).array m.val).acc = ((s.tile t.val).array m.val).acc ∧ joins s t m c .held u ∧ begun t m c u)) ∧
  (∀ (s : State) (t : TileId) (m : Fin 4) (c : Cmd), s.live → s.macReady t.val m.val c → macCen c.payload = false →
    Answers (.macCommand t m) s (fun u =>
      joins s t m c .drain u ∧ (macDgab c.payload = false → ((s.tile t.val).array m.val).inStage .drain = none →
        (u.tile t.val).drainBusy m.val = true))) ∧
  (∀ (s : State) (t : TileId) (m : Fin 4) (c : Cmd), s.live → (s.tile t.val).startedHead m.val (fun _ => true) = some c →
    ((s.tile t.val).array m.val).computing = false → s.waitCause t.val m.val c = 0 → macBoundFault c.payload = true →
    Answers (.macCommand t m) s (fun u =>
      u.sq t.val = sqFaulted ∧ u.getF (aSqFault t.val) 7 0 = 0x07 ∧
      (u.lastEvent (rimTile t.val (m.val + 1))).map (·.1) = some 0x49 ∧
      (u.tile t.val).arrays = (s.tile t.val).arrays ∧ (u.tile t.val).spad = (s.tile t.val).spad ∧
      (u.tile t.val).queue m.val = ((s.tile t.val).queue m.val).tail ∧ u.sync.ops = s.sync.ops))

/-- R83, R84, R86, R193 and R212. -/
def Obligations.MacStagesRunToCompletion : Prop :=
  (∀ (s : State) (t : TileId) (m : Fin 4) (i : Nat) (r : MacRun), s.live →
    ((s.tile t.val).array m.val).inStage .compute = some (i, r) → r.parity = none →
    Answers (.macComputeComplete t m) s (fun u =>
      u.getF (aMacStatus t.val m.val) 1 1 = 0 ∧
      ((u.tile t.val).array m.val).runs = ((s.tile t.val).array m.val).runs.set i
        { r with stage := if 0 < macDrainRows r.cmd.payload then .drain else .done } ∧
      u.rd (aCntMacUseful t.val m.val) = s.rd (aCntMacUseful t.val m.val) + BitVec.ofNat 64
        ((match Fmt.ofCode (macSfmt r.ops.payload) with | some f => f.passes | none => 1) * r.ops.steps) ∧
      (u.lastEvent (rimTile t.val (m.val + 1))).map (·.1) = some (if s.ballastApplies t.val r.cmd then 0x43 else 0x41) ∧
      (s.ballastApplies t.val r.cmd = true → u.getF (aMacStatus t.val m.val) 3 3 = 1) ∧
      ((u.tile t.val).array m.val).acc = ((s.tile t.val).array m.val).acc ∧ (u.tile t.val).spad = (s.tile t.val).spad ∧
      s.tilesBut t.val u ∧
      s.regsBut (fun a => a = aMacStatus t.val m.val ∨ a = aCntMacUseful t.val m.val ∨ a = aCntMacHeld t.val m.val ∨
        a = aCntStall t.val m.val 0 ∨ a = aCntStall t.val m.val 1) u ∧
      u = { s with regs := u.regs, tiles := u.tiles, rims := u.rims, free := u.free })) ∧
  (∀ (s : State) (t : TileId) (m : Fin 4) (i k : Nat) (r : MacRun), s.live →
    ((s.tile t.val).array m.val).inStage .drain = some (i, r) → macDgab r.cmd.payload = false →
    accKind (macSfmt r.cmd.payload) (macTfmt r.cmd.payload) = some k →
    (∀ b ∈ drainBeats k r.cmd.payload (macDrainRows r.cmd.payload),
      ((s.tile t.val).array m.val).beatBad k r.cmd.payload b = false) →
    ((s.tile t.val).array m.val).inStage .held = none → Answers (.macDrainComplete t m) s (fun u =>
      let cs := (drainBeats k r.cmd.payload (macDrainRows r.cmd.payload)).flatMap
        (drainBytes ((s.tile t.val).array m.val) k r.drainBase r.cmd.payload ·)
      (∀ a, (u.tile t.val).byte a = ((cs.filter (fun c => c.1 == a)).getLast?.map (·.2)).getD ((s.tile t.val).byte a)) ∧
      ((u.tile t.val).array m.val).runs = ((s.tile t.val).array m.val).runs.set i { r with stage := .done } ∧
      (u.lastEvent (rimTile t.val (m.val + 1))).map (·.1) = some 0x42 ∧
      (u.tile t.val).gab = (s.tile t.val).gab ∧ s.regsBut (· = aCntSpadWrBytes t.val) u ∧ s.tilesBut t.val u ∧
      u = { s with regs := u.regs, tiles := u.tiles, rims := u.rims })) ∧
  (∀ (s : State) (t : TileId) (m : Fin 4) (i : Nat) (r : MacRun), s.live →
    ((s.tile t.val).array m.val).inStage .drain = some (i, r) → macDgab r.cmd.payload = true →
    (s.tile t.val).seq.parityDone = true → ((s.tile t.val).array m.val).inStage .held = none →
    Answers (.macDrainComplete t m) s (fun u =>
      ((u.tile t.val).array m.val).runs = ((s.tile t.val).array m.val).runs.set i
        { r with stage := .done, parity := some 0, reported := true } ∧
      (u.tile t.val).gab = (s.tile t.val).gab ∧ s.tilesBut t.val u ∧ u = { s with tiles := u.tiles })) ∧
  (∀ (s : State) (t : TileId) (m : Fin 4) (i : Nat) (r : MacRun), s.live →
    ((s.tile t.val).array m.val).inStage .drain = some (i, r) → (s.tile t.val).seq.parityDone = false →
    (s.tile t.val).drainHeld r = true → Answers (.macDrainComplete t m) s (fun u => u = s)) ∧
  (∀ (s : State) (t : TileId) (m : Fin 4) (c : Fin 8) (r : MacRun), s.live →
    ((s.tile t.val).array m.val).runs[c.val]? = some r → r.stage = .done → r.parity = none →
    (((s.tile t.val).array m.val).runs.take c.val).all (fun x => x.stage != .done) = true →
    s.sigsPass r.cmd.sigs → s.getF (aSqStatus t.val) 11 11 = 0 →
    Answers (.commandCompletion t ⟨m.val, by omega⟩ c) s (fun u =>
      ((u.tile t.val).array m.val).runs = ((s.tile t.val).array m.val).runs.eraseIdx c.val ∧
      (u.tile t.val).seq.completed = (s.tile t.val).seq.completed + 1 ∧
      u.sync.ops = s.sync.ops ++ State.opsOf t.val r.cmd.sigs ∧
      u.regs = (s.completeQueues t.val m.val r.cmd.entry r.handles).regs ∧
      (r.handles = [] → u.regs = s.regs ∧ u.rims = s.rims) ∧ s.tilesBut t.val u ∧
      u = { s with regs := u.regs, tiles := u.tiles, rims := u.rims, sync := u.sync })) ∧
  (∀ (s : State) (t : TileId) (m : Fin 4) (c : Fin 8) (r : MacRun), s.live →
    ((s.tile t.val).array m.val).runs[c.val]? = some r → r.stage = .done → r.parity.isSome = true →
    (((s.tile t.val).array m.val).runs.take c.val).all (fun x => x.stage != .done) = true →
    Answers (.commandCompletion t ⟨m.val, by omega⟩ c) s (fun u =>
      ((u.tile t.val).array m.val).runs = ((s.tile t.val).array m.val).runs.eraseIdx c.val ∧
      (u.tile t.val).seq.completed = (s.tile t.val).seq.completed + 1 ∧ (u.tile t.val).seq.parityDone = true ∧
      u.getF (aMacStatus t.val m.val) 0 0 = 1 ∧ u.sync = s.sync ∧ s.tilesBut t.val u ∧
      u = { s with regs := u.regs, tiles := u.tiles }))

/-- R85, R87 and R89. -/
def Obligations.OperandParityStopsMac : Prop :=
  (∀ (s : State) (t : TileId) (m : Fin 4) (a : BitVec 21) (b : Bool) (i : Nat) (r : MacRun), s.live →
    ((s.tile t.val).array m.val).inStage .compute = some (i, r) → r.reported = false →
    Answers (.operandParityEvent t m a b) s (fun u =>
      ((u.tile t.val).array m.val).runs = ((s.tile t.val).array m.val).runs.set i
        { r with parity := some (r.parity.getD a.toNat), reported := true } ∧
      (u.tile t.val).seq.parityDue = some r.cmd.entry ∧
      (u.lastEvent (rimTile t.val (m.val + 1))).map (·.1) = some 0x48 ∧ (u.tile t.val).spad = (s.tile t.val).spad ∧
      (∀ k, accOutside r.cmd.payload k → mapGet 0 ((u.tile t.val).array m.val).acc k =
        mapGet 0 ((s.tile t.val).array m.val).acc k) ∧
      u.rd (aCntSpadParity t.val) = s.rd (aCntSpadParity t.val) + 1 ∧ s.tilesBut t.val u ∧ u.sync = s.sync ∧ u.mem = s.mem)) ∧
  (∀ (s : State) (t : TileId) (m : Fin 4), s.live → s.getF (aMacStatus t.val m.val) 3 3 = 1 → s.mayExpire t.val = true →
    Answers (.ballastExpired t m) s (fun u =>
      u.getF (aMacStatus t.val m.val) 3 3 = 0 ∧ (u.lastEvent (rimTile t.val (m.val + 1))).map (·.1) = some 0x45 ∧
      (((s.tile t.val).array m.val).rampBallast = false →
        u.rd (aCntMacBallast t.val m.val) = s.rd (aCntMacBallast t.val m.val) +
          BitVec.ofNat 64 (s.getF (aMacBallastCtrl t.val) 26 16)) ∧
      s.regsBut (fun a => a = aMacStatus t.val m.val ∨ a = aCntMacBallast t.val m.val ∨ a = aCntStall t.val m.val 5) u ∧
      s.tilesBut t.val u ∧
      u = { s with regs := u.regs, tiles := u.tiles, rims := u.rims, free := u.free })) ∧
  (∀ (s : State) (t : TileId) (m : Fin 4), s.live → s.mayExpire t.val = false →
    Answers (.ballastExpired t m) s (fun u => u = s))

/-! ### The vector engine -/

/-- R105, R111, R114, R115 and R121. -/
def Obligations.BitInstructionsIssue : Prop :=
  let bare (s u : State) (t : TileId) : Prop := s.regsBut (fun a => a = aCntVeIssue t.val ∨ a = aVeFpStatus t.val) u ∧
    u.rdN (aVeFpStatus t.val) = s.rdN (aVeFpStatus t.val)
  let rows : List (Nat × (TileId → VFields → Instr)) := [(opNop, .nop), (opMov, .mov), (opMovi, .movi), (opAdd, .add),
    (opMul, .mul), (opFma, .fma), (opMin, .min), (opMax, .max), (opCmp, .cmp), (opSel, .sel), (opLog, .log), (opExp2, .exp2),
    (opLog2, .log2), (opRcp, .rcp), (opRsq, .rsq), (opRsum, .rsum), (opRmax, .rmax), (opRmin, .rmin), (opTrn, .trn),
    (opLd, .ld), (opSt, .st), (opRsta, .rsta), (opRstf, .rstf), (opRapp, .rapp)]
  (∀ (s : State) (t : TileId) (i : VFields) (c : VeCtx), s.live → s.veReady t.val opNop i c →
    Answers (.nop t i) s (fun u => s.issued t.val c 1 [] u ∧ bare s u t)) ∧
  (∀ (s : State) (t : TileId) (i : VFields) (c : VeCtx), s.live → s.veReady t.val opMov i c →
    Answers (.mov t i) s (fun u => s.issued t.val c 1
      [s.laneWrite t.val c (nth ((s.tile t.val).elems c c.va))] u ∧ bare s u t)) ∧
  (∀ (s : State) (t : TileId) (i : VFields) (c : VeCtx), s.live → s.veReady t.val opMovi i c →
    Answers (.movi t i) s (fun u => s.issued t.val c 1
      [{ regs := [(physReg c.f c.win c.vd, BitVec.ofNat 1024 (ofLanes (fmtOf c.word) (((s.tile t.val).raws c c.vd).map
          (moviLane (fmtOf c.word).laneBits (bits c.word 32 32) (bits c.word 31 0)))))], masks := [], rsta := false, owner := c.run.cmd.issue }] u ∧
      bare s u t)) ∧
  (∀ (s : State) (t : TileId) (i : VFields) (c : VeCtx), s.live → s.veReady t.val opSel i c →
    Answers (.sel t i) s (fun u => s.issued t.val c 1
      [s.laneWrite t.val c (fun k => if bit ((s.tile t.val).lmask c (mLmd c.mod)) k
        then nth ((s.tile t.val).elems c c.va) k else nth ((s.tile t.val).elems c c.vb) k)] u ∧ bare s u t)) ∧
  (∀ (s : State) (t : TileId) (i : VFields) (c : VeCtx), s.live → s.veReady t.val opLog i c →
    Answers (.log t i) s (fun u => s.issued t.val c 1
      [s.laneWrite t.val c (fun k => laneLog (bits c.mod 1 0) (nth ((s.tile t.val).elems c c.va) k)
        (nth ((s.tile t.val).elems c c.vb) k) (fmtOf c.word).width)] u ∧ bare s u t)) ∧
  (∀ (s : State) (t : TileId) (r : Nat × (TileId → VFields → Instr)) (i : VFields) (c : VeCtx), r ∈ rows → s.live →
    (s.tile t.val).veNext = some c → c.matches r.1 i = true → c.when_ = false → c.run.originDue = false →
    Answers (r.2 t i) s (fun u => (u.tile t.val).ve = { (s.tile t.val).ve with run := some c.run.begun.advance } ∧
      s.tilesBut t.val u ∧ u = { s with tiles := u.tiles })) ∧
  (∀ (s : State) (t : TileId) (r : Nat × (TileId → VFields → Instr)) (i : VFields) (c : VeCtx), r ∈ rows → s.live →
    (s.tile t.val).veNext = some c → c.matches r.1 i = true → c.when_ = true → (s.tile t.val).veHeld c = true →
    Answers (r.2 t i) s (fun u => u.rd (aCntVeHeld t.val) = s.rd (aCntVeHeld t.val) + 1 ∧
      s.regsBut (fun a => a = aCntVeHeld t.val ∨ a = aCntStall t.val 4 0) u ∧ u = { s with regs := u.regs })) ∧
  (∀ (s : State) (t : TileId) (i : VFields) (c : VeCtx), s.live → (s.tile t.val).veNext = some c →
    c.matches opNop i = true → c.when_ = true → (s.tile t.val).veHeld c = false → c.run.originDue = true →
    Answers (.nop t i) s (fun u =>
      let p := c.run.cmd.payload
      u.rdN (aVeRngCtrLo t.val (veOstream p)) = veOimm p * 2 ^ 32 % 2 ^ 64 ∧
      u.rdN (aVeRngCtrHi t.val (veOstream p)) = c.run.cmd.origin % 2 ^ 64 ∧
      u.lastEvent (rimTile t.val 5) = some (0x54, c.run.cmd.entry % 2 ^ 24, veOstream p) ∧
      (∃ r, (u.tile t.val).ve.run = some r ∧ r.originDue = false) ∧ s.tilesBut t.val u))

/-- R48, R67, R105, R114, R117 and R121. -/
def Obligations.ArithmeticInstructionsIssue : Prop :=
  let lane (op : Nat) (ctor : TileId → VFields → Instr) (g : VeCtx → Nat → Nat → Nat → Nat × Nat) : Prop :=
    ∀ (s : State) (t : TileId) (i : VFields) (c : VeCtx), s.live → s.veReady t.val op i c →
      Answers (ctor t i) s (fun u =>
        let f := fmtOf c.word
        let r (k : Nat) : Nat × Nat := g c (nth ((s.tile t.val).elems c c.va) k) (nth ((s.tile t.val).elems c c.vb) k)
          (nth ((s.tile t.val).elems c c.vc) k)
        let flags := ((List.range f.lanes).filter (bit ((s.tile t.val).activeMask c f.lanes) ·)).foldl (fun a k => a ||| (r k).2) 0
        s.issued t.val c 1 [s.laneWrite t.val c (fun k => (r k).1)] u ∧
        u.rdN (aVeFpStatus t.val) = s.rdN (aVeFpStatus t.val) ||| flags % 128 ∧
        s.regsBut (fun a => a = aCntVeIssue t.val ∨ a = aVeFpStatus t.val) u)
  lane opAdd .add (fun c a b _ => laneAdd (fmtOf c.word) (bit c.mod 1) (bit c.mod 0) a b) ∧
  lane opMul .mul (fun c a b _ => laneMul (fmtOf c.word) (bit c.mod 1) a b) ∧
  lane opFma .fma (fun c a b d => laneFma (fmtOf c.word) (bit c.mod 1) (bit c.mod 0) a b d) ∧
  lane opMin .min (fun c a b _ => lanePick (fmtOf c.word) false a b) ∧
  lane opMax .max (fun c a b _ => lanePick (fmtOf c.word) true a b) ∧
  (∀ (s : State) (t : TileId) (i : VFields) (c : VeCtx), s.live → s.veReady t.val opCmp i c →
    Answers (.cmp t i) s (fun u =>
      let f := fmtOf c.word
      let on (k : Nat) : Bool := bit ((s.tile t.val).activeMask c f.lanes) k
      let r (k : Nat) : Bool × Nat :=
        laneCmp f (bits c.mod 2 0) (nth ((s.tile t.val).elems c c.va) k) (nth ((s.tile t.val).elems c c.vb) k)
      let hit (k : Nat) : Bool := on k && (r k).1
      u.rdN (aVeFpStatus t.val) = s.rdN (aVeFpStatus t.val) |||
        ((List.range f.lanes).filter on).foldl (fun a k => a ||| (r k).2) 0 % 128 ∧
      s.regsBut (fun a => a = aCntVeIssue t.val ∨ a = aVeFpStatus t.val) u ∧
      (mLmd c.mod = 0 → s.issued t.val c 1 [] u) ∧
      (mLmd c.mod ≠ 0 → ∃ m : BitVec 128, s.issued t.val c 1 [{ regs := [], masks := [(c.maskKey (mLmd c.mod), m)], rsta := false, owner := c.run.cmd.issue }] u ∧
        ∀ k < 128, bit m.toNat k = if k < f.lanes then hit k else bit ((s.tile t.val).lmask c (mLmd c.mod)) k)))

/-- R118, R119 and R120. -/
def Obligations.FunctionAndReductionInstructionsIssue : Prop :=
  let flagged (s : State) (t : TileId) (flags : Nat) (u : State) : Prop :=
    u.rdN (aVeFpStatus t.val) = s.rdN (aVeFpStatus t.val) ||| flags % 128 ∧
    s.regsBut (fun a => a = aCntVeIssue t.val ∨ a = aVeFpStatus t.val) u
  let fn (op : Nat) (ctor : TileId → VFields → Instr) (g : FVal → FVal) : Prop :=
    ∀ (s : State) (t : TileId) (i : VFields) (c : VeCtx), s.live → s.veReady t.val op i c →
      Answers (ctor t i) s (fun u =>
        let f := fmtOf c.word
        let r (k : Nat) : FCode := laneFn f g (nth ((s.tile t.val).elems c c.va) k)
        s.issued t.val c 1 [s.laneWrite t.val c (fun k => (r k).1)] u ∧
        flagged s t (((List.range f.lanes).filter (bit ((s.tile t.val).activeMask c f.lanes) ·)).foldl (fun a k => a ||| (r k).2) 0) u)
  let reduce (op : Nat) (ctor : TileId → VFields → Instr) (max : Bool) : Prop :=
    ∀ (s : State) (t : TileId) (i : VFields) (c : VeCtx), s.live → s.veReady t.val op i c →
      Answers (ctor t i) s (fun u =>
        let p := lanePickAll (fmtOf c.word) max ((s.tile t.val).activeMask c (fmtOf c.word).lanes) ((s.tile t.val).elems c c.va)
        (∀ r, p = some r → s.issued t.val c 1 [s.laneWrite t.val c (fun _ => r.1)] u ∧ flagged s t r.2 u) ∧
        (p = none → s.issued t.val c 1 [s.laneWrite t.val c (fun _ => 0)] u ∧ flagged s t 0 u))
  fn opExp2 .exp2 FVal.exp2 ∧ fn opLog2 .log2 FVal.log2 ∧ fn opRcp .rcp FVal.rcp ∧ fn opRsq .rsq FVal.rsq ∧
  (∀ (s : State) (t : TileId) (i : VFields) (c : VeCtx), s.live → s.veReady t.val opRsum i c →
    Answers (.rsum t i) s (fun u =>
      let r := laneSum (fmtOf c.word) ((s.tile t.val).activeMask c (fmtOf c.word).lanes) ((s.tile t.val).elems c c.va)
      s.issued t.val c 1 [s.laneWrite t.val c (fun _ => r.1)] u ∧ flagged s t r.2 u)) ∧
  reduce opRmax .rmax true ∧ reduce opRmin .rmin false ∧
  (∀ (s : State) (t : TileId) (i : VFields) (c : VeCtx), s.live → s.veReady t.val opTrn i c →
    Answers (.trn t i) s (fun u => ∃ fl : Flight, s.issued t.val c 1 [fl] u ∧ flagged s t 0 u ∧ fl.masks = [] ∧
      fl.regs.map (·.1) = (List.range 8).map (fun j => physReg c.f c.win (c.vd + j)) ∧
      ∀ j < 8, ∀ k < (fmtOf c.word).lanes, nth (rawLanes (fmtOf c.word) (fl.regs.getD j (0, 0)).2.toNat) k =
        (if bit ((s.tile t.val).activeMask c (fmtOf c.word).lanes) k then
          nth ((s.tile t.val).elems c (c.va + k % 8)) (8 * (k / 8) + j)
        else nth ((s.tile t.val).raws c (c.vd + j)) k)))

/-- R61, R126, R127, R129 and R130. -/
def Obligations.ConversionAndRandomInstructionsIssue : Prop :=
  let drawn (s u : State) (t : TileId) (k n : Nat) : Prop := u.rngCtr t.val k = (s.rngCtr t.val k + n) % 2 ^ 128 ∧
    u.rngKey t.val k = s.rngKey t.val k
  (∀ (s : State) (t : TileId) (i : VFields) (c : VeCtx), s.live → s.veReady t.val opCvt i c → mBq c.mod = false →
    Answers (.cvt t i) s (fun u =>
      let k := s.cvtCtx t.val c
      let res := (List.range k.l).map (fun j => if bit k.mask j then
        some (k.dst.convert (cvtRnd k.mod k.key k.ctr j) (mOvf k.mod)
          (k.src.decode (nth ((s.tile t.val).elems c c.va) (k.soff + j)))).1 else none)
      s.issued t.val c 1 [{ regs := [(physReg c.f c.win c.vd,
        BitVec.ofNat 1024 (cvtPut k ((s.tile t.val).vreg c c.vd) res))], masks := [], rsta := false, owner := c.run.cmd.issue }] u ∧
      drawn s u t (mStream c.mod) (if mRnd c.mod = 2 then (k.l + 7) / 8 else 0))) ∧
  (∀ (s : State) (t : TileId) (i : VFields) (c : VeCtx), s.live → s.veReady t.val opCvt i c →
    cvtDequant (bits c.word 53 50) (bits c.word 23 0) = true → Answers (.cvtDequantise t i) s (fun u =>
      let k := s.cvtCtx t.val c
      let scale (j : Nat) : Nat := nth (unpackBits 8 128 ((s.tile t.val).vreg c c.vc)) (mSidx k.mod + (k.soff + j) / 32)
      let res := (List.range k.l).map (fun j => if bit k.mask j then
        some (if scale j = 255 then k.dst.nanCode else (k.dst.convert (cvtRnd k.mod k.key k.ctr j) (mOvf k.mod)
          ((k.src.decode (nth ((s.tile t.val).elems c c.va) (k.soff + j))).scale ((scale j : Int) - 127))).1) else none)
      s.issued t.val c 1 [{ regs := [(physReg c.f c.win c.vd,
        BitVec.ofNat 1024 (cvtPut k ((s.tile t.val).vreg c c.vd) res))], masks := [], rsta := false, owner := c.run.cmd.issue }] u ∧
      drawn s u t (mStream c.mod) (if mRnd c.mod = 2 then (k.l + 7) / 8 else 0))) ∧
  (∀ (s : State) (t : TileId) (i : VFields) (c : VeCtx), s.live → s.veReady t.val opCvt i c →
    cvtQuant (bits c.word 53 50) (bits c.word 23 0) = true →
    physReg c.f c.win c.vd = physReg c.f c.win c.vc → Answers (.cvtBlockQuantise t i) s (fun u =>
      ∃ v : BitVec 1024, s.issued t.val c 1
        [{ regs := [(physReg c.f c.win c.vc, v)], masks := [], rsta := false, owner := c.run.cmd.issue }] u ∧
      drawn s u t (mStream c.mod) (if mRnd c.mod = 2 then ((s.cvtCtx t.val c).l + 7) / 8 else 0))) ∧
  (∀ (s : State) (t : TileId) (i : VFields) (c : VeCtx), s.live → s.veReady t.val opCvt i c →
    cvtQuant (bits c.word 53 50) (bits c.word 23 0) = true →
    physReg c.f c.win c.vd ≠ physReg c.f c.win c.vc → Answers (.cvtBlockQuantise t i) s (fun u =>
      ∃ e v : BitVec 1024, s.issued t.val c 1
        [{ regs := [(physReg c.f c.win c.vd, e), (physReg c.f c.win c.vc, v)], masks := [], rsta := false, owner := c.run.cmd.issue }] u ∧
      (∀ b < (s.cvtCtx t.val c).l / 32,
        let k := s.cvtCtx t.val c
        let act := ((List.range 32).map (32 * b + ·)).filter (bit k.mask ·)
        let q := blockQuantise k.dst (mOvf k.mod)
          (act.map (fun j => (k.src.decode (nth ((s.tile t.val).elems c c.va) j), cvtRnd k.mod k.key k.ctr j)))
        act ≠ [] → bits v.toNat (8 * (mSidx k.mod + b) + 7) (8 * (mSidx k.mod + b)) = q.2.1 % 256 ∧
          ∀ n < act.length, nth (rawLanes k.dst e.toNat) (k.doff + nth act n) = nth q.1 n % 2 ^ k.dst.laneBits) ∧
      drawn s u t (mStream c.mod) (if mRnd c.mod = 2 then ((s.cvtCtx t.val c).l + 7) / 8 else 0))) ∧
  (∀ (s : State) (t : TileId) (i : VFields) (c : VeCtx), s.live → s.veReady t.val opRnd i c → bits (bits c.word 23 0) 1 0 = 0 →
    Answers (.rndRaw t i) s (fun u => s.issued t.val c (rndCycles (codeLanes (bits c.word 53 50)))
      [s.laneWrite t.val c (nth (rawLanes (fmtOf c.word) (packBits 128 ((List.range 8).map (fun n =>
        philox (s.rngKey t.val (mStream c.mod)) ((s.rngCtr t.val (mStream c.mod) + n) % 2 ^ 128))))))] u ∧
      drawn s u t (mStream c.mod) 8)) ∧
  (∀ (s : State) (t : TileId) (i : VFields) (c : VeCtx), s.live → s.veReady t.val opRnd i c → bits (bits c.word 23 0) 1 0 = 1 →
    Answers (.rndUniform t i) s (fun u => s.issued t.val c (rndCycles (codeLanes (bits c.word 53 50)))
      [s.laneWrite t.val c (fun k => uniform32 (rndWord (s.rngKey t.val (mStream c.mod)) (s.rngCtr t.val (mStream c.mod)) k))] u ∧
      drawn s u t (mStream c.mod) 8)) ∧
  (∀ (s : State) (t : TileId) (i : VFields) (c : VeCtx), s.live → s.veReady t.val opRnd i c → bits (bits c.word 23 0) 1 0 = 2 →
    Answers (.rndBernoulli t i) s (fun u =>
      let l := (fmtOf c.word).lanes
      drawn s u t (mStream c.mod) ((l + 3) / 4) ∧
      (mLmd c.mod = 0 → s.issued t.val c (rndCycles (codeLanes (bits c.word 53 50))) [] u) ∧
      (mLmd c.mod ≠ 0 → ∃ m : BitVec 128, s.issued t.val c (rndCycles (codeLanes (bits c.word 53 50))) [{ regs := [], masks := [(c.maskKey (mLmd c.mod), m)], rsta := false, owner := c.run.cmd.issue }] u ∧
      ∀ k < l, bit m.toNat k = (bit ((s.tile t.val).activeMask c l) k &&
        decide (rndWord (s.rngKey t.val (mStream c.mod)) (s.rngCtr t.val (mStream c.mod)) k <
          (s.tile t.val).vreg c c.va % 2 ^ 32)))))

/-- R112, R113, R122, R123, R124, R137 and R165. -/
def Obligations.LoadsStoresAndRowStatisticsIssue : Prop :=
  let image (s : State) (t : TileId) (c : VeCtx) : List Nat := quadRange c.addr (accessBytes (bits c.word 53 50))
  let on (s : State) (t : TileId) (c : VeCtx) (k : Nat) : Bool := bit ((s.tile t.val).activeMask c (fmtOf c.word).lanes) k
  let issuedOnce (s : State) (t : TileId) (u : State) : Prop :=
    u.rd (aCntVeIssue t.val) = s.rd (aCntVeIssue t.val) + 1 ∧ s.tilesBut t.val u ∧
    s.regsBut (fun a => a = aCntVeIssue t.val ∨ a = aCntVeBank t.val ∨ a = aCntStall t.val 4 1 ∨ a = aCntSpadRdBytes t.val ∨
      a = aCntSpadWrBytes t.val ∨ a = aCntGabRdBytes t.val ∨ a = aCntGabWrBytes t.val ∨ a = aVeFpStatus t.val) u ∧
    u.rdN (aVeFpStatus t.val) = s.rdN (aVeFpStatus t.val) ∧ u = { s with regs := u.regs, tiles := u.tiles, free := u.free }
  let launched (s : State) (t : TileId) (c : VeCtx) (fl : List Flight) (u : State) : Prop :=
    (u.tile t.val).ve = { (s.tile t.val).ve with flight := (s.tile t.val).ve.flight ++ fl, run := some c.run.begun.advance }
  let active (s : State) (t : TileId) (c : VeCtx) : List Nat :=
    ((gabGroup c.addr).zipIdx.filter (fun p => on s t c p.2)).map (·.1)
  (∀ (s : State) (t : TileId) (i : VFields) (c : VeCtx), s.live → s.veReady t.val opLd i c → mGab c.mod = false →
    let r := (s.tile t.val).readAt (image s t c)
    r.uncorr = none → r.parity = none → Answers (.ld t i) s (fun u =>
      launched s t c [s.laneWrite t.val c (nth (unpackBits (fmtOf c.word).width (fmtOf c.word).lanes (leVal r.data)))] u ∧
      u.tile t.val = { s.tile t.val with ve := (u.tile t.val).ve } ∧ issuedOnce s t u)) ∧
  (∀ (s : State) (t : TileId) (i : VFields) (c : VeCtx) (a : Nat), s.live → s.veReady t.val opLd i c → mGab c.mod = false →
    ((s.tile t.val).readAt (image s t c)).uncorr = none → ((s.tile t.val).readAt (image s t c)).parity = some a →
    Answers (.ld t i) s (fun u =>
      (u.tile t.val).ve = { (s.tile t.val).ve with run := some { c.run.begun with parity := some a } } ∧
      u.tile t.val = { s.tile t.val with ve := (u.tile t.val).ve } ∧ issuedOnce s t u)) ∧
  (∀ (s : State) (t : TileId) (i : VFields) (c : VeCtx), s.live → s.veReady t.val opLd i c → mGab c.mod = false →
    ((s.tile t.val).readAt (image s t c)).uncorr.isSome = true → Answers (.ld t i) s (fun u =>
      u.sq t.val = sqFaulted ∧ u.getF (aSqFault t.val) 7 0 = 0x04 ∧
      (u.tile t.val).ve = { (s.tile t.val).ve with run := none } ∧ u.sync = s.sync ∧ s.tilesBut t.val u)) ∧
  (∀ (s : State) (t : TileId) (i : VFields) (c : VeCtx), s.live → s.veReady t.val opLd i c → mGab c.mod = true →
    (s.tile t.val).gabUncorr (s.withPairs t.val (gabGroup c.addr)) = none → Answers (.ld t i) s (fun u =>
      launched s t c [s.laneWrite t.val c (nth ((gabGroup c.addr).map (s.gabValue t.val ·)))] u ∧ issuedOnce s t u ∧
      (u.tile t.val).spad = (s.tile t.val).spad ∧
      ∀ e, (u.tile t.val).gabEntry e =
        if mClr c.mod = true ∧ (s.withPairs t.val (active s t c)).any (fun x => x % 262144 == e % 262144) = true then 0
        else (s.tile t.val).gabEntry e)) ∧
  (∀ (s : State) (t : TileId) (i : VFields) (c : VeCtx), s.live → s.veReady t.val opSt i c → mGab c.mod = false →
    Answers (.st t i) s (fun u =>
      let f := fmtOf c.word
      let w := if f.width < 8 then f.width else f.laneBits
      let m := (s.tile t.val).activeMask c f.lanes
      let old := (image s t c).map ((s.tile t.val).byte ·)
      let img := leBytes (image s t c).length (packBits w
        (mergeLanes m (unpackBits w f.lanes (leVal old)) ((s.tile t.val).elems c c.va)))
      (∀ j < (image s t c).length, (u.tile t.val).byte (nth (image s t c) j) =
        if byteActive w m j then img.getD j 0 else (s.tile t.val).byte (nth (image s t c) j)) ∧
      (∀ a, a ∉ image s t c → (u.tile t.val).byte a = (s.tile t.val).byte a) ∧
      (u.tile t.val).gab = (s.tile t.val).gab ∧ launched s t c [] u ∧ issuedOnce s t u)) ∧
  (∀ (s : State) (t : TileId) (i : VFields) (c : VeCtx), s.live → s.veReady t.val opSt i c → mGab c.mod = true →
    Answers (.st t i) s (fun u =>
      let pairs := (active s t c).filterMap (s.compPair t.val ·)
      (∀ e, (u.tile t.val).gabEntry e =
        if pairs.any (fun x => x % 262144 == e % 262144) then 0
        else match (gabGroup c.addr).zipIdx.find? (fun p => on s t c p.2 && p.1 % 262144 == e % 262144) with
          | some p => nth ((s.tile t.val).elems c c.va) p.2 % 2 ^ 32
          | none => (s.tile t.val).gabEntry e) ∧
      (u.tile t.val).spad = (s.tile t.val).spad ∧ launched s t c [] u ∧ issuedOnce s t u)) ∧
  (∀ (s : State) (t : TileId) (i : VFields) (c : VeCtx), s.live → s.veReady t.val opRsta i c →
    Answers (.rsta t i) s (fun u =>
      let x := s.tile t.val
      let key := physReg c.f c.win c.vd
      s.issued t.val c 1 [{ regs := [(key, BitVec.ofNat 1024 (Sys2Proof.Machine.rsta (c.mod % 16) (bit c.mod 4 && c.idx0 == 0)
        (x.activeMask c 32) (x.rowState key) (x.vreg c c.va) (x.vreg c c.vb)).1)], masks := [], rsta := true, owner := c.run.cmd.issue }] u)) ∧
  (∀ (s : State) (t : TileId) (i : VFields) (c : VeCtx), s.live → s.veReady t.val opRstf i c →
    Answers (.rstf t i) s (fun u =>
      s.issued t.val c 1 [{ regs := [(physReg c.f c.win c.vd, BitVec.ofNat 1024 (Sys2Proof.Machine.rstf (c.mod % 16)
        ((s.tile t.val).vreg c c.va) ((s.tile t.val).vreg c c.vb)).1)], masks := [], rsta := false, owner := c.run.cmd.issue }] u)) ∧
  (∀ (s : State) (t : TileId) (i : VFields) (c : VeCtx), s.live → s.veReady t.val opRapp i c →
    Answers (.rapp t i) s (fun u =>
      let p := unpackBits 32 4 ((s.tile t.val).vreg c c.vc)
      s.issued t.val c 1 [s.laneWrite t.val c (fun k => (rappLane (c.mod % 16) (nth ((s.tile t.val).elems c c.va) k)
        (nth ((s.tile t.val).elems c c.vb) k) (nth p 0) (nth p 1) (nth p 2) (nth p 3)).1)] u))

/-- R107, R108, R111, R113, R132, R135, R225 and R226. -/
def Obligations.VectorCommandsBeginAndLand : Prop :=
  (∀ (s : State) (t : TileId) (c : Cmd), s.live → (s.tile t.val).startedHead 4 (fun p => veVop p == 0) = some c →
    (s.tile t.val).ve.issuing = none → (s.tile t.val).ve.kload = none → s.waitCause t.val 4 c = 0 →
    (s.tile t.val).patternBad 4 c.payload = false →
    let ks := (s.tile t.val).ve.kernel c.payload
    let k := s.commit t.val 4 c
    let pats := (List.range 4).map (fun j => k.2.pattern t.val (vePat c.payload j))
    let bases := (List.range 4).map (fun j => operandBase k.1 j (veBase c.payload j))
    kernelOk (veF c.payload) ks = true → veOperandFault c.payload ks k.1 pats bases = none →
    k.2.zeroSlot t.val (cmdPatterns 4 c.payload) = none → Answers (.veRun t) s (fun u =>
      (u.tile t.val).queue 4 = ((s.tile t.val).queue 4).tail ∧ (u.tile t.val).ve.ending = (s.tile t.val).ve.ended.ending ∧
      (∃ r : VeRun, (u.tile t.val).ve.run = some r ∧ r.cmd = c ∧ r.handles = k.1 ∧ r.group = 0 ∧ r.slot = 0 ∧ r.window = 0 ∧
        r.issued = 0 ∧ r.pats = pats ∧ r.bases = bases ∧ r.iters = patSteps (k.2.pattern t.val (veNpat c.payload)) ∧
        r.parity = none ∧ (0 < r.iters → bit (u.regNow (aVeStatus t.val)) 0 = true)) ∧
      (u.lastEvent (rimTile t.val 5)).map (·.1) = some 0x50 ∧ s.tilesBut t.val u ∧ u.sync.objs = s.sync.objs ∧ u.mem = s.mem)) ∧
  (∀ (s : State) (t : TileId) (c : Cmd) (x : State), s.live → (s.tile t.val).startedHead 4 (fun p => veVop p == 1) = some c →
    (s.tile t.val).ve.kload = none → (s.tile t.val).ve.issuing = none → s.waitCause t.val 4 c = 0 →
    bits (kloadBase c.payload) 18 17 = 0 → bits (kloadBase c.payload) 4 0 = 0 →
    bits (kloadBase c.payload) 16 5 + (kloadKn c.payload + 15) / 16 ≤ 4096 →
    State.copyChunks t.val (kloadBase c.payload) (kloadKslot c.payload) (kloadKn c.payload) ((kloadKn c.payload + 15) / 16) 0
      (((s.commit t.val 4 c).2.setF (aVeStatus t.val) 1 1 1).onVe t.val (fun v => { v with kmemOld := v.kmem })) = (0, 0, x) →
    Answers (.kload t) s (fun u =>
      (u.tile t.val).ve = { (x.tile t.val).ve with kload := some (c, none), kloadPosted := false } ∧
      u = { x with tiles := u.tiles } ∧ x.tilesBut t.val u)) ∧
  (∀ (s : State) (t : TileId) (i : Nat) (fl : Flight), s.live → (s.tile t.val).ve.flight[i]? = some fl →
    (∀ e ∈ (s.tile t.val).ve.flight.take i, (∀ r ∈ e.regs, ∀ q ∈ fl.regs, q.1 ≠ r.1) ∧ ∀ r ∈ e.masks, ∀ q ∈ fl.masks, q.1 ≠ r.1) →
    Answers (.veResultLanding t i) s (fun u =>
      (u.tile t.val).ve.flight = (s.tile t.val).ve.flight.eraseIdx i ∧
      (∀ k, (u.tile t.val).ve.reg k = match (fl.regs.filter (fun r => r.1 == k)).getLast? with
        | some r => r.2.toNat | none => (s.tile t.val).ve.reg k) ∧
      (∀ k, (u.tile t.val).ve.mask k = match (fl.masks.filter (fun r => r.1 == k)).getLast? with
        | some r => r.2.toNat | none => (s.tile t.val).ve.mask k) ∧
      (u.tile t.val).spad = (s.tile t.val).spad ∧ s.tilesBut t.val u ∧ u = { s with tiles := u.tiles })) ∧
  (∀ (s : State) (t : TileId) (a : BitVec 21) (b : Bool) (r : VeRun), s.live → (s.tile t.val).ve.issuing = some r →
    (s.tile t.val).ve.kload = none → r.parity = none → Answers (.veParityStop t a b) s (fun u =>
      (u.tile t.val).ve.run = some { r with parity := some a.toNat, stopped := true } ∧ (u.tile t.val).veNext = none ∧
      (u.lastEvent (rimTile t.val 5)).map (·.1) = some 0x53 ∧ s.tilesBut t.val u ∧
      (if ((s.tile t.val).ve.kernel r.cmd.payload).any isClrLoad = true
       then u.sq t.val = sqFaulted ∧ u.getF (aSqFault t.val) 7 0 = 0x09
       else (u.tile t.val).seq.parityDue = some r.cmd.entry ∧ u.sq t.val = s.sq t.val))) ∧
  (∀ (s : State) (t : TileId) (a : BitVec 21) (b : Bool) (c : Cmd) (k : Nat), s.live →
    (s.tile t.val).ve.kload = some (c, none) → kloadChunk c.payload a.toNat = some k → Answers (.veParityStop t a b) s (fun u =>
      (u.tile t.val).ve.kload = some (c, some a.toNat) ∧ (u.tile t.val).ve.kmem = (s.tile t.val).ve.kmemFrom c.payload k ∧
      (u.tile t.val).seq.parityDue = some c.entry ∧ (u.lastEvent (rimTile t.val 5)).map (·.1) = some 0x53 ∧
      u.sq t.val = s.sq t.val ∧ s.tilesBut t.val u)) ∧
  (∀ (s : State) (t : TileId) (n : Fin 8) (r : VeRun), s.live → (s.tile t.val).ve.ending = [] →
    (s.tile t.val).ve.run = some r → (s.tile t.val).ve.runDone r = true → r.parity = none → r.handles = [] →
    s.sigsPass r.cmd.sigs → s.getF (aSqStatus t.val) 11 11 = 0 → Answers (.commandCompletion t 4 n) s (fun u =>
      (u.tile t.val).ve = { (s.tile t.val).ve with run := none } ∧
      (u.tile t.val).seq.completed = (s.tile t.val).seq.completed + 1 ∧
      u.lastEvent (rimTile t.val 5) = some (0x51, r.cmd.entry % 2 ^ 24, r.issued % 2 ^ 48) ∧
      u.sync.ops = s.sync.ops ++ State.opsOf t.val r.cmd.sigs ∧ u.regs = s.regs ∧ s.tilesBut t.val u)) ∧
  (∀ (s : State) (t : TileId) (n : Fin 8) (c : Cmd), s.live → (s.tile t.val).ve.ending = [] → (s.tile t.val).ve.run = none →
    (s.tile t.val).ve.kload = some (c, none) → s.sigsPass c.sigs → s.getF (aSqStatus t.val) 11 11 = 0 →
    Answers (.commandCompletion t 4 n) s (fun u =>
      (u.tile t.val).ve.kload = none ∧ (u.tile t.val).ve.kmem = (s.tile t.val).ve.kmem ∧ u.getF (aVeStatus t.val) 1 1 = 0 ∧
      (u.tile t.val).seq.completed = (s.tile t.val).seq.completed + 1 ∧
      (u.lastEvent (rimTile t.val 5)).map (·.1) = some 0x52 ∧
      u.sync.ops = s.sync.ops ++ State.opsOf t.val c.sigs ∧ s.tilesBut t.val u))

/-! ### The stream engine -/

/-- R213, R218, R227–R231, R262 and R292. -/
def Obligations.StreamCommandsCommit : Prop :=
  (∀ (s : State) (t : TileId) (c : Cmd), s.live → s.copyCommits t.val c →
    (farKind (seSkind c.payload) || farKind (seDkind c.payload)) = true →
    let p := c.payload
    let k := s.commit t.val 5 c
    Answers (.copy t) s (fun u =>
      let x := (u.tile t.val).ctx (seCtxNo p)
      x.state = .running ∧ x.cmd = some c ∧ x.handles = k.1 ∧ x.unit = 0 ∧ x.sub = 0 ∧ x.fault = none ∧ x.err = none ∧
      x.srcPat = k.2.pattern t.val (sePat0 p) ∧ x.dstPat = k.2.pattern t.val (sePat1 p) ∧
      x.srcBase = copyBase k.1 (seSkind p) 0 (seBase0 p) ∧ x.dstBase = copyBase k.1 (seDkind p) 1 (seBase1 p) ∧
      x.units = patSteps (k.2.pattern t.val (sePat0 p)) / (if seTrn p then transposeRows p else 1) ∧
      u.rdN (aSeCtxStatus t.val (seCtxNo p)) = 1 ∧ (u.tile t.val).spad = (s.tile t.val).spad ∧
      (u.tile t.val).queue 5 = ((s.tile t.val).queue 5).tail ∧
      s.tilesBut t.val u ∧ u.sync.objs = s.sync.objs ∧ u.mem = s.mem)) ∧
  (∀ (s : State) (t : TileId) (c : Cmd), s.live → s.copyCommits t.val c → seSkind c.payload = 0 → seDkind c.payload = 0 →
    seTrn c.payload = false →
    let p := c.payload
    let k := s.commit t.val 5 c
    let src := spadRange (genAddr 21 (k.2.pattern t.val (sePat0 p)) (copyBase k.1 0 0 (seBase0 p)) 0) (seBytes p)
    let dst := spadRange (genAddr 21 (k.2.pattern t.val (sePat1 p)) (copyBase k.1 0 1 (seBase1 p)) 0) (seBytes p)
    patSteps (k.2.pattern t.val (sePat0 p)) = 1 → ((s.tile t.val).readAt src).ok = true →
    Answers (.copy t) s (fun u =>
      (∀ i < seBytes p, (u.tile t.val).byte (nth dst i) = (s.tile t.val).byte (nth src i)) ∧
      (∀ a, a ∉ dst → (u.tile t.val).byte a = (s.tile t.val).byte a) ∧
      ((u.tile t.val).ctx (seCtxNo p)).state = .running ∧ ((u.tile t.val).ctx (seCtxNo p)).unit = 1 ∧
      s.tilesBut t.val u ∧ u.sync.objs = s.sync.objs ∧ u.mem = s.mem)) ∧
  (∀ (s : State) (t : TileId) (c : Cmd), s.live → s.seStarts t.val 1 c → auxBase c.payload % 32 = 0 →
    let p := c.payload
    let rd (i : Nat) : SpadRead := (s.tile t.val).readAt (spadRange (auxBase p + 64 * i) 64)
    let word (i w : Nat) : Nat := leVal (((rd i).data.drop (8 * w)).take 8)
    0 < ploadSlot p → ploadSlot p + ploadCount p ≤ 128 →
    (∀ i < ploadCount p, (rd i).ok = true ∧ (∀ w < 6, bits (word i w) 20 0 ≤ 2 ^ 20) ∧ word i 6 = 0 ∧ word i 7 = 0) →
    Answers (.pload t) s (fun u =>
      (∀ i < ploadCount p, ∀ w < 6, u.rdN (aTilePat t.val (ploadSlot p + i) w) = word i w) ∧
      (u.tile t.val).seAux = some (c, false) ∧ (u.tile t.val).spad = (s.tile t.val).spad ∧ s.tilesBut t.val u ∧
      u.sync.objs = s.sync.objs ∧ u.mem = s.mem)) ∧
  (∀ (s : State) (t : TileId) (c : Cmd), s.live → s.seStarts t.val 2 c → auxBase c.payload % 32 = 0 →
    let p := c.payload
    let r := (s.tile t.val).readAt (spadRange (auxBase p) (8 * qpushN p))
    r.ok = true → Answers (.qpush t) s (fun u =>
      u.wqCount t.val (qpushQ p) = s.wqCount t.val (qpushQ p) + qpushN p ∧
      (∀ i < qpushN p, u.wqHandle t.val (qpushQ p) (s.wqCount t.val (qpushQ p) + i) = leVal ((r.data.drop (8 * i)).take 8)) ∧
      (∀ i < s.wqCount t.val (qpushQ p), u.wqHandle t.val (qpushQ p) i = s.wqHandle t.val (qpushQ p) i) ∧
      (u.tile t.val).seAux = some (c, false) ∧ (u.tile t.val).spad = (s.tile t.val).spad ∧ s.tilesBut t.val u ∧
      u.sync.objs = s.sync.objs ∧ u.mem = s.mem)) ∧
  (∀ (s : State) (t : TileId) (c : Cmd), s.live → (s.tile t.val).startedHead 5 (fun p => seSop p == 0) = some c →
    ((s.tile t.val).ctx (seCtxNo c.payload)).cmd.isSome = true → Answers (.copy t) s (fun u => u = s)) ∧
  (∀ (s : State) (t : TileId) (c : Cmd) (x : Nat × Instr), s.live → x = (1, .pload t) ∨ x = (2, .qpush t) →
    s.seStarts t.val x.1 c → auxBase c.payload % 32 ≠ 0 → Answers x.2 s (fun u =>
      u.sq t.val = sqFaulted ∧ u.getF (aSqFault t.val) 7 0 = 0x07 ∧ u.faults.length = s.faults.length + 1 ∧
      (u.tile t.val).seAux = none ∧ (u.tile t.val).spad = (s.tile t.val).spad ∧
      (∀ i < 128, ∀ w < 8, u.rd (aTilePat t.val i w) = s.rd (aTilePat t.val i w)) ∧
      u.lastEvent (rimTile t.val (c.target + 1)) = some (0x85, c.entry % 2 ^ 24, 0) ∧ s.tilesBut t.val u ∧ u.mem = s.mem))

/-- R263, R264, R273–R275, R277, R281, R295 and R297. -/
def Obligations.FarRequestsAreTranslatedAndIssued : Prop :=
  let kind (k : SeCtx) (w : Bool) : Nat := if w then seDkind k.pay else seSkind k.pay
  let reaches (s : State) (t : TileId) (e : XlEntry) (a len : Nat) : Prop :=
    e.dev = s.devId ∧ e.space = 0 ∧ s.pageAllowed (s.tilePartD t.val) e.dev 0 (pageAddr e.big e.base a) = true ∧
    pageAddr e.big e.base a + len ≤ s.ddrBytes
  (∀ (s : State) (t : TileId) (c : Fin 8) (w : Bool) (row a len : Nat), s.live → s.farTurn t.val c.val w row a len →
    kind ((s.tile t.val).ctx c.val) w ≠ 3 → s.xlHit t.val a = none →
    Answers (.farRequestIssue t c) s (fun u =>
      (u.tile t.val).ctx c.val = { (s.tile t.val).ctx c.val with walk := some a } ∧ s.tilesBut t.val u ∧
      s.regsBut (fun x => x = aSeCtxStatus t.val c.val) u ∧ u = { s with regs := u.regs, tiles := u.tiles })) ∧
  (∀ (s : State) (t : TileId) (c : Fin 8) (row a len : Nat) (e : XlEntry), s.live → s.farTurn t.val c.val false row a len →
    0 < len → kind ((s.tile t.val).ctx c.val) false ≠ 3 → s.xlHit t.val a = some e → reaches s t e a len →
    s.getF (aSePfCtrl t.val) 0 0 = 0 → Answers (.farRequestIssue t c) s (fun u =>
      let k := (s.tile t.val).ctx c.val
      (∃ r, u.mem = { s.mem with reqs := s.mem.reqs ++ [r], nextId := s.mem.nextId + 1 } ∧ r.id = s.mem.nextId ∧
        r.origin = .ctx t.val c.val ∧ r.stage = .lane ∧ r.lane = t.val % 16 ∧ r.write = false ∧ r.step = k.stepOf row ∧
        r.va = a ∧ r.space = 0 ∧ r.off = pageAddr e.big e.base a ∧ r.len = len ∧ r.cls = seClass k.pay ∧ r.reuse = seReuse k.pay) ∧
      (u.tile t.val).ctx c.val = { k with sub := k.sub + 1 }.advance ∧ (u.tile t.val).lastCtx = c.val ∧
      (u.tile t.val).xl.head? = some e ∧ u.rd (aCntSeRdBytes t.val) = s.rd (aCntSeRdBytes t.val) + BitVec.ofNat 64 len ∧
      s.regsBut (fun x => x = aSeCtxStatus t.val c.val ∨ x = aCntSeRdBytes t.val) u ∧ s.tilesBut t.val u ∧
      (u.tile t.val).spad = (s.tile t.val).spad ∧ u = { s with regs := u.regs, tiles := u.tiles, mem := u.mem })) ∧
  (∀ (s : State) (t : TileId) (c : Fin 8) (row a len : Nat) (e : XlEntry), s.live → s.farTurn t.val c.val true row a len →
    let k := (s.tile t.val).ctx c.val
    let src := spadRange (k.srcAddr (k.stepOf row) + (a - k.dstAddr (k.stepOf row))) len
    0 < len → seDkind k.pay = 2 → seSkind k.pay = 0 → seTrn k.pay = false → s.xlHit t.val a = some e → e.wr = true →
    reaches s t e a len → s.getF (aSePfCtrl t.val) 0 0 = 0 →
    ((s.tile t.val).readAt src).ok = true → Answers (.farRequestIssue t c) s (fun u =>
      (∃ r, u.mem = { s.mem with reqs := s.mem.reqs ++ [r], nextId := s.mem.nextId + 1 } ∧ r.write = true ∧ r.stage = .lane ∧
        r.origin = .ctx t.val c.val ∧ r.off = pageAddr e.big e.base a ∧ r.len = len ∧ r.poison = 0 ∧
        r.data = src.map ((s.tile t.val).byte ·)) ∧
      u.rd (aCntSeWrBytes t.val) = s.rd (aCntSeWrBytes t.val) + BitVec.ofNat 64 len ∧
      (u.tile t.val).spad = (s.tile t.val).spad ∧ s.tilesBut t.val u ∧
      u = { s with regs := u.regs, tiles := u.tiles, mem := u.mem })) ∧
  (∀ (s : State) (t : TileId) (c : Fin 8) (row a len : Nat), s.live → s.farTurn t.val c.val false row a len →
    let k := (s.tile t.val).ctx c.val
    0 < len → seSkind k.pay = 3 → seDevreg k.pay = 0 → bits a 47 45 = 1 → bits a 44 31 = 0 →
    Answers (.farRequestIssue t c) s (fun u =>
      (∃ r, u.mem = { s.mem with reqs := s.mem.reqs ++ [r], nextId := s.mem.nextId + 1 } ∧ r.origin = .ctx t.val c.val ∧
        r.stage = .window ∧ r.write = false ∧ r.space = 1 ∧ r.off = bits a 44 0 ∧ r.len = len ∧ r.va = a) ∧
      (u.tile t.val).spad = (s.tile t.val).spad ∧ s.tilesBut t.val u ∧
      u = { s with regs := u.regs, tiles := u.tiles, mem := u.mem })) ∧
  (∀ (s : State) (t : TileId) (c : Fin 8) (row a len : Nat) (e : XlEntry), s.live → s.farTurn t.val c.val true row a len →
    kind ((s.tile t.val).ctx c.val) true ≠ 3 → s.xlHit t.val a = some e → e.wr = false →
    Answers (.farRequestIssue t c) s (fun u =>
      let k := (s.tile t.val).ctx c.val
      ((u.tile t.val).ctx c.val).state = .draining ∧ ((u.tile t.val).ctx c.val).fault = some (k.stepOf row, 2, a) ∧
      u = { s with regs := u.regs, tiles := u.tiles })) ∧
  (∀ (s : State) (t : TileId) (c : Fin 8) (w : Bool) (row a len : Nat), s.live → s.farTurn t.val c.val w row a len →
    let k := (s.tile t.val).ctx c.val
    kind k w = 3 → bits a 47 45 ≠ 1 → bits a 47 45 ≠ 3 → Answers (.farRequestIssue t c) s (fun u =>
      let dev := if seDevreg k.pay = 0 then s.devId else (k.cmd.map (·.dev)).getD 0
      ((u.tile t.val).ctx c.val).state = .draining ∧
      ((u.tile t.val).ctx c.val).fault = some (k.stepOf row, 3, dev * 2 ^ 48 + a) ∧
      u = { s with regs := u.regs, tiles := u.tiles })) ∧
  (∀ (s : State) (t : TileId) (c : Fin 8), s.live → ((s.tile t.val).ctx c.val).issuing = true → s.capWaits t.val c.val ≠ [] →
    (∀ r ∈ s.capWaits t.val c.val, r.stage ≠ .capWait true true ∧ r.stage ≠ .capWait false true) →
    Answers (.farRequestIssue t c) s (fun u => u = s.cnt (aCntSeCapWait t.val))) ∧
  (∀ (s : State) (t : TileId) (c : Fin 8) (r : Req), s.live → ((s.tile t.val).ctx c.val).issuing = true →
    (s.capWaits t.val c.val).find? (fun r => r.stage == .capWait true true || r.stage == .capWait false true) = some r →
    s.findReq r.id = some r → s.seTurn t.val c.val = true → s.farUsed t.val < 64 →
    Answers (.farRequestIssue t c) s (fun u =>
      u.mem = { s.mem with reqs := s.mem.reqs.filter (fun q => decide (q.id ≠ r.id)) ++ [{ r with stage := .lane }] } ∧
      (u.tile t.val).lastCtx = c.val ∧ (u.tile t.val).ctxs = (s.tile t.val).ctxs ∧ s.tilesBut t.val u ∧
      u = { s with tiles := u.tiles, mem := u.mem })) ∧
  (∀ (s : State) (t : TileId) (c : Fin 8), s.live → s.seReady t.val c.val = true → s.seTurn t.val c.val = true →
    64 ≤ s.farUsed t.val → Answers (.farRequestIssue t c) s (fun u =>
      u.rd (aCntSeFarWait t.val) = s.rd (aCntSeFarWait t.val) + 1 ∧
      s.regsBut (fun x => x = aCntSeFarWait t.val ∨ x = aCntStall t.val 5 0) u ∧ u = { s with regs := u.regs }))

/-- R31, R147, R203, R264–R269 and R277. -/
def Obligations.FarResponsesReachTheContext : Prop :=
  let came (s : State) (t : TileId) (c : Fin 8) (id : Nat) (r : Req) : Prop :=
    s.live ∧ s.findReq id = some r ∧ r.ofCtx t.val c.val = true ∧ r.stage = .answered
  let mine (s : State) (t : TileId) (c : Fin 8) (id : Nat) (r : Req) : Prop :=
    came s t c id r ∧ s.firstAnswer r = true ∧ ((s.tile t.val).ctx c.val).err ≠ some (0, 0)
  let without (s : State) (id : Nat) : List Req := s.mem.reqs.filter (fun q => decide (q.id ≠ id))
  (∀ (s : State) (t : TileId) (c : Fin 8) (id : Nat) (r : Req), mine s t c id r → r.status = 0 → r.write = true →
    (seWen ((s.tile t.val).ctx c.val).pay = true → r.win = some (seWnum ((s.tile t.val).ctx c.val).pay)) →
    Answers (.farResponse t c id) s (fun u => u = { s with mem := { s.mem with reqs := without s id } })) ∧
  (∀ (s : State) (t : TileId) (c : Fin 8) (id : Nat) (r : Req), mine s t c id r → r.status = 0 → r.write = false →
    let k := (s.tile t.val).ctx c.val
    let dst := spadRange (k.dstAddr r.step + r.pos) r.data.length
    seDkind k.pay = 0 → seTrn k.pay = false → r.data.length ≤ 2 ^ 21 → r.poison = 0 →
    Answers (.farResponse t c id) s (fun u =>
      (∀ i < r.data.length, (u.tile t.val).byte (nth dst i) = r.data.getD i 0) ∧
      (∀ a, a ∉ dst → (u.tile t.val).byte a = (s.tile t.val).byte a) ∧
      u.mem = { s.mem with reqs := without s id } ∧ s.tilesBut t.val u ∧
      u = { s with regs := u.regs, tiles := u.tiles, mem := u.mem })) ∧
  (∀ (s : State) (t : TileId) (c : Fin 8) (id : Nat) (r : Req), mine s t c id r → r.status = 0x30 →
    ((s.tile t.val).ctx c.val).err = none → ((s.tile t.val).ctx c.val).fault = none →
    Answers (.farResponse t c id) s (fun u =>
      let k := (s.tile t.val).ctx c.val
      ((u.tile t.val).ctx c.val).state = .draining ∧
      ((u.tile t.val).ctx c.val).fault = some (r.step, 4,
        if (if r.write then seDkind k.pay else seSkind k.pay) = 3 then r.dev * 2 ^ 48 + r.va else r.va) ∧
      u.mem.reqs = without s id ∧ (u.tile t.val).spad = (s.tile t.val).spad ∧ s.tilesBut t.val u)) ∧
  (∀ (s : State) (t : TileId) (c : Fin 8) (id : Nat) (r : Req), mine s t c id r → r.status = 0 → r.write = true →
    (r.space = 1 ∨ r.space = 3) → seWen ((s.tile t.val).ctx c.val).pay = true →
    r.win ≠ some (seWnum ((s.tile t.val).ctx c.val).pay) → ((s.tile t.val).ctx c.val).err = none →
    ((s.tile t.val).ctx c.val).fault = none → Answers (.farResponse t c id) s (fun u =>
      ((u.tile t.val).ctx c.val).err = some (0x11, r.win.getD 0) ∧ u.getF (aSeCtxStatus t.val c.val) 11 4 = 0x11 ∧
      u.mem.reqs = without s id ∧ (u.tile t.val).spad = (s.tile t.val).spad ∧ s.tilesBut t.val u)) ∧
  (∀ (s : State) (t : TileId) (c : Fin 8) (id : Nat) (r : Req), mine s t c id r → r.status ≠ 0 → r.status ≠ 0x30 →
    ((s.tile t.val).ctx c.val).err = none → ((s.tile t.val).ctx c.val).fault = none →
    Answers (.farResponse t c id) s (fun u =>
      let cause := if r.status = 0x25 ∨ r.status = 0x26 then 0x12 else 0x10
      ((u.tile t.val).ctx c.val).err = some (cause, r.status) ∧ u.getF (aSeCtxStatus t.val c.val) 11 4 = cause ∧
      u.mem.reqs = without s id ∧ (u.tile t.val).spad = (s.tile t.val).spad ∧ s.tilesBut t.val u)) ∧
  (∀ (s : State) (t : TileId) (c : Fin 8) (id : Nat) (r : Req), came s t c id r →
    (s.firstAnswer r = false → Answers (.farResponse t c id) s (fun u => u = s)) ∧
    (s.firstAnswer r = true → ((s.tile t.val).ctx c.val).err = some (0, 0) →
      Answers (.farResponse t c id) s (fun u => u = { s with mem := { s.mem with reqs := without s id } })))

/-- R277–R279, R292 and R293. -/
def Obligations.ContextsHaltResumeAndAbort : Prop :=
  (∀ (s : State) (t : TileId) (c : Fin 8) (n cause a : Nat), s.live → ((s.tile t.val).ctx c.val).state = .draining →
    ((s.tile t.val).ctx c.val).fault = some (n, cause, a) → s.outs t.val c.val = [] →
    Answers (.contextHalt t c) s (fun u =>
      let step := min n ((s.tile t.val).ctx c.val).openStep
      ((u.tile t.val).ctx c.val).state = .halted ∧ ((u.tile t.val).ctx c.val).fault = some (step, cause, a) ∧
      u.rdN (aSeCtxStep t.val c.val) = step % 2 ^ 48 ∧ u.rdN (aSeCtxFaddr t.val c.val) = a % 2 ^ 64 ∧
      u.getF (aSeCtxStatus t.val c.val) 11 4 = cause % 256 ∧ u.getF (aSeCtxStatus t.val c.val) 1 0 = 2 ∧
      u.lastEvent (rimTile t.val (7 + c.val)) = some (0x90, ((s.tile t.val).ctx c.val).entry % 2 ^ 24, a % 2 ^ 48) ∧
      (u.tile t.val).spad = (s.tile t.val).spad ∧ u.mem = s.mem ∧ u.sync.objs = s.sync.objs)) ∧
  (∀ (s : State) (t : TileId) (c : Fin 8) (r : Req) (f : Nat × Nat × Nat), s.live →
    ((s.tile t.val).ctx c.val).state = .draining → ((s.tile t.val).ctx c.val).fault = some f → r ∈ s.outs t.val c.val →
    (∀ a b, r.stage ≠ .capWait a b) → Answers (.contextHalt t c) s (fun u => u = s)) ∧
  (∀ (s : State) (t : TileId) (c : Fin 8) (n cause a : Nat), s.live → ((s.tile t.val).ctx c.val).state = .halted →
    ((s.tile t.val).ctx c.val).fault = some (n, cause, a) → Answers (.seCtxResume t c) s (fun u =>
      let k := (s.tile t.val).ctx c.val
      ((u.tile t.val).ctx c.val).state = .running ∧ ((u.tile t.val).ctx c.val).fault = none ∧
      ((u.tile t.val).ctx c.val).unit = n / k.rows ∧ ((u.tile t.val).ctx c.val).row0 = n % k.rows ∧
      u.getF (aSeCtxStatus t.val c.val) 11 4 = 0 ∧
      u.lastEvent (rimTile t.val (7 + c.val)) = some (0x91, k.entry % 2 ^ 24, n % 2 ^ 48) ∧
      s.regsBut (fun x => x = aSeCtxStatus t.val c.val) u ∧ s.tilesBut t.val u ∧
      u = { s with regs := u.regs, tiles := u.tiles, rims := u.rims })) ∧
  (∀ (s : State) (t : TileId) (c : Fin 8), s.live → ((s.tile t.val).ctx c.val).state = .halted →
    Answers (.seCtxAbort t c) s (fun u =>
      (u.tile t.val).ctx c.val = {} ∧ u.sq t.val = sqFaulted ∧ u.getF (aSqFault t.val) 7 0 = 0x08 ∧
      u.lastEvent (rimTile t.val (7 + c.val)) = some (0x92, ((s.tile t.val).ctx c.val).entry % 2 ^ 24, c.val) ∧
      u.faults.length = s.faults.length + 1 ∧ u.sync = s.sync ∧ u.mem = s.mem ∧ s.tilesBut t.val u)) ∧
  (∀ (s : State) (t : TileId) (c : Fin 8), s.live → ((s.tile t.val).ctx c.val).state ≠ .halted →
    Answers (.seCtxResume t c) s (fun u => u = s.postMp 0xD6 1 (aSeCtxCtrl t.val c.val)) ∧
    Answers (.seCtxAbort t c) s (fun u => u = s.postMp 0xD6 2 (aSeCtxCtrl t.val c.val)))

/-- R274–R277, R280, R281 and R295. -/
def Obligations.TranslationsAreCachedAndDropped : Prop :=
  let walks (s : State) (t : TileId) (c : Fin 8) (va : Nat) : Prop :=
    s.live ∧ ((s.tile t.val).ctx c.val).walk = some va ∧ s.walkFree (s.tilePartD t.val) va = true
  (∀ (s s1 : State) (t : TileId) (c : Fin 8) (va : Nat) (e : XlEntry), walks s t c va →
    s.walkInto t.val va = (.inr e, s1) → Answers (.translationWalkComplete t c false) s (fun u =>
      (u.tile t.val).ctx c.val = { (s.tile t.val).ctx c.val with walk := none } ∧ (u.tile t.val).xl.head? = some e ∧
      (u.tile t.val).xl.length ≤ 32 ∧ s.tilesBut t.val u ∧ u.sync = s.sync)) ∧
  (∀ (s s1 : State) (t : TileId) (c : Fin 8) (va cause : Nat), walks s t c va →
    ((s.tile t.val).ctx c.val).fault = none → s.walkInto t.val va = (.inl cause, s1) →
    Answers (.translationWalkComplete t c false) s (fun u =>
      ((u.tile t.val).ctx c.val).state = .draining ∧
      ((u.tile t.val).ctx c.val).fault.map (·.2) = some (cause, va) ∧ ((u.tile t.val).ctx c.val).walk = none ∧
      (u.tile t.val).xl = (s.tile t.val).xl ∧ s.tilesBut t.val u ∧ u.sync = s.sync)) ∧
  (∀ (s : State) (t : TileId) (c : Fin 8) (va : Nat), walks s t c va →
    ((s.tile t.val).ctx c.val).fault = none → Answers (.translationWalkComplete t c true) s (fun u =>
      ((u.tile t.val).ctx c.val).state = .draining ∧ ((u.tile t.val).ctx c.val).fault.map (·.2) = some (5, va) ∧
      (u.tile t.val).xl = (s.tile t.val).xl ∧ u = { s with regs := u.regs, tiles := u.tiles })) ∧
  (∀ (s : State) (t : TileId) (c : Fin 8) (va : Nat) (b : Bool), s.live → ((s.tile t.val).ctx c.val).walk = some va →
    s.walkFree (s.tilePartD t.val) va = false → Answers (.translationWalkComplete t c b) s (fun u =>
      s.regsBut (fun x => ∃ q < 4, x = aCntCapWait q) u ∧ u = { s with regs := u.regs })) ∧
  (∀ (s : State) (p : PartId) (all : Bool), s.live → Answers (.seXlateInv p all) s (fun u =>
      u.getF aSeXlateInv 31 31 = 1 ∧ u.mem.xlInv = s.mem.xlInv ||| (if all then 0xFFFF else 2 ^ p.val) ∧
      s.regsBut (fun x => x = aSeXlateInv) u ∧ u.tiles = s.tiles ∧ u = { s with regs := u.regs, mem := u.mem })) ∧
  (∀ (s : State), s.live → s.getF aSeXlateInv 31 31 = 1 → Answers .xlateInvComplete s (fun u =>
      u.getF aSeXlateInv 31 31 = 0 ∧ u.mem.xlInv = 0 ∧
      (∀ t, (u.tile t).xl = (s.tile t).xl.filter (fun e => !bit s.mem.xlInv e.part)) ∧
      (∀ t, (u.tile t).spad = (s.tile t).spad ∧ (u.tile t).ctxs = (s.tile t).ctxs) ∧
      s.regsBut (fun x => x = aSeXlateInv) u ∧ u.sync = s.sync)) ∧
  (∀ (s : State), s.live → s.getF aSeXlateInv 31 31 = 0 → Answers .xlateInvComplete s (fun u => u = s))

/-! ### Scratchpad, windows and the strong code -/

/-- R31, R151–R153, R158 and R508. -/
def Obligations.WindowAccessesAreCheckedAndPerformed : Prop :=
  let came (s : State) (t : TileId) (id : Nat) (r : Req) (a b : Nat) : Prop :=
    s.live ∧ s.findReq id = some r ∧ r.stage = .window ∧ bits r.off 30 21 = t.val ∧ r.origin = .ctx a b
  let at_ (s : State) (t : TileId) (id : Nat) (r : Req) (a b : Nat) : Prop :=
    came s t id r a b ∧ s.firstToWindow r = true
  let src (s : State) (a : Nat) : WinSource := { dev := s.devId, tile := some a }
  let answered (s : State) (id : Nat) (r : Req) (u : State) : Prop :=
    u.mem.reqs = s.mem.reqs.filter (fun q => decide (q.id ≠ id)) ++ [r]
  (∀ (s : State) (t : TileId) (id a b n : Nat) (r : Req), at_ s t id r a b → s.isolatedTile t.val = false → r.space ≠ 3 →
    r.write = true → r.poison = 0 → r.data.length = r.len → r.len ≤ 2 ^ 21 →
    s.winCheck t.val false true (bits r.off 20 0) r.len (src s a) = (0, some n) →
    Answers (.windowAccess t id) s (fun u =>
      let dst := spadRange (bits r.off 20 0) r.len
      (∀ i < r.len, (u.tile t.val).byte (nth dst i) = r.data.getD i 0) ∧
      (∀ x, x ∉ dst → (u.tile t.val).byte x = (s.tile t.val).byte x) ∧
      answered s id { r with stage := .answered, bank := none, status := 0, win := some n } u ∧
      s.regsBut (fun x => x = aCntSpadWrBytes t.val) u ∧ s.tilesBut t.val u ∧
      u = { s with regs := u.regs, tiles := u.tiles, mem := u.mem })) ∧
  (∀ (s : State) (t : TileId) (id a b n : Nat) (r : Req), at_ s t id r a b → s.isolatedTile t.val = false → r.space = 3 →
    r.write = true → r.poison = 0 → r.data.length = r.len →
    s.winCheck t.val true true (bits r.off 20 0) r.len (src s a) = (0, some n) →
    Answers (.windowAccess t id) s (fun u =>
      let lo := bits r.off 20 0
      (∀ i < r.len, (u.tile t.val).gabByte (lo + i) = r.data.getD i 0) ∧
      (∀ x, x < 2 ^ 20 → (x < lo ∨ lo + r.len ≤ x) → (u.tile t.val).gabByte x = (s.tile t.val).gabByte x) ∧
      (u.tile t.val).spad = (s.tile t.val).spad ∧
      answered s id { r with stage := .answered, bank := none, status := 0, win := some n } u ∧
      s.regsBut (fun x => x = aCntGabWrBytes t.val) u ∧ s.tilesBut t.val u ∧
      u = { s with regs := u.regs, tiles := u.tiles, mem := u.mem })) ∧
  (∀ (s : State) (t : TileId) (id a b n : Nat) (r : Req), at_ s t id r a b → s.isolatedTile t.val = false → r.space ≠ 3 →
    r.write = false → s.winCheck t.val false false (bits r.off 20 0) r.len (src s a) = (0, some n) →
    ((s.tile t.val).readAt (spadRange (bits r.off 20 0) r.len)).ok = true → Answers (.windowAccess t id) s (fun u =>
      answered s id { r with stage := .answered, bank := none, status := 0, win := some n, poison := 0, data := (spadRange (bits r.off 20 0) r.len).map ((s.tile t.val).byte ·) } u ∧
      u.tiles = s.tiles ∧ u = { s with regs := u.regs, mem := u.mem })) ∧
  (∀ (s : State) (t : TileId) (id a b st : Nat) (n : Option Nat) (r : Req), at_ s t id r a b → s.isolatedTile t.val = false →
    s.winCheck t.val (r.space == 3) r.write (bits r.off 20 0) r.len (src s a) = (st, n) → st ≠ 0 →
    Answers (.windowAccess t id) s (fun u =>
      u.tiles = s.tiles ∧ u.rd (aCntWinRefused t.val) = s.rd (aCntWinRefused t.val) + 1 ∧
      (∀ k, n = some k → u.getF (aSpadWinStatus t.val k) 17 2 = min 0xFFFF (s.getF (aSpadWinStatus t.val k) 17 2 + 1)) ∧
      u.lastEvent (rimTile t.val 0) = some (0x60, s.devId % 2 ^ 24, bits r.off 20 0) ∧
      ((u.findReq id).map (fun q => (q.stage, q.status, q.win))) = some (.answered, st, n) ∧
      u = { s with regs := u.regs, rims := u.rims, mem := u.mem })) ∧
  (∀ (s : State) (t : TileId) (id a b : Nat) (r : Req), at_ s t id r a b → s.isolatedTile t.val = true →
    Answers (.windowAccess t id) s (fun u =>
      ((u.findReq id).map (fun q => (q.stage, q.status))) = some (.answered, 0x27) ∧ u = { s with mem := u.mem })) ∧
  (∀ (s : State) (t : TileId) (id a b : Nat) (r : Req), came s t id r a b → s.firstToWindow r = false →
    Answers (.windowAccess t id) s (fun u => u = s))

/-- R141, R143, R144, R147, R168, R171 and R177. -/
def Obligations.StrongCodeCorrectsAndFaults : Prop :=
  (∀ (s : State) (t : TileId) (a : BitVec 21) (errs : SymErrs) (es : List (Nat × Nat)), s.live →
    strongDecode (symErrs errs) = .corrected es → lightAddr a.toNat = false →
    mapGet false (s.tile t.val).spadBad (unitKey a.toNat) = false →
    Answers (.correctedWriteBack t .spad a errs) s (fun u =>
      (∀ i < 32, (u.tile t.val).byte (a.toNat / 32 * 32 + i) = (decodedData ((s.tile t.val).word32 .spad a.toNat)
        (symErrs errs) (.corrected es)).getD i ((s.tile t.val).byte (a.toNat / 32 * 32 + i))) ∧
      (∀ x, x / 32 ≠ a.toNat / 32 → (u.tile t.val).byte x = (s.tile t.val).byte x) ∧
      u.rd (aCntSpadCorr t.val) = s.rd (aCntSpadCorr t.val) + 1 ∧ u.rdN (aSpadErrAddr t.val) = a.toNat ∧
      s.regsBut (fun x => x = aCntSpadCorr t.val ∨ x = aSpadErrAddr t.val ∨ x = aSpadErrStatus t.val) u ∧
      s.tilesBut t.val u ∧ u = { s with regs := u.regs, tiles := u.tiles })) ∧
  (∀ (s : State) (t : TileId) (a : BitVec 21) (errs : SymErrs), s.live →
    (lightAddr a.toNat = true ∨ mapGet false (s.tile t.val).spadBad (unitKey a.toNat) = true ∨
      ∀ es, strongDecode (symErrs errs) ≠ .corrected es) →
    Answers (.correctedWriteBack t .spad a errs) s (fun u => u = s)) ∧
  (∀ (s : State) (t : TileId) (a : BitVec 21) (errs : SymErrs), s.live → strongDecode (symErrs errs) = .uncorrectable →
    lightAddr a.toNat = false → Answers (.uncorrectableRead t .seq .spad a errs) s (fun u =>
      mapGet false (u.tile t.val).spadBad (unitKey a.toNat) = true ∧
      (∀ x, x / 32 ≠ a.toNat / 32 → (u.tile t.val).byte x = (s.tile t.val).byte x) ∧
      u.rd (aCntSpadUncorr t.val) = s.rd (aCntSpadUncorr t.val) + 1 ∧ u.rdN (aSpadErrAddr t.val) = a.toNat ∧
      u.sq t.val = sqFaulted ∧ u.getF (aSqFault t.val) 7 0 = 0x04 ∧ u.faults.length = s.faults.length + 1 ∧
      s.tilesBut t.val u ∧ u.sync = s.sync ∧ u.mem = s.mem)) ∧
  (∀ (s : State) (t : TileId) (r : Reader) (a : BitVec 21) (errs : SymErrs), s.live →
    strongDecode (symErrs errs) = .uncorrectable →
    mapGet slathNone (s.tile t.val).slath (a.toNat / 64 % 1024) ≠ slathNone →
    Answers (.uncorrectableRead t r .slath a errs) s (fun u =>
      u.rd (aCntSqRefetch t.val) = s.rd (aCntSqRefetch t.val) + 1 ∧
      u.lastEvent (rimTile t.val 0) = some (0x78, (mapGet slathNone (s.tile t.val).slath (a.toNat / 64 % 1024)).1 % 2 ^ 24,
        (mapGet slathNone (s.tile t.val).slath (a.toNat / 64 % 1024)).1 % 1024) ∧
      u.faults = s.faults ∧ (u.tile t.val).spad = (s.tile t.val).spad ∧ s.tilesBut t.val u)) ∧
  (∀ (s : State) (t : TileId) (a : BitVec 21) (gab : Bool), s.live → Answers (.mergeWrite t a gab) s (fun u =>
      (gab = false → mapGet false (u.tile t.val).merges (unitKey a.toNat) = false) ∧
      (gab = true → mapGet false (u.tile t.val).gabMerges (a.toNat / 32) = false) ∧
      (u.tile t.val).spad = (s.tile t.val).spad ∧ (u.tile t.val).gab = (s.tile t.val).gab ∧ s.tilesBut t.val u ∧
      u = { s with tiles := u.tiles }))

/-! ### Arbiters, request slots, the L2 and DDR -/

/-- R251, R252, R254, R258, R280–R283, R289, R298, R332 and R336. -/
def Obligations.SlotsAreGrantedAndWaitersServed : Prop :=
  let came (s : State) (id : Nat) (r : Req) : Prop :=
    s.live ∧ s.findReq id = some r ∧ r.stage = .lane ∧ s.firstOfPath r .lane = true ∧ s.routerFull r = false
  let wins (s : State) (id : Nat) (r : Req) : Prop :=
    came s id r ∧ r.prefetch = false ∧ s.presents r = true ∧
    s.arbWinner (33792 + s.reqAgent r) (s.liveLanes (s.reqAgent r)) = some r.lane
  (∀ (s : State) (inst : Nat) (r : Fin 16), s.live → Answers (.arbiterWaitLimit inst r) s (fun u =>
      ((s.arbLive inst).contains r.val = true →
        ((u.arb inst).req r.val).wait = max ((s.arb inst).req r.val).wait (s.waitLimit inst)) ∧
      ((s.arbLive inst).contains r.val = false → u = s) ∧
      (∀ q, q ≠ r.val → (u.arb inst).req q = (s.arb inst).req q) ∧ (∀ i, i ≠ inst → u.arb i = s.arb i) ∧
      u = { s with mem := { s.mem with arbs := u.mem.arbs } })) ∧
  (∀ (s : State) (inst : Nat) (r : Fin 16), s.live → inst < 33800 → Answers (.arbiterSitOutEnd inst r) s (fun u =>
      (u.arb inst).req r.val = { (s.arb inst).req r.val with out := 0 } ∧
      (∀ q, q ≠ r.val → (u.arb inst).req q = (s.arb inst).req q) ∧ (∀ i, i ≠ inst → u.arb i = s.arb i) ∧
      u = { s with mem := { s.mem with arbs := u.mem.arbs } })) ∧
  (∀ (s : State) (p : PortId) (r : Fin 16), s.live → Answers (.arbiterSitOutEnd (33800 + p.val) r) s (fun u =>
      u = (s.setArb (33800 + p.val) ((s.arb (33800 + p.val)).put r.val
        { (s.arb (33800 + p.val)).req r.val with out := 0 })).pump p.val ∧
      u.tiles = s.tiles ∧ u.sync = s.sync ∧ u.mem.reqs = s.mem.reqs)) ∧
  (∀ (s : State) (id : Nat) (r : Req), wins s id r → s.agentSlots (s.reqAgent r) < 1024 ∨ s.reservedFor id = true →
    Answers (.slotGrant id) s (fun u =>
      s.reqNow id (fun q => { q with stage := .slot, bank := some (s.bankKey (s.reqOff r)) }) u ∧
      u.mem.waiters = s.mem.waiters.filter (·.id ≠ id) ∧ (u.arb (33792 + s.reqAgent r)).last = r.lane ∧
      (∀ i, i ≠ 33792 + s.reqAgent r → u.arb i = s.arb i) ∧ u = { s with mem := u.mem })) ∧
  (∀ (s : State) (id : Nat) (r : Req), wins s id r → 1024 ≤ s.agentSlots (s.reqAgent r) → s.reservedFor id = false →
    Answers (.slotGrant id) s (fun u => u.mem.reqs = s.mem.reqs ∧ u.mem.waiters = s.mem.waiters ∧
      (∀ i, i ≠ 33792 + s.reqAgent r → u.arb i = s.arb i) ∧ u = { s with mem := { s.mem with arbs := u.mem.arbs } })) ∧
  (∀ (s : State) (id w : Nat) (r : Req), came s id r → r.prefetch = false → s.presents r = true →
    s.arbWinner (33792 + s.reqAgent r) (s.liveLanes (s.reqAgent r)) = some w → w ≠ r.lane →
    Answers (.slotGrant id) s (fun u => u = s)) ∧
  (∀ (s : State) (id : Nat) (r : Req), s.live → s.findReq id = some r → (r.stage ≠ .lane ∨ s.firstOfPath r .lane = false) →
    Answers (.slotGrant id) s (fun u => u = s)) ∧
  (∀ (s : State) (id : Nat) (r : Req), came s id r → r.prefetch = false → s.presents r = false →
    s.mustRetry r = false → (∀ w ∈ s.mem.waiters, w.id ≠ id) → s.waitersOf (s.reqAgent r) < 4096 →
    Answers (.slotGrant id) s (fun u =>
      s.reqNow id (fun q => { q with stage := .capWait false false }) u ∧
      u.mem.waiters = s.mem.waiters ++ [{ id := id, bank := s.bankKey (s.reqOff r), reserved := false }] ∧
      u.rd (aCntCapWait (s.reqAgent r)) = s.rd (aCntCapWait (s.reqAgent r)) + 1 ∧
      s.regsBut (fun x => x = aCntCapWait (s.reqAgent r)) u ∧ u = { s with regs := u.regs, mem := u.mem })) ∧
  (∀ (s : State) (id : Nat) (r : Req), came s id r → r.prefetch = false → s.mustRetry r = true →
    Answers (.slotGrant id) s (fun u =>
      s.reqNow id (fun q => { q with stage := .capWait true false }) u ∧ u.mem.waiters = s.mem.waiters ∧
      u.rd (aCntCapWait (s.reqAgent r)) = s.rd (aCntCapWait (s.reqAgent r)) + 1 ∧
      s.regsBut (fun x => x = aCntCapWait (s.reqAgent r)) u ∧ u = { s with regs := u.regs, mem := u.mem })) ∧
  (∀ (s : State) (id : Nat) (r : Req), came s id r → r.prefetch = true →
    (s.presents r = false ∨ 960 < s.agentSlots (s.reqAgent r)) → Answers (.slotGrant id) s (fun u =>
      u.mem.reqs = s.mem.reqs.filter (fun q => decide (q.id ≠ id)) ∧ u.mem.waiters = s.mem.waiters ∧ u = { s with mem := u.mem })) ∧
  (∀ (s : State) (bank a b : Nat) (w : CapWaiter) (r : Req) (rt : Bool), s.live →
    (∀ x ∈ s.mem.waiters, x.bank = bank → x.reserved = false) →
    s.bankSlots bank < s.bankCap (bank / 512) → s.mem.waiters.find? (fun w => decide (w.bank = bank)) = some w →
    s.findReq w.id = some r → r.origin = .ctx a b → r.stage = .capWait rt false → Answers (.capWaitNotice bank) s (fun u =>
      u.findReq w.id = some { r with stage := .capWait rt true } ∧
      u.mem.waiters = s.mem.waiters.map (fun (x : CapWaiter) => if x.id = w.id then { x with reserved := true } else x) ∧
      u = { s with mem := u.mem })) ∧
  (∀ (s : State) (w x : CapWaiter) (rest : List CapWaiter) (r : Req) (rt rd : Bool), s.live →
    s.mem.waiters = w :: x :: rest → w.reserved = true → s.findReq w.id = some r → r.stage = .capWait rt rd →
    x.bank = w.bank → x.reserved = false → w.id ≠ x.id → (∀ y ∈ rest, y.id ≠ x.id) →
    Answers (.capReservationLapse w.bank) s (fun u =>
      u.mem.waiters = { x with reserved := true } :: { w with reserved := false } :: rest ∧ u = { s with mem := u.mem })) ∧
  (∀ (s : State) (t : TileId) (c : Fin 8) (r : Req), s.live →
    (s.capWaits t.val c.val).find? (fun r => r.stage == .capWait true false) = some r → s.findReq r.id = some r →
    Answers (.capRetryTimeout t c) s (fun u =>
      u.findReq r.id = some { r with stage := .capWait true true } ∧ u = { s with mem := { s.mem with reqs := u.mem.reqs } })) ∧
  (∀ (s : State) (t : TileId) (c : Fin 8) (r : Req) (rest : List Req), s.live → s.capWaits t.val c.val = r :: rest →
    Answers (.capWaitHeld1024 t c) s (fun u =>
      u.lastEvent (rimTile t.val (7 + c.val)) = some (0x93, ((s.tile t.val).ctx c.val).entry % 2 ^ 24, r.va % 2 ^ 48) ∧
      s.rimsBut (rimTile t.val (7 + c.val)) u ∧ u = { s with rims := u.rims }))

/-- R284–R288, R328: no path of the slice loses or misplaces a byte. -/
def Obligations.L2ReadsReturnLastWrite : Prop :=
  ∀ (s : State) (off : Nat) (data : List Byte) (poison cls reuse part cls' reuse' part' : Nat)
    (errs : List (List (Nat × BitVec 8))) (upset : Bool), off % 256 + data.length ≤ 256 →
    let u := (s.l2Serve off data.length true false data poison cls reuse part errs upset).2.2.2
    (u.l2Serve off data.length false false [] 0 cls' reuse' part' []).1 = data

/-- R31, R280, R282, R285–R290 and R296. -/
def Obligations.L2AnswersAndUnpins : Prop :=
  let holds (s : State) (id : Nat) (r : Req) : Prop := s.live ∧ s.findReq id = some r ∧ r.stage = .slot
  let without (s : State) (id : Nat) : List Req := s.mem.reqs.filter (fun q => decide (q.id ≠ id))
  let serve (s : State) (r : Req) (errs : List SymErrs) (upset : Bool) : List Byte × Nat × Bool × State :=
    s.l2Serve (s.reqOff r) r.len r.write r.prefetch r.data r.poison r.cls r.reuse r.part errs upset
  (∀ (s : State) (id a b : Nat) (r : Req) (errs : List SymErrs) (upset : Bool), holds s id r →
    s.firstOfPath r .slot = true → r.prefetch = false → r.origin = .ctx a b →
    Answers (.l2Access id errs upset) s (fun u =>
      let x := serve s r errs upset
      u.mem.reqs = without s id ++
        [{ r with stage := .answered, bank := none, status := 0, win := none, data := if r.write then r.data else x.1, poison := if r.write then r.poison else x.2.1 }] ∧
      u.mem.l2 = x.2.2.2.mem.l2 ∧ u.mem.ddr = x.2.2.2.mem.ddr ∧ u.tiles = s.tiles ∧ u.sync = s.sync ∧
      (∀ k, r.bank = some k → s.bankSlots k ≤ s.bankCap (k / 512) →
        ∀ w, s.mem.waiters.find? (fun y => decide (y.bank = k) && !y.reserved) = some w →
          u.mem.waiters = s.mem.waiters.map (fun (y : CapWaiter) => if y.id = w.id then { y with reserved := true } else y)))) ∧
  (∀ (s : State) (id ref : Nat) (r : Req) (errs : List SymErrs) (upset : Bool), holds s id r →
    s.firstOfPath r .slot = true → r.prefetch = false → r.origin = .fabric ref →
    Answers (.l2Access id errs upset) s (fun u =>
      let x := serve s r errs upset
      u.mem.reqs = without s id ∧ u.mem.l2 = x.2.2.2.mem.l2 ∧ u.mem.ddr = x.2.2.2.mem.ddr ∧
      u.fab.inreqs = s.fab.inreqs.filter (fun q => decide (q.ref ≠ ref)) ∧ u.tiles = s.tiles ∧ u.sync = s.sync)) ∧
  (∀ (s : State) (id : Nat) (r : Req) (errs : List SymErrs) (upset : Bool), holds s id r →
    s.firstOfPath r .slot = true → r.prefetch = true → Answers (.l2Access id errs upset) s (fun u =>
      u.mem.reqs = without s id ∧ u.mem.l2 = (serve s r errs upset).2.2.2.mem.l2 ∧ u.tiles = s.tiles ∧ u.sync = s.sync)) ∧
  (∀ (s : State) (id : Nat) (r : Req) (errs : List SymErrs) (upset : Bool), holds s id r → s.firstOfPath r .slot = false →
    Answers (.l2Access id errs upset) s (fun u => u = s)) ∧
  (∀ (s : State) (m : BitVec 16), s.live → Answers (.l2PinRelease m) s (fun u =>
      u.mem.pinRel = s.mem.pinRel ||| m.toNat ∧ u.getF aL2cPinRelease 16 16 = 1 ∧
      s.regsBut (fun x => x = aL2cPinRelease) u ∧ u.mem.l2 = s.mem.l2 ∧ u = { s with regs := u.regs, mem := u.mem })) ∧
  (∀ (s : State), s.live → s.getF aL2cPinRelease 16 16 = 1 → Answers .l2PinReleaseComplete s (fun u =>
      u.getF aL2cPinRelease 16 16 = 0 ∧ u.mem.pinRel = 0 ∧
      (∀ k l, mapGet none u.mem.l2 k = some l → ∀ p, l.pin = some p → bit s.mem.pinRel p = false) ∧
      (∀ k, (mapGet none u.mem.l2 k).map (·.data) = (mapGet none s.mem.l2 k).map (·.data)) ∧
      u.mem.ddr = s.mem.ddr ∧ u.tiles = s.tiles)) ∧
  (∀ (s : State), s.live → s.getF aL2cPinRelease 16 16 = 0 → Answers .l2PinReleaseComplete s (fun u => u = s))

/-- R322, R325–R327, R330–R336 and R338–R342. -/
def Obligations.DdrTrainsRefreshesAndRetires : Prop :=
  let good (m : BitVec 16) (ranks density : BitVec 2) : Prop :=
    m = 0 ∧ (ranks.toNat = 1 ∨ ranks.toNat = 2) ∧ density.toNat < 3
  let scrubs (s : State) (c : ChanId) : Prop :=
    s.getF aDdrScrubCtrl 0 0 = 1 ∧ s.getF aDdrStatus 7 7 = 1 ∧ s.mem.selfRefresh = false ∧
    ((∀ r ∈ s.mem.reqs, r.stage = .slot → r.bank ≠ some (s.bankKey (offOf c.val (mapGet 0 s.mem.scrubAt c.val)))) ∨
      s.scrubLate c.val = true)
  (∀ (s : State), s.live → s.getF aDdrStatus 1 0 = 0 → 5 ≤ s.pwr.released → Answers .ddrTrain s (fun u =>
      u.getF aDdrStatus 1 0 = 1 ∧ u.getF aDdrStatus 6 6 = s.getF aDdrCfg 0 0 ∧ s.regsBut (fun x => x = aDdrStatus) u ∧
      u = { s with regs := u.regs, mem := { s.mem with fallback := s.getF aDdrCfg 1 1 == 1 } })) ∧
  (∀ (s : State), s.live → (s.getF aDdrStatus 1 0 ≠ 0 ∨ s.pwr.released < 5) → Answers .ddrTrain s (fun u => u = s)) ∧
  (∀ (s : State) (m : BitVec 16) (ranks density : BitVec 2), s.live → s.getF aDdrStatus 1 0 = 1 → good m ranks density →
    Answers (.ddrTrainingComplete m ranks density) s (fun u =>
      u.getF aDdrStatus 1 0 = 2 ∧ u.getF aDdrStatus 5 4 = ranks.toNat ∧ u.getF aDdrStatus 3 2 = density.toNat ∧
      u.getF aDdrStatus 7 7 = 0 ∧ u.getF aDdrStatus 31 16 = 0 ∧ (∀ c < 16, u.rdN (aDdrInitPtr c) = 0) ∧
      u.otp.ddrLog = { s.otp.ddrLog with repairs := rowsLeft [] s.otp.ddrLog.repairs } ∧
      s.regsBut (fun x => x = aDdrStatus ∨ ∃ c < 16, x = aDdrInitPtr c) u ∧
      u = { s with regs := u.regs, otp := { s.otp with ddrLog := u.otp.ddrLog } })) ∧
  (∀ (s : State) (m : BitVec 16) (ranks density : BitVec 2), s.live → s.getF aDdrStatus 1 0 = 1 → ¬ good m ranks density →
    s.mem.fallback = true → s.getF aDdrStatus 6 6 = 1 → Answers (.ddrTrainingComplete m ranks density) s (fun u =>
      u.getF aDdrStatus 1 0 = 1 ∧ u.getF aDdrStatus 6 6 = 0 ∧ u.getF aDdrStatus 31 16 = m.toNat ∧
      s.regsBut (fun x => x = aDdrStatus) u ∧ u = { s with regs := u.regs })) ∧
  (∀ (s : State) (m : BitVec 16) (ranks density : BitVec 2), s.live → s.getF aDdrStatus 1 0 = 1 → ¬ good m ranks density →
    (s.mem.fallback = false ∨ s.getF aDdrStatus 6 6 = 0) → Answers (.ddrTrainingComplete m ranks density) s (fun u =>
      u.getF aDdrStatus 1 0 = 3 ∧ u.getF aDdrStatus 31 16 = m.toNat ∧ u.getF aHifStatus 2 0 = 3 ∧ u.pwr.alert = true)) ∧
  (∀ (s : State) (m : BitVec 16) (ranks density : BitVec 2), s.live → s.getF aDdrStatus 1 0 ≠ 1 →
    Answers (.ddrTrainingComplete m ranks density) s (fun u => u = s)) ∧
  (∀ (s : State), s.live → s.getF aDdrStatus 1 0 = 2 → s.getF aDdrStatus 7 7 = 0 →
    Answers .backgroundInitComplete s (fun u =>
      (∀ off, s.rdN (aDdrInitPtr (chanOf off)) ≤ localOf off → localOf off < s.moduleBytes → mapGet 0 u.mem.ddr off = 0) ∧
      (∀ w, s.rdN (aDdrInitPtr (chanOf (32 * w))) ≤ localOf (32 * w) → localOf (32 * w) < s.moduleBytes →
        mapGet false u.mem.ddrPoison w = false) ∧
      (∀ off, localOf off < s.rdN (aDdrInitPtr (chanOf off)) → mapGet 0 u.mem.ddr off = mapGet 0 s.mem.ddr off) ∧
      u.getF aDdrStatus 7 7 = 1 ∧ (∀ c < 16, u.rdN (aDdrInitPtr c) = s.moduleBytes) ∧
      u.mem.scrubStart = s.hoop ∧ u.mem.l2 = s.mem.l2 ∧ u = { s with regs := u.regs, mem := u.mem })) ∧
  (∀ (s : State), s.live → (s.getF aDdrStatus 1 0 ≠ 2 ∨ s.getF aDdrStatus 7 7 ≠ 0) →
    Answers .backgroundInitComplete s (fun u => u = s)) ∧
  (∀ (s : State) (c : ChanId), s.live → mapGet 0 s.mem.caparRun c.val < 4 → Answers (.caparAlert c) s (fun u =>
      u.rd (aCntDdrCapar c.val) = s.rd (aCntDdrCapar c.val) + 1 ∧
      (s.mem.errLog.length < 256 → u.mem.errLog.length = s.mem.errLog.length + 1 ∧
        s.regsBut (fun x => x = aCntDdrCapar c.val) u) ∧
      (256 ≤ s.mem.errLog.length → u.mem.errLog = s.mem.errLog ∧ u.rd aCntDdrErrLost = s.rd aCntDdrErrLost + 1) ∧
      mapGet 0 u.mem.caparRun c.val = mapGet 0 s.mem.caparRun c.val + 1 ∧ u.mem.ddr = s.mem.ddr ∧
      u = { s with regs := u.regs, mem := u.mem })) ∧
  (∀ (s : State) (c : ChanId), s.live → 4 ≤ mapGet 0 s.mem.caparRun c.val → Answers (.caparAlert c) s (fun u =>
      u.getF aHifStatus 2 0 = 3 ∧ u.pwr.alert = true)) ∧
  (∀ (s : State) (c : ChanId) (b : Fin 128), s.getF aDdrStatus 1 0 = 2 → s.mem.selfRefresh = false →
    Answers (.refreshDue c b) s (fun u =>
      mapGet 0 u.mem.refreshes (128 * c.val + b.val) = mapGet 0 s.mem.refreshes (128 * c.val + b.val) + 1 ∧
      mapGet 0 u.mem.caparRun c.val = 0 ∧
      u = { s with mem := { s.mem with refreshes := u.mem.refreshes, caparRun := u.mem.caparRun } })) ∧
  (∀ (s : State) (c : ChanId) (b : Fin 128), (s.getF aDdrStatus 1 0 ≠ 2 ∨ s.mem.selfRefresh = true) →
    Answers (.refreshDue c b) s (fun u => u = s)) ∧
  (∀ (s : State) (c : ChanId) (b : Fin 128), s.live → Config.rfmThreshold ≤ mapGet 0 s.mem.activates (128 * c.val + b.val) →
    Answers (.refreshManagement c b) s (fun u => mapGet 0 u.mem.activates (128 * c.val + b.val) = 0 ∧
      mapGet 0 u.mem.caparRun c.val = 0 ∧
      u = { s with mem := { s.mem with activates := u.mem.activates, caparRun := u.mem.caparRun } })) ∧
  (∀ (s : State) (c : ChanId), s.live → scrubs s c → Answers (.patrolScrubRead c []) s (fun u =>
      let a := mapGet 0 s.mem.scrubAt c.val
      mapGet 0 u.mem.scrubAt c.val = (if a + 128 < s.moduleBytes then a + 128 else 0) ∧
      mapGet 0 u.mem.scrubDone c.val = mapGet 0 s.mem.scrubDone c.val + 1 ∧
      u.mem.ddr = s.mem.ddr ∧ (∀ o, u.ddrBad o = s.ddrBad o) ∧ u.mem.l2 = s.mem.l2 ∧
      u = { s with regs := u.regs, mem := u.mem })) ∧
  (∀ (s : State) (c : ChanId) (errs : List SymErrs), s.live → ¬ scrubs s c →
    Answers (.patrolScrubRead c errs) s (fun u => u = s)) ∧
  (∀ (s : State) (n : Fin 512), s.live → s.getF aDdrRetireCtrl 31 31 = 0 → Answers (.ddrRetireGo n) s (fun u =>
      u.mem.retiring = some n.val ∧ u.getF aDdrRetireCtrl 31 31 = 1 ∧ u.getF aDdrRetireCtrl 8 0 = n.val ∧
      (∀ off, off / 2 ^ 21 = bits (s.rdN (aDdrRemap n.val)) 41 21 → u.offRetry off = true) ∧
      s.regsBut (fun x => x = aDdrRetireCtrl) u ∧ u = { s with regs := u.regs, mem := { s.mem with retiring := some n.val } })) ∧
  (∀ (s : State) (n : Fin 512), s.live → s.getF aDdrRetireCtrl 31 31 = 1 → Answers (.ddrRetireGo n) s (fun u => u = s)) ∧
  (∀ (s : State) (n : Fin 512), s.live → s.mem.retiring = some n.val → s.mem.retireQ = [] →
    (∀ r ∈ s.mem.reqs, r.stage = .slot → r.off / 2 ^ 21 ≠ bits (s.rdN (aDdrRemap n.val)) 41 21) →
    Answers .retirementCopyComplete s (fun u =>
      let e := s.rdN (aDdrRemap n.val)
      u.mem.retiring = none ∧ u.getF aDdrRetireCtrl 31 31 = 0 ∧ u.getF (aDdrRemap n.val) 63 63 = 1 ∧
      u.getF (aDdrRemap n.val) 62 0 = s.getF (aDdrRemap n.val) 62 0 ∧
      u.otp.ddrLog = { s.otp.ddrLog with retired := s.otp.ddrLog.retired ++ [(bits e 41 21, bits e 62 42)] } ∧
      u.tiles = s.tiles ∧ u.sync = s.sync)) ∧
  (∀ (s : State) (n : Fin 512) (r : Req), s.live → s.mem.retiring = some n.val → r ∈ s.mem.reqs → r.stage = .slot →
    r.off / 2 ^ 21 = bits (s.rdN (aDdrRemap n.val)) 41 21 → Answers .retirementCopyComplete s (fun u => u = s)) ∧
  (∀ (s : State) (c : ChanId) (hot : Bool), Answers (.moduleThermalSensorChange c hot) s (fun u =>
      mapGet false u.mem.hot c.val = hot ∧ u = { s with mem := { s.mem with hot := u.mem.hot } }))

/-! ### Links and the authentication of neighbours -/

/-- R364–R366, R374–R376 and R379. -/
def Obligations.PortsMoveThroughTheirStates : Prop :=
  let calm (s u : State) : Prop := u.tiles = s.tiles ∧ u.mem.ddr = s.mem.ddr ∧ u.sync = s.sync
  (∀ (s : State) (p : PortId), s.lk p.val = lkDetect → Answers (.receiverDetect p) s (fun u => u.lk p.val = lkTrain ∧
      s.regsBut (fun a => a = aLnkStatus p.val) u ∧ u = { s with regs := u.regs, rims := u.rims })) ∧
  (∀ (s : State) (p : PortId) (lanes : BitVec 9), s.lk p.val = lkTrain →
    Answers (.linkTrainingComplete p true lanes) s (fun u => u.lk p.val = lkAlign ∧ s.regsBut (fun a => inPort p.val a) u ∧
      (∀ i < 9, bit (u.rxFail p.val) i = !lanes.getLsbD i) ∧ u = { s with regs := u.regs, rims := u.rims }) ∧
    Answers (.linkTrainingComplete p false lanes) s (fun u => u.lk p.val = lkDown ∧ calm s u)) ∧
  (∀ (s : State) (p : PortId) (txWidth : Fin 3) (txMap : BitVec 32), s.lk p.val = lkAlign →
    let now := s.onPort p.val (fun q => { q with cfg := s.rdN (aLnkCfg p.val), param := none })
    Answers (.alignComplete ⟨p, txWidth, txMap⟩) s (fun u =>
      (∀ w, now.rxWidthFor p.val = some w → u.lk p.val = lkInit ∧
        u.rxMap p.val = newMap 0x76543210 (now.rxOut p.val) w ∧ u.getF (aLnkStatus p.val) 5 4 = w ∧
        u.getF (aLnkLanes p.val) 63 32 = txMap.toNat ∧ u.getF (aLnkStatus p.val) 7 6 = txWidth.val ∧
        (u.port p.val).cfg = s.rdN (aLnkCfg p.val) ∧ (u.port p.val).retry = [] ∧ (∀ v < 8, u.rdN (aLnkTxCredit p.val v) = 0) ∧
        (u.port p.val).wire.length = (s.port p.val).wire.length + 2) ∧
      (now.rxWidthFor p.val = none → u.lk p.val = lkDown) ∧ calm s u)) ∧
  (∀ (s : State) (p : PortId), s.live → Answers (.lnkCfgEnable p false) s (fun u => u.lk p.val = lkDisabled ∧
      u.getF (aLnkCfg p.val) 0 0 = 0 ∧ (u.port p.val).retry = [] ∧
      s.regsBut (fun a => a = aLnkCfg p.val ∨ a = aLnkStatus p.val) u ∧ calm s u)) ∧
  (∀ (s : State) (p : PortId), s.live → s.lk p.val = lkDisabled ∨ s.lk p.val = lkDown → 8 ≤ s.pwr.released →
    Answers (.lnkCfgEnable p true) s (fun u => u.lk p.val = lkDetect ∧ u.getF (aLnkCfg p.val) 0 0 = 1 ∧
      s.regsBut (fun a => a = aLnkCfg p.val ∨ a = aLnkStatus p.val) u ∧ u = { s with regs := u.regs, rims := u.rims })) ∧
  (∀ (s : State) (p : PortId), s.lk p.val = lkActive → Answers (.idleTimeout p) s (fun u => u.lk p.val = lkRetrain ∧
      (u.port p.val).saved = lkActive ∧ (u.port p.val).retrainCause = 1 ∧
      u.rd (aCntLnkRetrain p.val) = s.rd (aCntLnkRetrain p.val) + 1 ∧ calm s u)) ∧
  (∀ (s : State) (p : PortId), s.live → s.lk p.val = lkActive → Answers (.lnkRetrain p) s (fun u =>
      u.lk p.val = lkRetrain ∧ (u.port p.val).saved = lkActive ∧ (u.port p.val).retrainCause = 4 ∧
      (u.port p.val).wire.length = (s.port p.val).wire.length + 1 ∧ calm s u)) ∧
  (∀ (s : State) (p : PortId), s.lk p.val = lkRetrain → (s.port p.val).saved < 16 → s.getF aDbgFreezeStatus 10 10 = 0 →
    ((mapLanes (s.rxMap p.val)).any (bit (s.rxFail p.val) ·) = true → (s.rxWidthFor p.val).isSome = true) →
    Answers (.retrainComplete p) s (fun u => u.lk p.val = (s.port p.val).saved ∧ (u.port p.val).resync = true ∧ calm s u)) ∧
  (∀ (s : State) (p : PortId), s.lk p.val = lkRetrain → s.getF aDbgFreezeStatus 10 10 = 1 →
    Answers (.retrainComplete p) s (fun u => u.lk p.val = lkFrozen ∧ (u.port p.val).thawed = (s.port p.val).saved ∧ calm s u)) ∧
  (∀ (s : State) (p : PortId), s.lk p.val = lkRetrain → Answers (.retrainTimeout p) s (fun u => u.lk p.val = lkDown ∧ calm s u)) ∧
  (∀ (s : State) (p : PortId) (reason : Fin 8), s.lk p.val ≠ lkDown → s.lk p.val ≠ lkDisabled →
    Answers (.portDown p reason) s (fun u => u.lk p.val = lkDown ∧ u.getF (aLnkStatus p.val) 0 0 = 1 ∧
      (u.port p.val).retry = [] ∧
      u.rd (aCntLnkDiscard p.val) = s.rd (aCntLnkDiscard p.val) + BitVec.ofNat 64 (s.port p.val).retry.length ∧
      u.lastEvent (rimPort p.val) = some (0xA2, s.lk p.val, (s.port p.val).retry.length % 2 ^ 48) ∧ calm s u)) ∧
  (∀ (s : State) (p : PortId) (reason : Fin 8), s.lk p.val = lkDown ∨ s.lk p.val = lkDisabled →
    Answers (.portDown p reason) s (fun u => u = s)) ∧
  (∀ (s : State) (p : PortId), Answers (.portReset p) s (fun u => u.lk p.val = lkDetect ∧
      u.getF (aLnkCfg p.val) 0 0 = s.getF (aLnkCfg p.val) 0 0 ∧ u.rd (aCntLnkTxBytes p.val) = 0 ∧
      u.rd (aCntLnkDiscard p.val) = BitVec.ofNat 64 (s.port p.val).retry.length ∧ (u.port p.val).retry = [] ∧
      s.regsBut (fun a => inPort p.val a ∨ a = aCntEpochPort (p.val / 8)) u ∧ calm s u)) ∧
  (∀ (s : State) (p : PortId), s.live → s.lk p.val = lkQuarantine → Answers (.lnkReauth p) s (fun u =>
      u.lk p.val = lkAuth ∧ (u.port p.val).auth.peerHello = none ∧ (u.port p.val).auth.code = none ∧
      u.rdN (aSecAuth p.val) = 0xFF ∧ calm s u)) ∧
  (∀ (s : State) (p : PortId), s.live → s.lk p.val = lkAuth ∨ s.lk p.val = lkActive → Answers (.lnkQuarantine p) s (fun u =>
      u.lk p.val = lkQuarantine ∧ s.regsBut (fun a => a = aLnkStatus p.val) u ∧ u = { s with regs := u.regs, rims := u.rims })) ∧
  (∀ (s : State) (p : PortId), s.live → s.lk p.val = lkAuth → Answers (.lnkActivate p) s (fun u =>
      u.lk p.val = lkActive ∧ (u.port p.val).activeAt = s.hoop ∧ calm s u)) ∧
  (∀ (s : State) (p : PortId), s.live → s.carries p.val = true → Answers (.lnkLaneRecover p) s (fun u =>
      (u.port p.val).recovering = true ∧ u = { s with ports := u.ports })) ∧
  (∀ (s : State) (p : PortId), s.live →
    (s.lk p.val ≠ lkAuth → Answers (.lnkActivate p) s (fun u => u = s.postMp 0xD6 4 (aLnkCtrl p.val))) ∧
    (s.lk p.val ≠ lkQuarantine → Answers (.lnkReauth p) s (fun u => u = s.postMp 0xD6 16 (aLnkCtrl p.val))) ∧
    (s.lk p.val ≠ lkAuth → s.lk p.val ≠ lkActive →
      Answers (.lnkQuarantine p) s (fun u => u = s.postMp 0xD6 8 (aLnkCtrl p.val))) ∧
    (s.carries p.val = false → Answers (.lnkLaneRecover p) s (fun u => u = s.postMp 0xD6 2 (aLnkCtrl p.val))) ∧
    ((∀ st ∈ [lkAuth, lkActive, lkQuarantine, lkFrozen], s.lk p.val ≠ st) →
      Answers (.lnkRetrain p) s (fun u => u = s.postMp 0xD6 1 (aLnkCtrl p.val))))

/-- R346–R358, R361 and R367. -/
def Obligations.DataFlitsAreTakenInOrder : Prop :=
  let whole (s : State) (p : PortId) (f : Flit) : Prop := s.carries p.val = true ∧ s.flitMarked p.val f = false ∧
    flitGood f.bytes = true ∧ (s.port p.val).retry = [] ∧ (s.port p.val).waiting = []
  (∀ (s : State) (p : PortId) (f : Flit), whole s p f → s.lk p.val = lkActive → hdrType (flitHdr f.bytes) = 1 →
    hdrSeq (flitHdr f.bytes) = (s.port p.val).expect → (s.port p.val).expect < 4096 → hdrVc (flitHdr f.bytes) ≠ 7 →
    let h := flitHdr f.bytes
    let v := hdrVc h
    let i := if hdrShared h then 8 else v
    let got := mapGet [] (s.port p.val).part v
    let fresh := if hdrFirst h = 15 then [] else ((f.bytes.drop 8).take 240).drop (16 * hdrFirst h)
    let bytes := if got.isEmpty then fresh else got ++ (f.bytes.drop 8).take 240
    (cutPackets 16 bytes).1 = [] → Answers (.dataFlitReceive p f) s (fun u =>
      (u.port p.val).expect = ((s.port p.val).expect + 1) % 4096 ∧ (u.port p.val).nak = false ∧
      mapGet 0 (u.port p.val).freed i = (mapGet 0 (s.port p.val).freed i + 1) % 8192 ∧
      mapGet [] (u.port p.val).part v = (cutPackets 16 bytes).2 ∧
      u.rd (aCntLnkRxBytes p.val) = s.rd (aCntLnkRxBytes p.val) + 240 ∧ u = { s with regs := u.regs, ports := u.ports })) ∧
  (∀ (s : State) (p : PortId) (f : Flit), whole s p f → s.lk p.val = lkActive → hdrType (flitHdr f.bytes) = 1 →
    0 < (hdrSeq (flitHdr f.bytes) + 4096 - (s.port p.val).expect) % 4096 →
    (hdrSeq (flitHdr f.bytes) + 4096 - (s.port p.val).expect) % 4096 < 2048 → Answers (.dataFlitReceive p f) s (fun u =>
      (u.port p.val).nak = true ∧ (u.port p.val).expect = (s.port p.val).expect ∧
      (u.port p.val).part = (s.port p.val).part ∧ (u.port p.val).freed = (s.port p.val).freed ∧
      u = { s with regs := u.regs, ports := u.ports })) ∧
  (∀ (s : State) (p : PortId) (f : Flit), whole s p f → s.lk p.val = lkActive → hdrType (flitHdr f.bytes) = 1 →
    2048 ≤ (hdrSeq (flitHdr f.bytes) + 4096 - (s.port p.val).expect) % 4096 → Answers (.dataFlitReceive p f) s (fun u =>
      (u.port p.val).nak = (s.port p.val).nak ∧ (u.port p.val).expect = (s.port p.val).expect ∧
      (u.port p.val).part = (s.port p.val).part ∧ (u.port p.val).freed = (s.port p.val).freed ∧
      u = { s with regs := u.regs, ports := u.ports })) ∧
  (∀ (s : State) (p : PortId) (f : Flit), s.carries p.val = true →
    s.flitMarked p.val f = true ∨ flitGood f.bytes = false → Answers (.dataFlitReceive p f) s (fun u =>
      u.rd (aCntLnkCrc p.val) = s.rd (aCntLnkCrc p.val) + 1 ∧
      (u.port p.val).nak = (if s.lk p.val = lkFrozen then (s.port p.val).nak else true) ∧
      (u.port p.val).expect = (s.port p.val).expect ∧ (u.port p.val).part = (s.port p.val).part ∧
      (u.port p.val).retry = (s.port p.val).retry ∧ u = { s with regs := u.regs, ports := u.ports })) ∧
  (∀ (s : State) (p : PortId) (f : Flit), whole s p f → hdrType (flitHdr f.bytes) = 0 →
    Answers (.idleFlitReceive p f) s (fun u =>
      u.getF (aLnkStatus p.val) 2 2 = b2n (hdrHeld (flitHdr f.bytes)) ∧
      mapGet 0 (u.port p.val).totals (hdrTotalOf (flitHdr f.bytes)) = hdrTotal (flitHdr f.bytes) ∧
      (u.port p.val).expect = (s.port p.val).expect ∧ u = { s with regs := u.regs, ports := u.ports })) ∧
  (∀ (s : State) (p : PortId) (x : TxFlit) (rest : List TxFlit), (s.port p.val).retry = x :: rest → s.lk p.val = lkActive →
    s.getF (aLnkStatus p.val) 2 2 = 0 → (s.port p.val).replays < 7 → Answers (.ackTimeout p) s (fun u =>
      let n := ((x :: rest).filter (fun f => decide ((f.seq + 4096 - x.seq) % 4096 < 2048))).length
      u.rd (aCntLnkReplay p.val) = s.rd (aCntLnkReplay p.val) + 1 ∧ (u.port p.val).replayFrom = x.seq ∧
      (u.port p.val).retry = (s.port p.val).retry ∧ u.lk p.val = lkActive ∧
      (u.lastEvent (rimPort p.val)).map (·.1) = some 0xA1 ∧
      u.rd (aCntLnkTxBytes p.val) = s.rd (aCntLnkTxBytes p.val) + BitVec.ofNat 64 (240 * n) ∧
      (s.port p.val).wire.length + n ≤ (u.port p.val).wire.length ∧
      u = { s with regs := u.regs, ports := u.ports, rims := u.rims })) ∧
  (∀ (s : State) (p : PortId) (x : TxFlit) (rest : List TxFlit), (s.port p.val).retry = x :: rest → s.lk p.val = lkActive →
    s.getF (aLnkStatus p.val) 2 2 = 0 → (s.port p.val).replays = 7 → (s.port p.val).replayFrom = x.seq →
    Answers (.ackTimeout p) s (fun u => u.lk p.val = lkRetrain ∧ (u.port p.val).retrainCause = 2 ∧
      (u.port p.val).retry = (s.port p.val).retry ∧ u.rd (aCntLnkReplay p.val) = s.rd (aCntLnkReplay p.val))) ∧
  (∀ (s : State) (p : PortId), (s.port p.val).retry = [] ∨ s.getF (aLnkStatus p.val) 2 2 = 1 ∨
    (s.lk p.val ≠ lkActive ∧ s.lk p.val ≠ lkAuth) → Answers (.ackTimeout p) s (fun u => u = s)) ∧
  (∀ (s : State) (p : PortId), s.carries p.val = true → s.lk p.val ≠ lkFrozen → Answers (.controlFlitResend p) s (fun u =>
      (u.port p.val).wire.length = (s.port p.val).wire.length + (s.port p.val).unanswered.length ∧
      (∀ c ∈ (u.port p.val).unanswered, recByte c 0 = 4 → leVal ((c.drop 8).take 8) = s.hoop % 2 ^ 64) ∧
      (∀ c, recByte c 0 ≠ 4 → (c ∈ (u.port p.val).unanswered ↔ c ∈ (s.port p.val).unanswered)) ∧
      (u.port p.val).retry = (s.port p.val).retry ∧ u = { s with ports := u.ports })) ∧
  (∀ (s : State) (p : PortId), s.carries p.val = false ∨ s.lk p.val = lkFrozen →
    Answers (.controlFlitResend p) s (fun u => u = s)) ∧
  (∀ (s : State) (p : PortId) (h : Bool), Answers (.peerHeldChange p h) s (fun u =>
      u.getF (aLnkStatus p.val) 2 2 = b2n h ∧ s.regsBut (fun a => a = aLnkStatus p.val) u ∧ u = { s with regs := u.regs }))

/-- R357, R358, R361–R365 and R368–R370. -/
def Obligations.ControlFlitsAndLanesTakeEffect : Prop :=
  let ctl (s : State) (p : PortId) (f : Flit) (c : Nat) : Prop := s.carries p.val = true ∧ s.flitMarked p.val f = false ∧
    flitGood f.bytes = true ∧ (s.port p.val).retry = [] ∧ (s.port p.val).waiting = [] ∧
    hdrType (flitHdr f.bytes) = 2 ∧ flitField f.bytes 8 1 = c ∧ (c = 1 ∨ c = 8 ∨ s.lk p.val ≠ lkFrozen)
  let calm (s u : State) : Prop := u.tiles = s.tiles ∧ u.mem.ddr = s.mem.ddr ∧ u.sync = s.sync
  (∀ (s : State) (p : PortId) (f : Flit), ctl s p f 1 → Answers (.credit p f) s (fun u =>
      (∀ i < 9, mapGet 0 (u.port p.val).totals i = flitField f.bytes (12 + 2 * i) 2 % 8192) ∧
      (∀ v < 8, v ≠ hdrTotalOf (flitHdr f.bytes) → u.getF (aLnkTxCredit p.val v) 12 0 = (s.getF (aLnkTxCredit p.val v) 12 0 +
        (flitField f.bytes (12 + 2 * v) 2 % 8192 + 8192 - mapGet 0 (s.port p.val).totals v) % 8192) % 8192) ∧
      u = { s with regs := u.regs, ports := u.ports })) ∧
  (∀ (s : State) (p : PortId) (f : Flit), ctl s p f 2 → s.lk p.val = lkInit → (s.port p.val).param = none →
    (s.port p.val).echoes < 16 → flitField f.bytes 9 1 = 1 → Answers (.initParam p f) s (fun u =>
      ((u.port p.val).param.map (·.mins)) = some ((List.range 8).map (fun v => flitField f.bytes (12 + 2 * v) 2)) ∧
      (∀ v < 8, u.getF (aLnkTxCredit p.val v) 12 0 = flitField f.bytes (12 + 2 * v) 2 % 8192) ∧
      (u.port p.val).window = max 1 (min 2047 (flitField f.bytes 44 2)) ∧ u.lk p.val = lkInit ∧ calm s u)) ∧
  (∀ (s : State) (p : PortId) (f : Flit), ctl s p f 2 → s.lk p.val = lkInit → (s.port p.val).param.isSome = true →
    flitField f.bytes 9 1 = 1 → Answers (.initParam p f) s (fun u => (u.port p.val).param = (s.port p.val).param ∧
      ((u.port p.val).wire.getLast?).map (fun g => (g.drop 8).take 2) = some [2, 1] ∧ u.lk p.val = lkInit ∧ calm s u)) ∧
  (∀ (s : State) (p : PortId) (f : Flit), ctl s p f 3 → s.lk p.val = lkInit → (s.port p.val).param.isSome = true →
    16 ≤ (s.port p.val).echoes → Answers (.initDone p f) s (fun u =>
      u.lk p.val = lkAuth ∧ u.rdN (aSecAuth p.val) = 0xFF ∧ calm s u)) ∧
  (∀ (s : State) (p : PortId) (f : Flit), ctl s p f 3 → s.lk p.val = lkInit →
    ((s.port p.val).param = none ∨ (s.port p.val).echoes < 16) → Answers (.initDone p f) s (fun u =>
      u.lk p.val = lkInit ∧ (u.port p.val).peerDone = true ∧ u = { s with regs := u.regs, ports := u.ports })) ∧
  (∀ (s : State) (p : PortId) (f : Flit), ctl s p f 3 → s.lk p.val ≠ lkInit → Answers (.initDone p f) s (fun u =>
      u.lk p.val = s.lk p.val ∧ ((u.port p.val).wire.getLast?).map (fun g => (g.drop 8).take 1) = some [3] ∧
      u = { s with regs := u.regs, ports := u.ports })) ∧
  (∀ (s : State) (p : PortId) (f : Flit), ctl s p f 4 → Answers (.echoReq p f) s (fun u =>
      ((u.port p.val).wire.getLast?).map (fun g => (g.drop 8).take 32) =
        some ([5] ++ List.replicate 7 0 ++ (f.bytes.drop 16).take 8 ++ leBytes 8 s.hoop ++ leBytes 8 s.hoop) ∧
      u = { s with regs := u.regs, ports := u.ports })) ∧
  (∀ (s : State) (p : PortId) (f : Flit), ctl s p f 5 → (s.port p.val).echoes < 15 →
    (s.port p.val).unanswered.any (fun c => recByte c 0 == 4 && leVal ((c.drop 8).take 8) == flitField f.bytes 16 8) = true →
    Answers (.echoResp p f) s (fun u =>
      let x := (((s.hoop : Int) - flitField f.bytes 16 8) - ((flitField f.bytes 32 8 : Int) - flitField f.bytes 24 8)).toNat % 2 ^ 32
      (u.port p.val).echoes = (s.port p.val).echoes + 1 ∧
      u.rdN (aLnkRtt p.val) = (if (s.port p.val).echoes = 0 ∨ x < s.rdN (aLnkRtt p.val) then x else s.rdN (aLnkRtt p.val)) ∧
      u.lk p.val = s.lk p.val ∧ calm s u)) ∧
  (∀ (s : State) (p : PortId) (f : Flit), ctl s p f 5 →
    (s.port p.val).unanswered.any (fun c => recByte c 0 == 4 && leVal ((c.drop 8).take 8) == flitField f.bytes 16 8) = false →
    Answers (.echoResp p f) s (fun u => (u.port p.val).echoes = (s.port p.val).echoes ∧
      u.rdN (aLnkRtt p.val) = s.rdN (aLnkRtt p.val) ∧ u = { s with regs := u.regs, ports := u.ports })) ∧
  (∀ (s : State) (p : PortId) (f : Flit), ctl s p f 6 → flitField f.bytes 9 1 % 16 = (s.port p.val).txVersion →
    Answers (.laneMap p f) s (fun u => (u.port p.val).txChange = (s.port p.val).txChange ∧
      ((u.port p.val).wire.getLast?).map (fun g => (g.drop 8).take 2) = some [7, BitVec.ofNat 8 (s.port p.val).txVersion] ∧
      u = { s with regs := u.regs, ports := u.ports })) ∧
  (∀ (s : State) (p : PortId) (f : Flit), ctl s p f 6 → flitField f.bytes 9 1 % 16 ≠ (s.port p.val).txVersion →
    Answers (.laneMap p f) s (fun u =>
      ((u.port p.val).txChange.map (fun c => (c.version, c.width, c.map))) =
        some (flitField f.bytes 9 1 % 16, flitField f.bytes 10 1 % 4, flitField f.bytes 12 4) ∧
      u = { s with regs := u.regs, ports := u.ports })) ∧
  (∀ (s : State) (p : PortId) (c : LaneChange), (s.port p.val).txChange = some c → Answers (.laneMapApply ⟨p, false⟩) s (fun u =>
      u.getF (aLnkLanes p.val) 63 32 = c.map % 2 ^ 32 ∧ u.getF (aLnkStatus p.val) 7 6 = c.width % 4 ∧
      (u.port p.val).txVersion = c.version ∧ (u.port p.val).txChange = none ∧
      u.lastEvent (rimPort p.val) = some (0xA5, c.version % 2 ^ 24, c.map % 2 ^ 48) ∧
      ((u.port p.val).wire.getLast?).map (fun g => (g.drop 8).take 2) = some [7, BitVec.ofNat 8 c.version] ∧
      u = { s with regs := u.regs, ports := u.ports, rims := u.rims })) ∧
  (∀ (s : State) (p : PortId) (c : LaneChange), (s.port p.val).rxChange = some c → Answers (.laneMapApply ⟨p, true⟩) s (fun u =>
      u.rxMap p.val = c.map % 2 ^ 32 ∧ u.getF (aLnkStatus p.val) 5 4 = c.width % 4 ∧ (u.port p.val).rxChange = none ∧
      s.regsBut (fun a => a = aLnkLanes p.val ∨ a = aLnkStatus p.val) u ∧ u = { s with regs := u.regs, ports := u.ports })) ∧
  (∀ (s : State) (p : PortId), ((s.port p.val).txChange = none → Answers (.laneMapApply ⟨p, false⟩) s (fun u => u = s)) ∧
    ((s.port p.val).rxChange = none → Answers (.laneMapApply ⟨p, true⟩) s (fun u => u = s))) ∧
  (∀ (s : State) (p : PortId) (f : Flit), ctl s p f 7 → Answers (.laneAck p f) s (fun u =>
      (∀ c, (s.port p.val).rxChange = some c → (s.port p.val).rxVersion = flitField f.bytes 9 1 % 16 →
        u.rxMap p.val = c.map % 2 ^ 32 ∧ u.getF (aLnkStatus p.val) 5 4 = c.width % 4 ∧ (u.port p.val).rxChange = none) ∧
      ((s.port p.val).rxVersion ≠ flitField f.bytes 9 1 % 16 →
        u.rxMap p.val = s.rxMap p.val ∧ (u.port p.val).rxChange = (s.port p.val).rxChange) ∧
      u = { s with regs := u.regs, ports := u.ports })) ∧
  (∀ (s : State) (p : PortId) (f : Flit), ctl s p f 8 → s.lk p.val = lkActive → Answers (.retrainReq p f) s (fun u =>
      u.lk p.val = lkRetrain ∧ (u.port p.val).saved = lkActive ∧ (u.port p.val).retrainCause = 3 ∧
      u.rd (aCntLnkRetrain p.val) = s.rd (aCntLnkRetrain p.val) + 1 ∧ calm s u)) ∧
  (∀ (s : State) (p : PortId) (lane : Fin 9) (lost : Bool), s.carries p.val = true → bit (s.rxFail p.val) lane.val = false →
    (lost = true ∨ ((s.port p.val).symWindow = s.hoop / 1200000 ∧ s.getF (aLnkCfg p.val) 23 16 ≠ 0 ∧
      s.getF (aLnkCfg p.val) 23 16 * 1024 ≤ mapGet 0 (s.port p.val).syms lane.val)) →
    let now := s.setF (aLnkLaneFail p.val) lane.val lane.val 1
    Answers (.laneFail p lane lost) s (fun u => bit (u.rxFail p.val) lane.val = true ∧
      (∀ w, (mapLanes (s.rxMap p.val)).contains lane.val = true → now.rxWidthFor p.val = some w →
        (u.port p.val).rxChange.map (fun c => (c.width, c.map)) = some (w, newMap (s.rxMap p.val) (now.rxOut p.val) w) ∧
        u.lk p.val = s.lk p.val) ∧
      ((mapLanes (s.rxMap p.val)).contains lane.val = true → now.rxWidthFor p.val = none → u.lk p.val = lkDown) ∧
      ((mapLanes (s.rxMap p.val)).contains lane.val = false → (u.port p.val).rxChange = (s.port p.val).rxChange) ∧
      calm s u)) ∧
  (∀ (s : State) (p : PortId) (lane : Fin 9), (bit (s.rxFail p.val) lane.val = true ∨ s.getF (aLnkCfg p.val) 23 16 = 0 ∨
    (s.port p.val).symWindow ≠ s.hoop / 1200000) → Answers (.laneFail p lane false) s (fun u => u = s)) ∧
  (∀ (s : State) (p : PortId) (lane : Fin 9), (s.port p.val).recovering = true → bit (s.rxFail p.val) lane.val = true →
    Answers (.laneRecovered p lane) s (fun u => bit (u.rxFail p.val) lane.val = false ∧
      (∀ i < 9, i ≠ lane.val → bit (u.rxFail p.val) i = bit (s.rxFail p.val) i) ∧ u.lk p.val = s.lk p.val ∧ calm s u)) ∧
  (∀ (s : State) (p : PortId) (lane : Fin 9), (s.port p.val).recovering = false → Answers (.laneRecovered p lane) s (fun u => u = s))

/-- R541–R545 and R554. -/
def Obligations.NeighboursAreAuthenticated : Prop :=
  let job (s : State) (p : PortId) (n : Nat) (h c : List Byte) : Prop := s.live ∧ s.lk p.val = lkAuth ∧
    (s.port p.val).auth.peerHello = some h ∧ (s.port p.val).auth.peerChain = some c ∧ (s.port p.val).auth.code = none ∧
    (s.port p.val).auth.jobs = n
  let fixed (s : State) (p : PortId) (code : Nat) (u : State) : Prop := (u.port p.val).auth.code = some code ∧
    u.getF (aSecAuth p.val) 7 0 = code ∧
    (code ≠ 0 → u.lk p.val = lkQuarantine ∧ u.rd aCntSecAuthFail = s.rd aCntSecAuthFail + 1) ∧
    (code = 0 → u.lk p.val = lkAuth ∧ u.rd aCntSecAuthFail = s.rd aCntSecAuthFail) ∧
    (u.lastEvent rimMp).map (·.1) = some 0xFA ∧ u.tiles = s.tiles ∧ u.mem.ddr = s.mem.ddr
  let keeps (s : State) (p : PortId) (u : State) : Prop := u = { s with ports := u.ports } ∧
    ∀ q, q ≠ p.val → u.port q = s.port q
  (∀ (s : State) (p : PortId) (m : List Byte), s.live → s.lk p.val = lkAuth →
    Answers (.hello p m) s (fun u => (u.port p.val).auth.peerHello = some (fit 57 m) ∧ keeps s p u) ∧
    Answers (.chain p m) s (fun u => (u.port p.val).auth.peerChain = some (chainCut m) ∧ keeps s p u) ∧
    Answers (.proof p m) s (fun u => (u.port p.val).auth.peerProof = some (fit 114 m) ∧ keeps s p u) ∧
    Answers (.result p m) s (fun u => u.getF (aSecAuth p.val) 15 8 = recByte m 0 ∧
      s.regsBut (fun a => a = aSecAuth p.val) u ∧ u = { s with ports := u.ports, regs := u.regs })) ∧
  (∀ (s : State) (p : PortId) (m : List Byte) (i : Instr), s.live → s.lk p.val ≠ lkAuth →
    i ∈ [Instr.hello p m, .chain p m, .proof p m, .result p m] → Answers i s (fun u => u = s.cnt (aCntLnkProto p.val))) ∧
  (∀ (s : State) (p : PortId) (h c : List Byte), job s p 0 h c → Answers (.signatureJobComplete p) s (fun u =>
      (u.port p.val).auth.jobs = 1 ∧ (u.port p.val).auth.proof = edSign s.akKey (ascii "qorkar-auth")
        (transcript (s.port p.val).auth.hello s.chainMsg h c) ∧ u.lk p.val = lkAuth ∧ u.tiles = s.tiles)) ∧
  (∀ (s : State) (p : PortId) (h c : List Byte), job s p 3 h c → Answers (.signatureJobComplete p) s (fun u =>
      (statementOk (chainParts c).1 (chainParts c).2.2 = true → (u.port p.val).auth.jobs = 4 ∧ keeps s p u) ∧
      (statementOk (chainParts c).1 (chainParts c).2.2 = false → fixed s p 4 u))) ∧
  (∀ (s : State) (p : PortId) (h c pr : List Byte), job s p 4 h c → (s.port p.val).auth.peerProof = some pr →
    Answers (.signatureJobComplete p) s (fixed s p (s.proofCode p.val (s.port p.val).auth h c (chainParts c).2.2 pr))) ∧
  (∀ (s : State) (p : PortId), s.live → s.lk p.val = lkAuth → (s.port p.val).auth.code = none →
    (s.port p.val).auth.peerHello = none → Answers (.authTimeout p) s (fixed s p 1))

/-! ### The fabric network and the collective engine -/

/-- R34, R380–R389, R393, R398–R402 and R407. -/
def Obligations.RequestsReachTheirUnitsOnce : Prop :=
  -- the packet's header units, its context, the context's contents and its receive half
  let here (s : State) (p : PortId) (k : Packet) (ty c : Nat) (x : PeerCtx) (h : RxHalf) : Prop :=
    s.live ∧ s.lk p.val = lkActive ∧ pkType k.u0.toNat = ty ∧ s.idValid = true ∧ pkDst k.u0.toNat = s.devId ∧
    s.ctxOf (pkSrc k.u0.toNat) = some c ∧ s.pctx c = some x ∧ x.rx = some h ∧ h.epoch = pkEpoch k.u0.toNat ∧
    (∀ y ∈ s.parts, y.2.ce = [])
  -- the request's own reference is not in use, and its context is its peer's
  let sound (s : State) (k : Packet) (x : PeerCtx) : Prop :=
    x.peer = pkSrc k.u0.toNat ∧ ∀ q ∈ s.fab.inreqs, q.ref ≠ s.mem.nextId
  let fresh (k : Packet) (h : RxHalf) : Prop :=
    1 ≤ (pkSeq k.u0.toNat + 65536 - h.high) % 65536 ∧ (pkSeq k.u0.toNat + 65536 - h.high) % 65536 ≤ 32767
  let noted (k : Packet) (c : Nat) (u : State) : Prop := ∃ x h, u.pctx c = some x ∧ x.rx = some h ∧
    h.high = pkSeq k.u0.toNat ∧ (pkSeq k.u0.toNat, none) ∈ h.recs
  let turned (s : State) (k : Packet) (c st : Nat) (u : State) : Prop :=
    (∃ x h, u.pctx c = some x ∧ x.rx = some h ∧ h.high = pkSeq k.u0.toNat ∧ (pkSeq k.u0.toNat, some st) ∈ h.recs) ∧
    u.mem.reqs = s.mem.reqs ∧ u.sync = s.sync ∧ u.coll = s.coll ∧ u.tiles = s.tiles ∧ u.mem.ddr = s.mem.ddr
  let plain (s u : State) : Prop := u = { s with regs := u.regs, fab := u.fab, mem := u.mem }
  let goes (s : State) (k : Packet) (st : ReqStage) (u : State) : Prop :=
    ∃ r ref, u.mem = { s.mem with reqs := s.mem.reqs ++ [r], nextId := s.mem.nextId + 2 } ∧ r.origin = .fabric ref ∧
      r.stage = st ∧ r.write = (pkType k.u0.toNat == 2) ∧ r.space = bits (pkAddr k.u1.toNat) 47 45 ∧
      r.off = bits (pkAddr k.u1.toNat) 44 0 ∧ r.len = pkOperand k.u1.toNat ∧
      r.data = (fit (16 * pkLen k.u0.toNat) k.payload).take (pkOperand k.u1.toNat) ∧
      (∃ q ∈ u.fab.inreqs, q.ref = ref ∧ q.u0 = k.u0.toNat ∧ q.u1 = k.u1.toNat)
  let row (ty : Nat) (p : PortId) (k : Packet) : Instr :=
    if ty = 1 then .read p k else if ty = 2 then .write p k else if ty = 3 then .signal p k else if ty = 4 then .set p k
    else if ty = 5 then .resp p k else .coll p k
  (∀ (s : State) (p : PortId) (k : Packet) (ty c : Nat) (x : PeerCtx) (h : RxHalf), ty = 1 ∨ ty = 2 → here s p k ty c x h →
    fresh k h → lengthOk k.u0.toNat k.u1.toNat = true → bits (pkAddr k.u1.toNat) 47 45 = 0 →
    bits (pkAddr k.u1.toNat) 44 0 + pkOperand k.u1.toNat ≤ s.ddrBytes →
    s.ddrAccept (bits (pkAddr k.u1.toNat) 44 0) (pkOperand k.u1.toNat) (pkSrc k.u0.toNat) (ty == 2) = 0 →
    Answers (row ty p k) s (fun u => goes s k .lane u ∧ noted k c u ∧ plain s u)) ∧
  (∀ (s : State) (p : PortId) (k : Packet) (ty c : Nat) (x : PeerCtx) (h : RxHalf), ty = 1 ∨ ty = 2 → here s p k ty c x h →
    fresh k h → lengthOk k.u0.toNat k.u1.toNat = true → bits (pkAddr k.u1.toNat) 47 45 = 1 →
    bits (pkAddr k.u1.toNat) 44 0 < 2 ^ 31 →
    Answers (row ty p k) s (fun u => goes s k .window u ∧ noted k c u ∧ plain s u)) ∧
  (∀ (s : State) (p : PortId) (k : Packet) (ty c : Nat) (x : PeerCtx) (h : RxHalf), ty = 3 ∨ ty = 4 → here s p k ty c x h →
    fresh k h → bits (pkAddr k.u1.toNat) 47 45 = 2 → bits (pkAddr k.u1.toNat) 44 0 < 65536 →
    bits (pkAddr k.u1.toNat) 44 0 % 4 = 0 → s.syncAccept (bits (pkAddr k.u1.toNat) 44 0 / 4) (pkSrc k.u0.toNat) = 0 →
    Answers (row ty p k) s (fun u =>
      (∃ ref, u.sync.ops = s.sync.ops ++ [{ src := 1024 + p.val, obj := bits (pkAddr k.u1.toNat) 44 0 / 4, set := ty == 4, val := pkOperand k.u1.toNat, reply := some ref }]) ∧
      u.sync.objs = s.sync.objs ∧ noted k c u ∧ u = { s with regs := u.regs, fab := u.fab, mem := u.mem, sync := u.sync })) ∧
  (∀ (s : State) (p : PortId) (k : Packet) (c : Nat) (x : PeerCtx) (h : RxHalf), here s p k 6 c x h → fresh k h →
    let g := bits (pkOperand k.u1.toNat) 31 22
    s.groupValid g = true → s.groupVersion g % 65536 = bits (pkOperand k.u1.toNat) 15 0 → Answers (.coll p k) s (fun u =>
      u.coll = s.coll ++ [{ run := bits (pkAddr k.u1.toNat) 63 32, group := g, src := pkSrc k.u0.toNat, seg := bits (pkAddr k.u1.toNat) 31 16, chunk := bits (pkAddr k.u1.toNat) 15 0, data := fit (16 * pkLen k.u0.toNat) k.payload }] ∧
      u.tiles = s.tiles ∧ u.mem.ddr = s.mem.ddr ∧ u.sync = s.sync)) ∧
  (∀ (s : State) (p : PortId) (k : Packet) (c : Nat) (s1 : State) (x : PeerCtx), s.live → s.lk p.val = lkActive →
    pkType k.u0.toNat = 1 → s.idValid = true → pkDst k.u0.toNat = s.devId → pkSyn k.u0.toNat = true →
    s.ctxOf (pkSrc k.u0.toNat) = none → s.takeCtx (pkSrc k.u0.toNat) = some (c, s1) → s1.pctx c = some x →
    lengthOk k.u0.toNat k.u1.toNat = true → bits (pkAddr k.u1.toNat) 47 45 = 1 → bits (pkAddr k.u1.toNat) 44 0 < 2 ^ 31 →
    (∀ y ∈ s.parts, y.2.ce = []) → Answers (.read p k) s (fun u => goes s k .window u ∧ noted k c u ∧ plain s u)) ∧
  (∀ (s : State) (p : PortId) (k : Packet) (ty : Nat), 1 ≤ ty → ty ≤ 6 → ty ≠ 5 → s.live → s.lk p.val = lkActive →
    pkType k.u0.toNat = ty → s.idValid = true → pkDst k.u0.toNat = s.devId → pkSyn k.u0.toNat = false →
    s.ctxOf (pkSrc k.u0.toNat) = none → (∀ y ∈ s.parts, y.2.ce = []) →
    Answers (row ty p k) s (fun u => u = s.respondTo k.u0.toNat k.u1.toNat 0x33 none [] 0)) ∧
  (∀ (s : State) (p : PortId) (k : Packet) (ty c : Nat) (x : PeerCtx) (h : RxHalf), ty = 1 ∨ ty = 2 → here s p k ty c x h →
    sound s k x → fresh k h → lengthOk k.u0.toNat k.u1.toNat = false → Answers (row ty p k) s (turned s k c 0x22)) ∧
  (∀ (s : State) (p : PortId) (k : Packet) (ty c st : Nat) (x : PeerCtx) (h : RxHalf), ty = 1 ∨ ty = 2 → here s p k ty c x h →
    sound s k x → fresh k h → lengthOk k.u0.toNat k.u1.toNat = true → bits (pkAddr k.u1.toNat) 47 45 = 0 →
    bits (pkAddr k.u1.toNat) 44 0 + pkOperand k.u1.toNat ≤ s.ddrBytes →
    s.ddrAccept (bits (pkAddr k.u1.toNat) 44 0) (pkOperand k.u1.toNat) (pkSrc k.u0.toNat) (ty == 2) = st → st ≠ 0 →
    Answers (row ty p k) s (turned s k c st)) ∧
  (∀ (s : State) (p : PortId) (k : Packet) (ty c st : Nat) (x : PeerCtx) (h : RxHalf), ty = 3 ∨ ty = 4 → here s p k ty c x h →
    sound s k x → fresh k h → bits (pkAddr k.u1.toNat) 47 45 = 2 → bits (pkAddr k.u1.toNat) 44 0 < 65536 →
    bits (pkAddr k.u1.toNat) 44 0 % 4 = 0 → s.syncAccept (bits (pkAddr k.u1.toNat) 44 0 / 4) (pkSrc k.u0.toNat) = st → st ≠ 0 →
    Answers (row ty p k) s (turned s k c st)) ∧
  (∀ (s : State) (p : PortId) (k : Packet) (c : Nat) (x : PeerCtx) (h : RxHalf), here s p k 6 c x h → sound s k x → fresh k h →
    let g := bits (pkOperand k.u1.toNat) 31 22
    s.groupValid g = false ∨ s.groupVersion g % 65536 ≠ bits (pkOperand k.u1.toNat) 15 0 →
    Answers (.coll p k) s (turned s k c 0x35)) ∧
  (∀ (s : State) (p : PortId) (k : Packet) (c st : Nat) (x : PeerCtx) (h : RxHalf), here s p k 1 c x h →
    ¬ fresh k h → (h.high + 65536 - pkSeq k.u0.toNat) % 65536 ≤ 127 →
    h.recs.find? (fun r => decide (r.1 = pkSeq k.u0.toNat)) = some (pkSeq k.u0.toNat, some st) →
    lengthOk k.u0.toNat k.u1.toNat = true → bits (pkAddr k.u1.toNat) 47 45 = 1 → bits (pkAddr k.u1.toNat) 44 0 < 2 ^ 31 →
    Answers (.read p k) s (fun u => goes s k .window u ∧ u.pctx c = s.pctx c ∧ plain s u)) ∧
  (∀ (s : State) (p : PortId) (k : Packet) (ty c st : Nat) (x : PeerCtx) (h : RxHalf), ty = 2 ∨ ty = 3 ∨ ty = 4 →
    here s p k ty c x h → ¬ fresh k h → (h.high + 65536 - pkSeq k.u0.toNat) % 65536 ≤ 127 →
    h.recs.find? (fun r => decide (r.1 = pkSeq k.u0.toNat)) = some (pkSeq k.u0.toNat, some st) →
    Answers (row ty p k) s (fun u =>
      u.sync = s.sync ∧ u.mem.reqs = s.mem.reqs ∧ u.tiles = s.tiles ∧ u.pctx c = s.pctx c ∧
      u = s.respondTo k.u0.toNat k.u1.toNat st none [] 0)) ∧
  (∀ (s : State) (p : PortId) (k : Packet) (ty c : Nat) (x : PeerCtx) (h : RxHalf), ty = 1 ∨ ty = 2 →
    here s p k ty c x h → ¬ fresh k h → (h.high + 65536 - pkSeq k.u0.toNat) % 65536 ≤ 127 →
    h.recs.find? (fun r => decide (r.1 = pkSeq k.u0.toNat)) = some (pkSeq k.u0.toNat, none) →
    Answers (row ty p k) s (fun u => u = s)) ∧
  (∀ (s : State) (p : PortId) (k : Packet) (ty e : Nat), 1 ≤ ty → ty ≤ 6 → s.live → s.lk p.val = lkActive →
    pkType k.u0.toNat = ty → s.idValid = true → pkDst k.u0.toNat ≠ s.devId → pkHops k.u0.toNat < 63 →
    let vc := pkVc ty (pkAddr k.u1.toNat)
    s.route (pkDst k.u0.toNat) (pkSrc k.u0.toNat) (pkCtx k.u0.toNat) vc = some e → Answers (row ty p k) s (fun u =>
      u = (s.cnt aCntFabFwdBytes (32 + 16 * pkLen k.u0.toNat)).enqueue e vc
        (packetBytes (k.u0.toNat + 2 ^ 42) k.u1.toNat (fit (16 * pkLen k.u0.toNat) k.payload)))) ∧
  (∀ (s : State) (p : PortId) (k : Packet) (ty : Nat), 1 ≤ ty → ty ≤ 6 → s.live → s.lk p.val = lkActive →
    pkType k.u0.toNat = ty → s.idValid = true → pkDst k.u0.toNat ≠ s.devId → pkHops k.u0.toNat = 63 →
    Answers (row ty p k) s (fun u => u.rd aCntFabHoplimit = s.rd aCntFabHoplimit + 1 ∧ u.mem.reqs = s.mem.reqs ∧
      u.tiles = s.tiles ∧ u.sync = s.sync)) ∧
  (∀ (s : State) (p : PortId) (k : Packet) (ty : Nat), 1 ≤ ty → ty ≤ 6 → s.lk p.val ≠ lkActive →
    Answers (row ty p k) s (fun u => u = s))

/-- R349, R351, R357 and R391–R397. -/
def Obligations.ResponsesEndRequestsAndTimeoutsRepeat : Prop :=
  let meets (s : State) (p : PortId) (k : Packet) (x : PeerCtx) (o : Outstanding) : Prop :=
    s.live ∧ s.lk p.val = lkActive ∧ pkType k.u0.toNat = 5 ∧ s.idValid = true ∧ pkDst k.u0.toNat = s.devId ∧
    s.pctx (pkCtx k.u0.toNat) = some x ∧ x.outs.find? (fun o => decide (o.seq = pkSeq k.u0.toNat)) = some o ∧
    x.isOpen = true ∧ x.epoch = pkEpoch k.u0.toNat ∧ s.fab.outbox = [] ∧ (∀ y ∈ s.parts, y.2.ce = [])
  (∀ (s : State) (p : PortId) (k : Packet) (x : PeerCtx) (o : Outstanding) (t c n : Nat), meets s p k x o →
    pkStatus k.u0.toNat ∉ [0x31, 0x32, 0x33, 0x34] → o.req.asker = .ctx t c n → Answers (.resp p k) s (fun u =>
      (∀ r, s.findReq o.req.id = some r → u.findReq o.req.id = some { r with stage := .answered, bank := none, status := pkStatus k.u0.toNat, win := pkWin k.u1.toNat, data := if r.write then r.data else (fit (16 * pkLen k.u0.toNat) k.payload).take r.len, poison := if r.write then r.poison else pkPoison k.u1.toNat }) ∧
      (∃ y, u.pctx (pkCtx k.u0.toNat) = some y ∧ y.outs = x.outs.filter (fun y => decide (y.seq ≠ o.seq)) ∧ y.isOpen = true) ∧
      u = { s with regs := u.regs, fab := u.fab, mem := u.mem })) ∧
  (∀ (s : State) (p : PortId) (k : Packet) (x : PeerCtx) (o : Outstanding), meets s p k x o →
    pkStatus k.u0.toNat = 0x31 ∨ pkStatus k.u0.toNat = 0x32 → Answers (.resp p k) s (fun u => u = s)) ∧
  (∀ (s : State) (p : PortId) (k : Packet) (x : PeerCtx) (o : Outstanding) (t c n : Nat) (r : Req), meets s p k x o →
    pkStatus k.u0.toNat = 0x33 → x.outs = [o] → o.req.asker = .ctx t c n → s.findReq o.req.id = some r →
    Answers (.resp p k) s (fun u => u.rd aCntFabStale = s.rd aCntFabStale + 1 ∧
      (∃ y, u.pctx (pkCtx k.u0.toNat) = some y ∧ y.outs = [] ∧ y.isOpen = false) ∧
      (u.findReq o.req.id).map (fun r => (r.stage, r.status)) = some (.answered, 0x30) ∧ u.tiles = s.tiles)) ∧
  (∀ (s : State) (p : PortId) (k : Packet), s.live → s.lk p.val = lkActive → pkType k.u0.toNat = 5 → s.idValid = true →
    pkDst k.u0.toNat = s.devId → (∀ y ∈ s.parts, y.2.ce = []) →
    (s.pctx (pkCtx k.u0.toNat) = none ∨ ∃ x, s.pctx (pkCtx k.u0.toNat) = some x ∧
      (x.isOpen = false ∨ x.epoch ≠ pkEpoch k.u0.toNat ∨ ∀ o ∈ x.outs, o.seq ≠ pkSeq k.u0.toNat)) →
    Answers (.resp p k) s (fun u => u = s)) ∧
  (∀ (s : State) (p : PortId) (k : Packet) (x : PeerCtx) (o : Outstanding), meets s p k x o → pkStatus k.u0.toNat = 0x34 →
    x.busies + 1 < 16 * max 1 (s.getF aFabCfg 19 16) → Answers (.resp p k) s (fun u =>
      u.rd aCntFabBusy = s.rd aCntFabBusy + 1 ∧
      (∃ y, u.pctx (pkCtx k.u0.toNat) = some y ∧ y.outs.length = x.outs.length ∧ y.busies = x.busies + b2n o.syn ∧
        (∀ z ∈ y.outs, z.seq = o.seq → z.busy = true)) ∧ u.mem = s.mem ∧ u.tiles = s.tiles)) ∧
  (∀ (s : State) (c : Nat) (x : PeerCtx) (o : Outstanding), s.live → s.pctx c = some x → x.outs = [o] → o.busy = false →
    o.tries < s.getF aFabCfg 23 20 → Answers (.tpTimeout c) s (fun u =>
      u.rd aCntFabRetx = s.rd aCntFabRetx + 1 ∧
      (∃ y, u.pctx c = some y ∧ y.outs = [{ o with sent := s.hoop, tries := o.tries + 1, busy := false }]) ∧
      u.mem.reqs = s.mem.reqs ∧ u.tiles = s.tiles)) ∧
  (∀ (s : State) (c t k n : Nat) (x : PeerCtx) (o : Outstanding) (r : Req), s.live → s.pctx c = some x → x.outs = [o] →
    o.busy = false → s.getF aFabCfg 23 20 ≤ o.tries → o.req.asker = .ctx t k n → s.findReq o.req.id = some r →
    s.fab.outbox = [] → Answers (.tpTimeout c) s (fun u =>
      u.rd aCntFabTimeout = s.rd aCntFabTimeout + 1 ∧
      (∃ y, u.pctx c = some y ∧ y.outs = [] ∧ y.isOpen = false) ∧
      (u.findReq o.req.id).map (fun r => (r.stage, r.status)) = some (.answered, 0x30) ∧ u.tiles = s.tiles)) ∧
  (∀ (s : State) (c : Nat), s.live → (s.pctx c = none ∨ ∃ x, s.pctx c = some x ∧ x.outs = []) →
    Answers (.tpTimeout c) s (fun u => u = s)) ∧
  (∀ (s : State) (p v : Nat) (pkt : List Byte), p < 16 → v < 6 → s.lk p = lkActive → (s.port p).waiting = [] →
    (s.port p).retry = [] → (s.port p).mid = [] → (s.port p).run < 15 → 0 < (s.port p).window → s.dedicated p v = true → pkt ≠ [] → pkt.length ≤ 240 →
    ((s.arb (33800 + p)).req v).out = 0 →
    let u := s.enqueue p v pkt
    (u.port p).retry = [{ seq := (s.port p).next, vc := v, sh := false, first := 0, payload := pkt ++ List.replicate (240 - pkt.length) 0 }] ∧
    (u.port p).next = ((s.port p).next + 1) % 4096 ∧ (u.port p).wire.length = (s.port p).wire.length + 1 ∧
    u.getF (aLnkTxCredit p v) 12 0 = s.getF (aLnkTxCredit p v) 12 0 - 1 ∧
    u.rd (aCntLnkTxBytes p) = s.rd (aCntLnkTxBytes p) + 240 ∧
    (∀ w, mapGet [] (u.port p).waiting w = []) ∧ u.tiles = s.tiles)

/-- R395, R409–R412 and R418. -/
def Obligations.HoopSynchronisesAndIdsAreTaken : Prop :=
  let sample (s : State) (p : PortId) (k : Packet) : Prop := s.live ∧ s.lk p.val = lkActive ∧ pkType k.u0.toNat = 7 ∧
    bit (pkOperand k.u1.toNat) 7 = true ∧ s.getF aHoopCtrl 8 8 = 0 ∧ s.getF aHoopCtrl 3 0 = p.val
  let off (s : State) (p : PortId) (k : Packet) : Int := (pkAddr k.u1.toNat : Int) + (s.rdN (aLnkRtt p.val) / 2 : Nat) - s.hoop
  let shown (o : Int) : Nat := unsignedOf 16 (max (-32768) (min 32767 o))
  (∀ (s : State) (p : PortId) (k : Packet), sample s p k → s.getF aHoopStatus 31 31 = 0 → s.fab.offsets.length < 7 →
    Answers (.time p k) s (fun u => u.fab.offsets = s.fab.offsets ++ [off s p k] ∧ u.hoop = s.hoop ∧
      u.getF aHoopStatus 15 0 = shown (off s p k) ∧ u.getF aHoopStatus 31 31 = 0 ∧
      s.regsBut (fun a => a = aHoopStatus) u ∧ u = { s with regs := u.regs, fab := u.fab, ports := u.ports })) ∧
  (∀ (s : State) (p : PortId) (k : Packet), sample s p k → s.getF aHoopStatus 31 31 = 0 → s.fab.offsets.length = 7 →
    s.getF aRstCause 7 0 ≠ 6 → Answers (.time p k) s (fun u =>
      let m := (s.medianOf (s.fab.offsets ++ [off s p k])).1
      u.hoop = (((s.hoop : Int) + m) % 2 ^ 64).toNat ∧ u.getF aHoopStatus 31 31 = 1 ∧
      u.getF aHoopStatus 28 22 = min 64 (bits (pkOperand k.u1.toNat) 6 0 + 1) ∧ u.fab.offsets = [] ∧
      s.regsBut (fun a => a = aHoopStatus) u ∧ u.tiles = s.tiles ∧ u.mem = s.mem)) ∧
  (∀ (s : State) (p : PortId) (k : Packet), sample s p k → s.getF aHoopStatus 31 31 = 1 → (off s p k).natAbs ≤ 65536 →
    Answers (.time p k) s (fun u => u.fab.slew = off s p k ∧ u.hoop = s.hoop ∧
      u.getF aHoopStatus 15 0 = shown (off s p k) ∧ u.getF aHoopStatus 29 29 = 0 ∧ u.getF aHoopStatus 30 30 = 0 ∧
      u.getF aHoopStatus 28 22 = min 64 (bits (pkOperand k.u1.toNat) 6 0 + 1) ∧
      u = { s with regs := u.regs, fab := u.fab, ports := u.ports })) ∧
  (∀ (s : State) (p : PortId) (k : Packet), sample s p k → s.getF aHoopStatus 31 31 = 1 → 65536 < (off s p k).natAbs →
    Answers (.time p k) s (fun u => u.getF aHoopStatus 29 29 = 1 ∧ u.fab.slew = 0 ∧
      (0 < off s p k → u.hoop = (s.hoop + (off s p k).toNat) % 2 ^ 64 ∧ u.fab.hold = s.fab.hold) ∧
      (off s p k < 0 → u.hoop = s.hoop ∧ u.fab.hold = (off s p k).natAbs) ∧ u.tiles = s.tiles ∧ u.mem = s.mem)) ∧
  (∀ (s : State) (p : PortId) (k : Packet), s.live → s.lk p.val = lkActive → pkType k.u0.toNat = 7 →
    (bit (pkOperand k.u1.toNat) 7 = false ∨ s.getF aHoopCtrl 8 8 = 1 ∨
      (s.getF aHoopCtrl 3 0 ≠ p.val ∧ (s.fab.secondary = false ∨ s.getF aHoopCtrl 7 4 ≠ p.val))) →
    Answers (.time p k) s (fun u => (u.port p.val).neighbour = pkSrc k.u0.toNat ∧ u = { s with ports := u.ports })) ∧
  (∀ (s : State), s.frozen = false → s.getF aHoopStatus 31 31 = 1 → s.getF aHoopCtrl 8 8 = 0 → Answers .hoopHoldover s (fun u =>
      u.getF aHoopStatus 30 30 = 1 ∧ u.fab.secondary = (s.getF aHoopCtrl 9 9 == 1) ∧ u.hoop = s.hoop ∧
      s.regsBut (fun a => a = aHoopStatus ∨ a = aCntHifEventLost) u ∧ u.tiles = s.tiles ∧ u.mem = s.mem)) ∧
  (∀ (s : State) (p : PortId), s.live → s.lk p.val = lkActive → s.getF aHoopStatus 31 31 = 1 → s.getF aHoopCtrl 8 8 = 0 →
    s.getF aHoopCtrl 3 0 ≠ p.val → s.getF aHoopCtrl 9 9 = 0 → Answers (.timeSend p) s (fun u =>
      u = s.enqueue p.val 6 (packetBytes (mkU0 0 s.devId 1024 0 0 0 false 0 0 7)
        (mkU1 s.hoop (128 + s.getF aHoopStatus 28 22) 0 none 0 0) []))) ∧
  (∀ (s : State) (p : PortId), s.live → s.lk p.val = lkActive → s.getF aHoopCtrl 8 8 = 1 → Answers (.timeSend p) s (fun u =>
      u = s.enqueue p.val 6 (packetBytes (mkU0 0 s.devId 1024 0 0 0 false 0 0 7) (mkU1 s.hoop 128 0 none 0 0) []))) ∧
  (∀ (s : State) (p : PortId), (s.lk p.val ≠ lkActive ∨ (s.getF aHoopCtrl 8 8 = 0 ∧
      (s.getF aHoopCtrl 3 0 = p.val ∨ s.getF aHoopStatus 31 31 = 0))) → Answers (.timeSend p) s (fun u => u = s)) ∧
  (∀ (s : State) (d : BitVec 32), s.admits .mp aFabId false → s.holdsNone (reqKey .mp) → s.fab.outbox = [] → Answers (.fabIdWrite .mp d) s (fun u =>
      u.devId = d.toNat % 2 ^ 16 ∧ u.idValid = d.getLsbD 31 ∧ u.fab.ctxs = [] ∧ u.fab.outbox = [] ∧ u.fab.inreqs = [] ∧
      u.getF aFabCtxInuse 13 0 = 0 ∧ u.tiles = s.tiles ∧ u.mem.ddr = s.mem.ddr)) ∧
  (∀ (s : State) (p : PortId) (k : Packet), s.live → s.lk p.val = lkActive → pkType k.u0.toNat = 8 →
    bits (pkOperand k.u1.toNat) 31 24 = 0 → s.getF aFabStatus 27 27 = 1 → s.idValid = false →
    bits (pkOperand k.u1.toNat) 15 0 ≠ 0xFFFF → pkAddr k.u1.toNat = ownHash → s.fab.outbox = [] → Answers (.explore p k) s (fun u =>
      u.devId = bits (pkOperand k.u1.toNat) 15 0 ∧ u.idValid = true ∧ u.fab.parentPort = some p.val ∧
      u.getF aHoopCtrl 3 0 = p.val ∧
      (∀ i < 256, u.rdN (aFabRouteRegion i) = 16 + p.val ∧ u.rdN (aFabRouteLocal i) = 16 + p.val) ∧ u.tiles = s.tiles)) ∧
  (∀ (s : State), s.frozen = true → Answers .hoopHoldover s (fun u => u = s))

/-- R404, R405 and R408. -/
def Obligations.CollectiveRunsStartCompleteAndFail : Prop :=
  let ready (s : State) (p : PartId) (d : Fin 1024) (o : CeOp) : Prop := s.live ∧ mapGet none (s.part p.val).ce d.val = some o ∧
    o.run = none ∧ o.failed = false ∧ o.defined = true ∧ waitHolds (s.obj ((s.part p.val).syncBase + o.trig)) o.threshold = true
  let failed (s : State) (p : PartId) (d : Fin 1024) (cause : Nat) (u : State) : Prop :=
    (mapGet none (u.part p.val).ce d.val).map (fun o => (o.run, o.failed)) = some (none, true) ∧
    u.rdN aCeStatus = 2 ^ 31 + p.val * 2 ^ 27 + d.val * 2 ^ 16 + cause * 2 ^ 8 ∧
    (u.lastEvent rimMp).map (fun e => (e.1, e.2.1)) = some (0xB4, d.val) ∧ u.faults.length = s.faults.length + 1 ∧
    u.sync = s.sync ∧ u.tiles = s.tiles ∧ u.mem = s.mem
  let armed (s : State) (p : PartId) (d : Fin 1024) (o : CeOp) : State :=
    s.putCe p.val d.val { o with run := some { raw := [], lens := [] } }
  (∀ (s : State) (p : PartId) (d : Fin 1024) (o : CeOp), ready s p d o → s.groupValid o.group = false →
    Answers (.collectiveRunStart p d) s (failed s p d 1)) ∧
  (∀ (s s1 : State) (p : PartId) (d : Fin 1024) (o : CeOp) (h : HubIo), ready s p d o → s.groupValid o.group = true →
    o.segTable = 0 →
    (armed s p d o).hubRead p.val o.src
      (o.size * (if o.op = 2 then nth (evenLens o.count (s.ceSize o.group)) (s.cePos o.group) else o.count)) 1 = (h, s1) →
    Answers (.collectiveRunStart p d) s (fun u =>
      (∀ c a, h.fault = some (c, a) → u = s1.ceFail p.val d.val (if c = 0 then 4 else 5) a) ∧
      (h.fault = none → let r := s1.farReads (.ce p.val d.val) 1 h.far
        let lens := evenLens o.count (s.ceSize o.group)
        u = (r.2.putCe p.val d.val { o with run := some { raw := h.data, reads := r.1, lens := if o.op = 4 then [1] else lens } }).ceAdvance
          p.val d.val))) ∧
  (∀ (s s1 : State) (p : PartId) (d : Fin 1024) (o : CeOp) (h : HubIo), ready s p d o → s.groupValid o.group = true →
    o.segTable ≠ 0 → (armed s p d o).hubRead p.val o.segTable (4 * s.ceSize o.group) 0 = (h, s1) →
    Answers (.collectiveRunStart p d) s (fun u =>
      (∀ c a, h.fault = some (c, a) → u = s1.ceFail p.val d.val (if c = 0 then 4 else 5) a) ∧
      (h.fault = none → h.far = [] →
        let t := s1.putCe p.val d.val { o with run := some { table := true, raw := h.data, lens := [] } }
        ((codesOf 4 h.data).sum ≠ o.count → u = t.ceFail p.val d.val 2 0) ∧
        ((codesOf 4 h.data).sum = o.count → u = (t.ceSource p.val d.val o (codesOf 4 h.data)).ceAdvance p.val d.val)) ∧
      (h.fault = none → h.far ≠ [] → let r := s1.farReads (.ce p.val d.val) 1 h.far
        u = r.2.putCe p.val d.val { o with run := some { table := true, raw := h.data, reads := r.1, lens := [] } }))) ∧
  (∀ (s : State) (p : PartId) (d : Fin 1024) (o : CeOp), s.live → mapGet none (s.part p.val).ce d.val = some o →
    (o.run.isSome = true ∨ o.failed = true ∨ o.defined = false ∨
      waitHolds (s.obj ((s.part p.val).syncBase + o.trig)) o.threshold = false) →
    Answers (.collectiveRunStart p d) s (fun u => u = s)) ∧
  (∀ (s : State) (p : PartId) (d : Fin 1024) (o : CeOp) (r : CeRun), s.live →
    mapGet none (s.part p.val).ce d.val = some o → o.run = some r → r.written = true → r.open_ = [] → s.ceAllSent o r = true →
    Answers (.collectiveRunComplete p d) s (fun u =>
      mapGet none (u.part p.val).ce d.val = some { o with run := none, runs := o.runs + 1 } ∧
      u.sync.ops = s.sync.ops ++ [{ src := 2049, obj := (s.part p.val).syncBase + o.done, set := false, val := o.doneAmt, reply := none }] ∧
      u.rd aCntCeRuns = s.rd aCntCeRuns + 1 ∧ s.regsBut (fun a => a = aCntCeRuns) u ∧ u.sync.objs = s.sync.objs ∧
      u.tiles = s.tiles ∧ u.mem = s.mem)) ∧
  (∀ (s : State) (p : PartId) (d : Fin 1024) (o : CeOp) (r : CeRun) (cause : Byte), s.live →
    mapGet none (s.part p.val).ce d.val = some o → o.run = some r →
    Answers (.collectiveRunFail p d cause) s (failed s p d cause.toNat)) ∧
  (∀ (s : State) (p : PartId) (d : Fin 1024) (o : CeOp) (cause : Byte), s.live →
    mapGet none (s.part p.val).ce d.val = some o → o.run = none →
    Answers (.collectiveRunComplete p d) s (fun u => u = s) ∧ Answers (.collectiveRunFail p d cause) s (fun u => u = s)) ∧
  (∀ (s : State) (p : PartId) (d : Fin 1024) (o : CeOp) (r : CeRun), s.live →
    mapGet none (s.part p.val).ce d.val = some o → o.run = some r → (r.written = false ∨ r.open_ ≠ [] ∨ s.ceAllSent o r = false) →
    Answers (.collectiveRunComplete p d) s (fun u => u = s))

/-! ### Wales, faults and partitions -/

/-- R427–R432 and R448. -/
def Obligations.WalesAreTakenAndMirrored : Prop :=
  let due (s : State) (p : PartId) : Prop := s.live ∧ s.partExists p.val = true ∧ s.getF (aMpWaleCfg p.val) 31 16 ≠ 0 ∧
    wrapGe (s.obj (s.waleObj p.val 0)) (((s.wale p.val).k + 1) * (s.partTiles p.val).length % 2 ^ 32) = true ∧
    (s.part p.val).replay = none
  let op (s : State) (p : PartId) (k : Nat) (set : Bool) (v : Nat) : SyncOp :=
    { src := 2050, obj := s.waleObj p.val k, set := set, val := v, reply := none }
  let calm (s u : State) : Prop := u.tiles = s.tiles ∧ u.sync.objs = s.sync.objs ∧ u.host.mem = s.host.mem
  (∀ (s : State) (p : PartId), due s p → (s.rdN (aMpWaleStep p.val) + 1) % s.getF (aMpWaleCfg p.val) 31 16 ≠ 0 →
    (s.wale p.val).due = false → Answers (.stepBoundary p) s (fun u =>
      u.rd (aMpWaleStep p.val) = s.rd (aMpWaleStep p.val) + 1 ∧ (u.wale p.val).k = (s.wale p.val).k + 1 ∧
      (u.part p.val).strikes = 0 ∧ u.sync.ops = s.sync.ops ++ [op s p 1 true ((s.wale p.val).k + 1)] ∧
      s.regsBut (fun a => a = aMpWaleStep p.val) u ∧ u.mem = s.mem ∧ calm s u)) ∧
  (∀ (s : State) (p : PartId), s.live → (s.partExists p.val = false ∨ s.getF (aMpWaleCfg p.val) 31 16 = 0 ∨
    wrapGe (s.obj (s.waleObj p.val 0)) (((s.wale p.val).k + 1) * (s.partTiles p.val).length % 2 ^ 32) = false) →
    Answers (.stepBoundary p) s (fun u => u = s)) ∧
  (∀ (s : State) (p : PartId) (r : Replay), s.live → s.partExists p.val = true → s.getF (aMpWaleCfg p.val) 31 16 ≠ 0 →
    wrapGe (s.obj (s.waleObj p.val 0)) (((s.wale p.val).k + 1) * (s.partTiles p.val).length % 2 ^ 32) = true →
    (s.part p.val).replay = some r → s.rdN (aMpWaleStep p.val) + 1 < r.stopStep → Answers (.stepBoundary p) s (fun u =>
      u.rd (aMpWaleStep p.val) = s.rd (aMpWaleStep p.val) + 1 ∧
      u.sync.ops = s.sync.ops ++ [op s p 1 true ((s.wale p.val).k + 1)] ∧
      s.regsBut (fun a => a = aMpWaleStep p.val) u ∧ u.mem = s.mem ∧ calm s u)) ∧
  (∀ (s : State) (p : PartId), due s p →
    ((s.wale p.val).due = true ∨ (s.rdN (aMpWaleStep p.val) + 1) % s.getF (aMpWaleCfg p.val) 31 16 = 0) →
    wrapGe (s.obj (s.waleObj p.val 3)) (((s.wale p.val).q + 1 + 2 ^ 32 - 1) % 2 ^ 32) = false →
    Answers (.stepBoundary p) s (fun u =>
      u.rd (aMpWaleStep p.val) = s.rd (aMpWaleStep p.val) + 1 ∧ u.waleState p.val = 1 ∧
      u.getF (aMpWaleStatus p.val) 27 0 = ((s.wale p.val).q + 1) % 2 ^ 28 ∧ (u.wale p.val).due = false ∧
      (u.wale p.val).step = s.rdN (aMpWaleStep p.val) + 1 ∧ (u.wale p.val).streams = s.streamBytes p.val ∧
      u.sync.ops = s.sync.ops ∧ (u.lastEvent rimMp).map (fun e => (e.1, e.2.1)) = some (0xC0, p.val) ∧ u.mem = s.mem ∧ calm s u)) ∧
  (∀ (s : State) (p : PartId), s.live → s.waleState p.val = 1 → s.committed p.val = true → (s.wale p.val).regions = [] →
    (s.wale p.val).cursors = 0 → Answers (.waleCommitStallEnd p) s (fun u =>
      u.waleState p.val = 2 ∧ (u.wale p.val).slot = s.freeSlot p.val ∧
      mapGet none (u.wale p.val).slots (s.freeSlot p.val) = none ∧ u.sync.ops = s.sync.ops ∧ calm s u)) ∧
  (∀ (s s1 : State) (p : PartId) (e : Nat), s.live → s.waleState p.val = 1 → s.committed p.val = true →
    let slot := s.freeSlot p.val
    let base := (s.onWale p.val (fun w => { w with slot, slots := mapPut none w.slots slot none })).slotBase p.val slot
    (((s.onWale p.val (fun w => { w with slot, slots := mapPut none w.slots slot none })).memWrite (base + 3) [0] 1).setWale p.val
      2).copyRegions p.val base = (.error e, s1) → Answers (.waleCommitStallEnd p) s (fun u => u = s1.waleFails p.val e)) ∧
  (∀ (s : State) (p : PartId), s.live → (s.waleState p.val ≠ 1 ∨ s.committed p.val = false) →
    Answers (.waleCommitStallEnd p) s (fun u => u = s)) ∧
  (∀ (s : State) (p : PartId), s.live → (s.waleState p.val ≠ 2 → Answers (.waleCopyComplete p) s (fun u => u = s)) ∧
    ((s.wale p.val).mirror = none → Answers (.waleMirrorComplete p) s (fun u => u = s)) ∧
    (s.waleState p.val ≠ 1 → Answers (.commitStallOver1s p) s (fun u => u = s))) ∧
  (∀ (s : State) (p : PartId), s.live → s.waleState p.val = 2 → Answers (.waleCopyComplete p) s (fun u =>
      mapGet none (u.wale p.val).slots (s.wale p.val).slot = some (s.wale p.val).step ∧
      u.rdN (aMpWaleLocal p.val) = (s.wale p.val).step % 2 ^ 64 ∧
      u.getF (aMpWaleStatus p.val) 28 28 = (s.wale p.val).slot % 2 ∧
      u.sync.ops = s.sync.ops ++ [op s p 1 true (s.wale p.val).k] ∧
      (s.getF (aMpWaleBuddy p.val) 0 0 = 0 → u.waleState p.val = 0) ∧
      (s.getF (aMpWaleBuddy p.val) 0 0 = 1 → u.waleState p.val = 3 ∧
        (u.wale p.val).mirror = some ((s.wale p.val).step, (s.wale p.val).slot)) ∧ calm s u)) ∧
  (∀ (s : State) (p : PartId) (step slot : Nat), s.live → (s.wale p.val).mirror = some (step, slot) →
    Answers (.waleMirrorComplete p) s (fun u =>
      (u.wale p.val).mirror = none ∧ u.rdN (aMpWaleMirror p.val) = step % 2 ^ 64 ∧ u.waleState p.val ≠ 3 ∧
      u.sync.ops = s.sync.ops ++ op s p 2 false 1 :: (if s.getF (aMpWaleCfg p.val) 0 0 = 0 then [op s p 3 false 1] else []) ∧
      u.lastEvent rimMp = some (0xC2, p.val, step % 2 ^ 48) ∧ calm s u)) ∧
  (∀ (s : State) (p : PartId) (st : Byte), s.live → s.waleState p.val = 0 → (s.wale p.val).mirror = none →
    Answers (.waleFault p st) s (fun u => u = s)) ∧
  (∀ (s : State) (p : PartId) (st : Byte), s.live →
    s.waleState p.val = 2 ∨ (s.waleState p.val = 1 ∧ (s.wale p.val).mirror = none) → Answers (.waleFault p st) s (fun u =>
      u.waleState p.val = 0 ∧ u.getF (aMpWaleStatus p.val) 29 29 = 1 ∧
      u.sync.ops = s.sync.ops ++ [op s p 1 true (s.wale p.val).k] ∧ u.lastEvent rimMp = some (0xC3, p.val, st.toNat) ∧
      (u.wale p.val).slots = (s.wale p.val).slots ∧ u.mem = s.mem ∧ calm s u)) ∧
  (∀ (s : State) (p : PartId), s.live → s.waleState p.val = 1 → Answers (.commitStallOver1s p) s (fun u =>
      u.lastEvent rimMp = some (0xC4, p.val, s.getF (aMpWaleStatus p.val) 27 0) ∧ u = { s with rims := u.rims }))

/-- R38, R444, R445, R477, R481–R488 and R573. -/
def Obligations.FaultsAndPreemptionsActOnPartitions : Prop :=
  let fatal (s : State) (cause : Nat) (u : State) : Prop := u.getF aHifStatus 2 0 = 3 ∧ u.pwr.alert = true ∧
    u.rdN (aRstSticky 0) = 2 ^ 63 + cause * 2 ^ 48 + s.hoop % 2 ^ 48 ∧ (∀ p < 16, u.lk p = lkDisabled) ∧
    u.mem.ddr = s.mem.ddr ∧ u.sync = s.sync
  -- no trigger of a freeze stands before the fault's handling
  let handled (s : State) (f : FaultPost) : Prop :=
    f.froze = true ∨ (s.dbgEn 5 = false ∧ ¬(f.cause = 6 ∧ f.source = 1 ∧ s.dbgEn 6 = true))
  (∀ (s : State) (f : FaultPost) (rest : List FaultPost), s.live → s.faults = f :: rest → handled s f →
    (s.part f.part).faults = 0 → f.part < 16 → Answers .containedFaultPost s (fun u =>
      u.faults = rest ∧ (u.part f.part).faults = 1 ∧ u.job f.part = (if s.job f.part = 2 then 6 else s.job f.part) ∧
      (u.part f.part).detail = some (faultDetail f.cause f.source f.tile f.entry, f.addr) ∧
      (u.part f.part).strikes = (s.part f.part).strikes + 1 ∧ u.mem.ddr = s.mem.ddr)) ∧
  (∀ (s : State) (f : FaultPost) (rest : List FaultPost), s.live → s.faults = f :: rest → handled s f →
    (s.part f.part).faults ≠ 0 → Answers .containedFaultPost s (fun u =>
      u.faults = rest ∧ (u.part f.part).faults = (s.part f.part).faults + 1 ∧ (u.part f.part).detail = (s.part f.part).detail ∧
      (u.part f.part).strikes = (s.part f.part).strikes ∧
      (s.partAtRest f.part = false → (∀ q, q ≠ f.part → u.part q = s.part q) ∧ u = { s with faults := rest, parts := u.parts }))) ∧
  (∀ (s : State) (f : FaultPost) (rest : List FaultPost), s.live → s.faults = f :: rest → ¬ handled s f →
    Answers .containedFaultPost s (fun u => u.frozen = true ∧
      u.getF aDbgFreezeStatus 3 0 = (if s.dbgEn 5 = true then 4 else 5) ∧
      u.faults = { f with froze := true } :: rest ∧ u.tiles = s.tiles ∧ u.parts = s.parts)) ∧
  (∀ (s : State), s.live → s.faults = [] → Answers .containedFaultPost s (fun u => u = s)) ∧
  (∀ (s : State) (cause : Byte), s.getF aHifStatus 2 0 ≠ 3 → Answers (.fatalFault cause) s (fatal s cause.toNat)) ∧
  (∀ (s : State), s.live → s.getF aHifStatus 2 0 ≠ 3 → Answers .mpWatchdogExpiry s (fatal s 0x14)) ∧
  (∀ (s : State) (cause : Byte), s.getF aHifStatus 2 0 = 3 → Answers (.fatalFault cause) s (fun u => u = s) ∧
    Answers .mpWatchdogExpiry s (fun u => u = s)) ∧
  (∀ (s : State) (p : PartId), s.live → s.job p.val = 2 → s.rdN (aMpPartSlice p.val) ≠ 0 → (s.part p.val).preempt = none →
    (∃ q ∈ s.ready, s.partHome q &&& s.partHome p.val ≠ 0) → (∀ f ∈ s.faults, f.part ≠ p.val) →
    Answers (.timeSliceExpiry p) s (fun u =>
      (u.part p.val).preempt = some (1, s.hoop) ∧ u.rd (aCntPartPreempt p.val) = s.rd (aCntPartPreempt p.val) + 1 ∧
      (∀ t ∈ s.partTiles p.val, s.sq t = sqRun ∨ s.sq t = sqBlocked → (u.tile t).seq.stopReq = some 2) ∧
      u.sync.objs = s.sync.objs ∧ u.mem = s.mem)) ∧
  (∀ (s : State) (p : PartId), s.live → (s.job p.val ≠ 2 ∨ s.rdN (aMpPartSlice p.val) = 0 ∨ (s.part p.val).preempt.isSome = true ∨
    (∀ q ∈ s.ready, s.partHome q &&& s.partHome p.val = 0) ∨ ∃ f ∈ s.faults, f.part = p.val) →
    Answers (.timeSliceExpiry p) s (fun u => u = s)) ∧
  (∀ (s : State) (p : PartId) (c : Nat × Nat), s.live → (s.part p.val).preempt = some c → (s.part p.val).saving = false →
    s.partAtRest p.val = true → Answers (.preemptAllStopped p) s (fun u =>
      u.part p.val = { s.part p.val with saving := true } ∧ (∀ q, q ≠ p.val → u.part q = s.part q) ∧
      u.tiles = s.tiles ∧ u.sync = s.sync)) ∧
  (∀ (s : State) (p : PartId), s.live → ((s.part p.val).preempt = none ∨ s.partAtRest p.val = false) →
    Answers (.preemptAllStopped p) s (fun u => u = s)) ∧
  (∀ (s : State) (p : PartId) (cause h : Nat), s.live → (s.part p.val).preempt = some (cause, h) →
    (s.part p.val).saving = true → Answers (.preemptSaveComplete p) s (fun u =>
      u.job p.val = 4 ∧ (u.part p.val).preempt = none ∧ (u.part p.val).saved.map (·.1) = s.partTiles p.val ∧
      (∀ x ∈ (u.part p.val).saved, x.2.tile.spad = (s.tile x.1).spad ∧ x.2.tile.gab = (s.tile x.1).gab) ∧
      (cause = 2 → s.ready = [] → u.partResident p.val = false) ∧ u.tiles = s.tiles ∧ u.sync = s.sync)) ∧
  (∀ (s : State) (p : PartId), s.live → ((s.part p.val).preempt = none ∨ (s.part p.val).saving = false) →
    Answers (.preemptSaveComplete p) s (fun u => u = s)) ∧
  (∀ (s : State) (p : PartId) (h t : Nat) (v : SavedTile), s.live → (s.part p.val).resuming = some h →
    (s.part p.val).saved = [(t, v)] → s.mem.l2 = [] → s.mem.retiring = none → s.getF aDdrStatus 7 7 = 1 →
    Answers (.resumeRestoreComplete p) s (fun u =>
      (∀ a < 2 ^ 21, (u.tile t).byte a =
        mapGet 0 s.mem.ddr (s.remap ((s.part p.val).saveArea + 65536 + 256 * (a / 256)) + a % 256)) ∧
      (u.part p.val).saved = [] ∧ bit (u.rdN aMacRampStatus) p.val = true ∧
      (∀ w, w ≠ t → (u.tile w).spad = (s.tile w).spad ∧ (u.tile w).gab = (s.tile w).gab) ∧
      u.sync.objs = s.sync.objs ∧ u.mem.ddr = s.mem.ddr)) ∧
  (∀ (s : State) (p : PartId), s.live → ((s.part p.val).resuming = none ∨ (s.part p.val).saved = []) →
    Answers (.resumeRestoreComplete p) s (fun u => u = s))

/-! ### The host interface -/

/-- R450, R454–R460, R463–R470 and R473. -/
def Obligations.InterfaceTakesPacketsAndWritesRecords : Prop :=
  let slot (s : State) (j : Nat) : Nat :=
    (bits (s.rdN aHifRingBase) 63 12 * 4096 + 32 * (s.rdN aHifRingTail % s.ringSize) + j) % 2 ^ 64
  let phase (s : State) : Nat := (s.rdN aHifRingTail / s.ringSize + 1) % 2
  let hifRegs (a : Nat) : Prop := a = aHifPend ∨ a = aHifStatus
  let onlyHost (s u : State) : Prop := u = { s with regs := u.regs, host := u.host }
  let sends (s : State) (v : Nat) : Prop :=
    v = 1 ∨ s.getF aHifRingCtrl 15 8 ≤ 1 ∨ s.getF aHifRingCtrl 15 8 ≤ mapGet 0 s.host.since v + 1
  let signalled (s : State) (v : Nat) : Prop := s.getF aHifStatus 2 0 ≠ 2 ∨ v ≤ 1
  let told (s u : State) (v : Nat) : Prop :=
    (¬sends s v → mapGet 0 u.host.since v = mapGet 0 s.host.since v + 1 ∧ u.host.messages = s.host.messages ∧ u.host.pend = s.host.pend) ∧
    (sends s v → mapGet 0 u.host.since v = 0 ∧
      (signalled s v → mapGet false s.host.unmasked v = true →
        mapGet 0 u.host.messages v = mapGet 0 s.host.messages v + 1 ∧ u.host.pend = s.host.pend) ∧
      (signalled s v → mapGet false s.host.unmasked v = false → mapGet false u.host.pend v = true ∧ u.host.messages = s.host.messages) ∧
      (¬signalled s v → u.host.messages = s.host.messages ∧ u.host.pend = s.host.pend)) ∧
    (∀ w, w ≠ v → mapGet 0 u.host.since w = mapGet 0 s.host.since w ∧ mapGet 0 u.host.messages w = mapGet 0 s.host.messages w ∧
      mapGet false u.host.pend w = mapGet false s.host.pend w)
  let known (s : State) : Prop := ∀ x ∈ s.host.fifo, (hostRow (pktOpcode x)).isSome = true
  (∀ (s : State) (off : BitVec 26) (data : List Byte), s.hostUp = true → s.host.fifo.length < 1024 → off.toNat % 64 = 0 →
    (data.length = 64 ∨ data.length = 128) → Answers (.apertureWrite off data) s (fun u =>
      u.host = { s.host with fifo := s.host.fifo ++ [data] } ∧ u.getF aHifStatus 28 18 = s.host.fifo.length + 1 ∧
      s.regsBut hifRegs u ∧ onlyHost s u)) ∧
  (∀ (s : State) (off : BitVec 26) (data : List Byte), s.hostUp = true → s.host.fifo.length < 1024 →
    (off.toNat % 64 ≠ 0 ∨ (data.length ≠ 64 ∧ data.length ≠ 128)) → Answers (.apertureWrite off data) s (fun u =>
      u.host.fifo = s.host.fifo ∧ u.getF aHifStatus 7 7 = 1 ∧ u.rd aCntHifBadWrite = s.rd aCntHifBadWrite + 1 ∧
      u.lastEvent rimMp = some (0xD0, data.length % 2 ^ 24, off.toNat % 65536) ∧
      (s.host.eventQ.length < 64 → u.host.eventQ = s.host.eventQ ++ [s.record 0 11 0 255 (off.toNat % 65536) data.length true]) ∧
      (64 ≤ s.host.eventQ.length → u.host.eventQ = s.host.eventQ ∧ u.host.lost = s.host.lost + 1 ∧
        u.rd aCntHifEventLost = s.rd aCntHifEventLost + 1) ∧
      s.regsBut (fun a => a = aHifStatus ∨ a = aCntHifBadWrite ∨ a = aCntHifEventLost) u ∧ s.rimsBut rimMp u ∧
      u = { s with regs := u.regs, host := u.host, rims := u.rims })) ∧
  (∀ (s : State) (off : BitVec 26) (data : List Byte), (s.hostUp = false ∨ 1024 ≤ s.host.fifo.length) →
    Answers (.apertureWrite off data) s (fun u => u = s)) ∧
  (∀ (s : State) (c : Instr) (op : Nat), opcodeOf c = some op → s.serves op = false → Answers c s (fun u => u = s)) ∧
  (∀ (s : State) (c : Instr) (op : Nat), opcodeOf c = some op → known s → s.nextPacket op = none → Answers c s (fun u => u = s)) ∧
  (∀ s : State, (s.heldBack 0x32 = true → Answers .jobStop s (fun u => u = s)) ∧
    (s.heldBack 0x33 = true → Answers .jobPreempt s (fun u => u = s))) ∧
  (∀ (s : State) (c : Instr) (op : Nat) (x : List Byte), opcodeOf c = some op → s.serves op = true → s.mode ≠ 4 → s.host.running = [] →
    s.host.fifo = [x] → hostRow (pktOpcode x) = none → (op = 0x32 ∨ op = 0x33 → s.heldBack op = false) →
    Answers c s (fun u => u = (s.takeAt 0).reply x ((modeStatus s.mode (pktOpcode x)).getD stBadOpcode) 0 0)) ∧
  (∀ (s : State) (i : Nat), (s.takeAt i).host = { s.host with fifo := s.host.fifo.eraseIdx i } ∧
    (s.takeAt i).rd aCntHifPackets = s.rd aCntHifPackets + 1 ∧
    s.regsBut (fun a => hifRegs a ∨ a = aCntHifPackets) (s.takeAt i) ∧ onlyHost s (s.takeAt i)) ∧
  (∀ (s : State) (c : Instr) (op i st : Nat) (k : List Byte), opcodeOf c = some op → s.serving op k i →
    modeStatus (s.serveMode op) op = some st → Answers c s (fun u => u = (s.takeAt i).reply k st 0 0)) ∧
  (∀ (s : State) (c : Instr) (op i : Nat) (k : List Byte) (r : HostRow), opcodeOf c = some op → s.serving op k i →
    modeStatus (s.serveMode op) op = none → hostRow op = some r →
    (¬(k.length = r.size ∧ pktSize k = (if r.size = 128 then 1 else 0)) →
      Answers c s (fun u => u = (s.takeAt i).reply k stBadLength 0 0)) ∧
    (k.length = r.size ∧ pktSize k = (if r.size = 128 then 1 else 0) → s.partFieldOk r (pktPart k) = false →
      Answers c s (fun u => u = (s.takeAt i).reply k stBadPartition 0 0)) ∧
    (∀ o, k.length = r.size ∧ pktSize k = (if r.size = 128 then 1 else 0) → s.partFieldOk r (pktPart k) = true →
      o < k.length → r.names o = false → recByte k o ≠ 0 →
      Answers c s (fun u => ∃ d0 ≤ o, u = (s.takeAt i).reply k stBadParam d0 0)) ∧
    (∀ o, k.length = r.size ∧ pktSize k = (if r.size = 128 then 1 else 0) → s.partFieldOk r (pktPart k) = true →
      (o, false) ∈ s.limitsOf op k → Answers c s (fun u => ∃ d0 ≤ o, u = (s.takeAt i).reply k stBadParam d0 0))) ∧
  (∀ (s : State) (k : List Byte) (st d0 d1 : Nat), s.host.replyQ = [] → s.ringRoom = true →
    let u := s.reply k st d0 d1
    let r := (s.record (pktTag k) (pktOpcode k) st (pktPart k) d0 d1 false).set 5 (BitVec.ofNat 8 (phase s))
    (∀ j < 32, mapGet 0 u.host.mem (slot s j) = r.getD j 0) ∧
    (∀ a, (∀ j < 32, a ≠ slot s j) → mapGet 0 u.host.mem a = mapGet 0 s.host.mem a) ∧
    u.rdN aHifRingTail = (s.rdN aHifRingTail + 1) % 2 ^ 32 ∧ u.rd aCntHifReplies = s.rd aCntHifReplies + 1 ∧
    u.host.replyQ = [] ∧ u.host.fifo = s.host.fifo ∧ u.host.running = s.host.running ∧ u.host.eventQ = s.host.eventQ ∧
    told s u (if pktPart k = 255 then 0 else 2 + pktPart k) ∧
    s.regsBut (fun a => hifRegs a ∨ a = aHifRingTail ∨ a = aCntHifReplies) u ∧ onlyHost s u) ∧
  (∀ (s : State) (k : List Byte) (st d0 d1 : Nat), (s.host.replyQ ≠ [] ∨ s.ringRoom = false) →
    let u := s.reply k st d0 d1
    u.host = { s.host with replyQ := s.host.replyQ ++ [s.record (pktTag k) (pktOpcode k) st (pktPart k) d0 d1 false] } ∧
    (s.ringOn = true → u.getF aHifStatus 8 8 = 1 ∧ (u.lastEvent rimMp).map (·.1) = some 0xD1) ∧
    (s.ringOn = false → u.rims = s.rims) ∧ s.rimsBut rimMp u ∧ s.regsBut hifRegs u ∧
    u = { s with regs := u.regs, host := u.host, rims := u.rims }) ∧
  (∀ (s : State) (r : List Byte) (a b : List (List Byte)), s.ringRoom = true → s.host.eventQ = a ++ r :: b → r.length = 32 →
    bit (recByte r 5) 1 = true →
    ((a = [] ∧ s.host.evRecs.length < 64) ∨
      (64 ≤ s.host.evRecs.length ∧ pktField r 2 2 = 4 ∧ ∀ x ∈ a, pktField x 2 2 ≠ 4)) → Answers .eventRecordWrite s (fun u =>
      u.host.eventQ = s.host.eventQ.erase r ∧ u.host.evRecs = s.host.evRecs ++ [s.rdN aHifRingTail] ∧
      (∀ j < 24, j ≠ 5 → mapGet 0 u.host.mem (slot s j) = r.getD j 0) ∧
      mapGet 0 u.host.mem (slot s 5) = BitVec.ofNat 8 (recByte r 5 / 2 * 2 + phase s) ∧
      (∀ a, (∀ j < 32, a ≠ slot s j) → mapGet 0 u.host.mem a = mapGet 0 s.host.mem a) ∧
      u.rdN aHifRingTail = (s.rdN aHifRingTail + 1) % 2 ^ 32 ∧ u.rd aCntHifEvents = s.rd aCntHifEvents + 1 ∧
      u.host.fifo = s.host.fifo ∧ u.host.replyQ = s.host.replyQ ∧ told s u (recordVector (recByte r 6) (pktField r 2 2) true) ∧
      s.regsBut (fun a => a = aHifRingTail ∨ a = aCntHifEvents) u ∧ onlyHost s u)) ∧
  (∀ s : State, s.ringRoom = true → s.host.eventQ = [] → s.host.evRecs.length < 64 → s.host.lost ≠ 0 → Answers .eventRecordWrite s (fun u =>
      u.host.lost = 0 ∧ u.host.evRecs = s.host.evRecs ++ [s.rdN aHifRingTail] ∧
      (∀ j < 24, j ≠ 5 → mapGet 0 u.host.mem (slot s j) = (s.record 0 12 0 255 s.host.lost 0 true).getD j 0) ∧
      u.rdN aHifRingTail = (s.rdN aHifRingTail + 1) % 2 ^ 32 ∧ u.rd aCntHifEvents = s.rd aCntHifEvents + 1 ∧
      told s u 0 ∧ s.regsBut (fun a => a = aHifRingTail ∨ a = aCntHifEvents) u ∧ onlyHost s u)) ∧
  (∀ s : State, (s.ringRoom = false ∨ (s.host.eventQ = [] ∧ s.host.lost = 0) ∨
      (64 ≤ s.host.evRecs.length ∧ ∀ x ∈ s.host.eventQ, pktField x 2 2 ≠ 4)) → Answers .eventRecordWrite s (fun u => u = s)) ∧
  (∀ (s : State) (v : Fin 32), (v.val = 1 ∨ mapGet 0 s.host.since v.val = 0 ∨ s.getF aHifRingCtrl 31 16 = 0) →
    Answers (.interruptCoalTimeout v) s (fun u => u = s)) ∧
  (∀ (s : State) (v : Fin 32), v.val ≠ 1 → mapGet 0 s.host.since v.val ≠ 0 → s.getF aHifRingCtrl 31 16 ≠ 0 → ¬signalled s v.val →
    Answers (.interruptCoalTimeout v) s (fun u => mapGet 0 u.host.since v.val = 0 ∧
      u = { s with host := { s.host with since := u.host.since } })) ∧
  (∀ s : State, ¬(4 ≤ s.pwr.released ∨ s.pwr.warm = true) → Answers .functionLevelReset s (fun u => u = s)) ∧
  (∀ (s : State) (v : Fin 32), v.val ≠ 1 → mapGet 0 s.host.since v.val ≠ 0 → s.getF aHifRingCtrl 31 16 ≠ 0 →
    (s.getF aHifStatus 2 0 ≠ 2 ∨ v.val ≤ 1) → Answers (.interruptCoalTimeout v) s (fun u =>
      mapGet 0 u.host.since v.val = 0 ∧
      (mapGet false s.host.unmasked v.val = true → mapGet 0 u.host.messages v.val = mapGet 0 s.host.messages v.val + 1 ∧
        u.host.pend = s.host.pend) ∧
      (mapGet false s.host.unmasked v.val = false → mapGet false u.host.pend v.val = true ∧
        u.host.messages = s.host.messages) ∧
      u = { s with host := { s.host with since := u.host.since, messages := u.host.messages, pend := u.host.pend } })) ∧
  (∀ s : State, (4 ≤ s.pwr.released ∨ s.pwr.warm = true) → Answers .functionLevelReset s (fun u =>
    u.host.fifo = [] ∧ u.host.replyQ = [] ∧ u.rdN aHifRingBase = 0 ∧ u.rdN aHifRingCtrl = 0 ∧ u.rdN aHifRingHead = 0 ∧
    u.rdN aHifRingTail = 0 ∧ u.host.running = s.host.running.map (fun r => { r with mute := true }) ∧
    u.host.unmasked = [] ∧ u.host.pend = [] ∧ u.host.since = [] ∧ (∀ n < 7, u.rdN (aCntHifPackets + 8 * n) = 0) ∧
    u.getF aHifStatus 2 0 = s.getF aHifStatus 2 0 ∧ u.getF aHifStatus 6 6 = s.getF aHifStatus 6 6 ∧
    u.lastEvent rimMp = some (0xD3, s.host.fifo.length % 2 ^ 24, s.host.running.length % 2 ^ 48) ∧
    u.host.mem = s.host.mem ∧ u.host.eventQ = s.host.eventQ ∧ s.rimsBut rimMp u ∧
    u = { s with regs := u.regs, host := u.host, rims := u.rims }))

/-- R403, R414–R418, R441, R462, R465, R506, R515, R533, R539, R545–R550, R561, R565, R571, R575, R579. -/
def Obligations.DeviceCommandsHaveTheirEffects : Prop :=
  let buf (k : List Byte) (o : Nat) (d : List Byte) : List Byte := fit (bufLen k o) d
  let filled (c : Bool → Instr) (op o : Nat) (more : State → List Byte → List Limit) (data : State → List Byte → List Byte) : Prop :=
    ∀ (s : State) (k : List Byte) (i : Nat), s.accepts op (bufLimits k o ++ more s k) k i →
      Answers (c true) s (fun u => if (data (s.takeAt i) k).length ≤ bufLen k o then
        ∃ v : State, v.host.mem = (s.host.put (bufAddr k o) (data (s.takeAt i) k)).mem ∧
          v = { s.takeAt i with host := { (s.takeAt i).host with mem := v.host.mem } } ∧
          u = v.reply k stOk (data (s.takeAt i) k).length 0
        else u = (s.takeAt i).reply k stBadParam (data (s.takeAt i) k).length 0) ∧
      Answers (c false) s (fun u => u = if (data (s.takeAt i) k).length ≤ bufLen k o then (s.takeAt i).reply k stHostDma 0 0
        else (s.takeAt i).reply k stBadParam (data (s.takeAt i) k).length 0)
  (∀ (s : State) (k : List Byte) (i : Nat), s.accepts 0x01 [] k i → Answers .identify s (fun u =>
    u = (s.takeAt i).reply k stOk (s.grade + s.getF aHifId 23 16 * 2 ^ 8 + s.getF aSecBootStatus 15 0 * 2 ^ 16 + s.otp.arb * 2 ^ 32)
      (leVal ((fit 16 Config.serial).drop 8).reverse))) ∧
  filled .getCert 0x02 16 (fun _ _ => []) (fun _ _ => certBlob) ∧
  filled .rimDump 0x62 16 (fun _ k => [(28, selectorOk (pktField k 28 4))]) (fun s k =>
    (s.rimsOf (pktField k 28 4)).flatMap (fun x => s.rimBytes (bits (pktField k 28 4) 31 30) x.1 x.2.1 x.2.2)) ∧
  filled .counters 0x60 16 (fun s k => [(28, decide (pktField k 28 1 ≤ 2))] ++
      rangeLimits k 32 (if pktPart k = 255 then 1024 else s.partTileCount (pktPart k)) 0)
    (fun s k => s.snapshotBytes (pktPart k) (pktField k 28 1) (s.cntTiles k)) ∧
  (∀ (s : State) (k : List Byte) (i : Nat), s.accepts 0x03 (bufLimits k 16) k i → 780 ≤ bufLen k 16 →
    let d := (s.takeAt i).quote ((k.drop 32).take 32) ++ (s.takeAt i).statement
    d.length = 780 ∧ Answers (.attest true) s (fun u => ∃ v : State,
      v.rd aCntSecQuotes = s.rd aCntSecQuotes + 1 ∧ (s.takeAt i).regsBut (· = aCntSecQuotes) v ∧
      v.host.mem = (s.host.put (bufAddr k 16) d).mem ∧
      v = { s.takeAt i with regs := v.regs, host := { (s.takeAt i).host with mem := v.host.mem } } ∧ u = v.reply k stOk 780 0)) ∧
  (∀ (s : State) (k : List Byte) (i : Nat),
    s.accepts 0x04 [(16, decide (1 ≤ pktField k 16 4 ∧ pktField k 16 4 ≤ 2 ^ 25))] k i → Answers .loadImageBegin s (fun u =>
      u = { s.takeAt i with host := { (s.takeAt i).host with load := some { len := pktField k 16 4 } } }.reply k stOk 0 0)) ∧
  (∀ (s : State) (k : List Byte) (i : Nat) (l : Load) (d : List Byte), s.host.load = some l →
    s.accepts 0x05 (bufLimits k 16 ++ [(28, decide (pktField k 28 4 < l.len))]) k i → Answers (.loadImageData (some d)) s (fun u =>
      let off := pktField k 28 4
      let n := min (bufLen k 16) (l.len - off)
      ∃ (v : State) (l' : Load), (∀ x < n, mapGet 0 l'.data (off + x) = (buf k 16 d).getD x 0) ∧
        (∀ a, (a < off ∨ off + n ≤ a) → mapGet 0 l'.data a = mapGet 0 l.data a) ∧ l'.got = l.got ++ [(off, off + n)] ∧
        l'.len = l.len ∧ v = { s.takeAt i with host := { (s.takeAt i).host with load := some l' } } ∧ u = v.reply k stOk n 0) ∧
      Answers (.loadImageData none) s (fun u => u = (s.takeAt i).reply k stHostDma 0 0)) ∧
  (∀ (s : State) (k : List Byte) (i : Nat) (d : Option (List Byte)), s.host.load = none → s.accepts 0x05 (bufLimits k 16) k i →
    Answers (.loadImageData d) s (fun u => u = (s.takeAt i).reply k stBadState 0 0)) ∧
  (∀ (s : State) (k : List Byte) (i : Nat), s.accepts 0x06 [] k i →
    (s.host.load = none → Answers .loadImageEnd s (fun u => u = (s.takeAt i).reply k stBadState 0 0)) ∧
    (∀ l : Load, s.host.load = some l → covered l.got l.got.length 0 < l.len →
      Answers .loadImageEnd s (fun u => u = (s.takeAt i).reply k stBadParam 0 0)) ∧
    (∀ l : Load, s.host.load = some l → l.len ≤ covered l.got l.got.length 0 →
      s.imageCheck ((List.range l.len).map (mapGet 0 l.data)) = 0 → s.mode = 2 → Answers .loadImageEnd s (fun u =>
        (∀ x < l.len, mapGet 0 u.otp.flash x = mapGet 0 l.data x) ∧ (∀ x, l.len ≤ x → mapGet 0 u.otp.flash x = mapGet 0 s.otp.flash x) ∧
        u.otp.arb = max s.otp.arb (recByte ((List.range l.len).map (mapGet 0 l.data)) 12) ∧
        u.mode = 0 ∧ u.sec.image.isSome = true ∧ u.host.load = none ∧ u.mem = s.mem ∧ u.tiles = s.tiles))) ∧
  (∀ (s : State) (k : List Byte) (i : Nat) (l : Load), s.accepts 0x06 [] k i → s.host.load = some l →
    l.len ≤ covered l.got l.got.length 0 → s.imageCheck ((List.range l.len).map (mapGet 0 l.data)) ≠ 0 →
    Answers .loadImageEnd s (fun u => u = (s.takeAt i).reply k stAuthFail 0 0)) ∧
  (∀ (s : State) (k : List Byte) (i : Nat) (l : Load), s.accepts 0x06 [] k i → s.host.load = some l →
    l.len ≤ covered l.got l.got.length 0 → s.imageCheck ((List.range l.len).map (mapGet 0 l.data)) = 0 → s.mode ≠ 2 →
    Answers .loadImageEnd s (fun u => ∃ v : State, (∀ x < l.len, mapGet 0 v.otp.flash x = mapGet 0 l.data x) ∧
      (∀ x, l.len ≤ x → mapGet 0 v.otp.flash x = mapGet 0 s.otp.flash x) ∧ v.otp = { s.otp with flash := v.otp.flash } ∧
      v = { s.takeAt i with otp := v.otp, host := { (s.takeAt i).host with load := none } } ∧
      u = v.reply k stOk (mapGet (0 : Byte) l.data 12).toNat 0)) ∧
  (∀ (s : State) (k : List Byte) (i : Nat), s.host.replyQ = [] →
    s.accepts 0x10 [(16, decide (pktField k 16 8 % 4096 = 0)), (24, decide (7 ≤ pktField k 24 1 ∧ pktField k 24 1 ≤ 16))] k i →
    Answers .setRing s (fun u => u.rdN aHifRingBase = pktField k 16 8 ∧ u.getF aHifRingCtrl 4 0 = pktField k 24 1 ∧
      u.getF aHifRingCtrl 7 7 = 1 ∧ u.getF aHifRingCtrl 15 8 = pktField k 25 1 ∧ u.getF aHifRingCtrl 31 16 = pktField k 26 2 ∧
      u.rdN aHifRingHead = 0 ∧ u.rdN aHifRingTail = 1 ∧ u.host.evRecs = [] ∧
      (∀ j < 32, mapGet 0 u.host.mem (pktField k 16 8 + j) =
        ((s.record (pktTag k) 0x10 stOk 0xFF 0 0 false).set 5 1).getD j 0) ∧
      u = { s with regs := u.regs, host := u.host })) ∧
  (∀ (s : State) (k : List Byte) (i : Nat), s.host.replyQ.length ≤ 256 →
    s.accepts 0x10 [(16, decide (pktField k 16 8 % 4096 = 0)), (24, decide (7 ≤ pktField k 24 1 ∧ pktField k 24 1 ≤ 16))] k i →
    Answers .setRing s (fun u =>
      u.host.replyQ = s.host.replyQ.drop (2 ^ pktField k 24 1 - 1) ∧
      u.rdN aHifRingTail = min (2 ^ pktField k 24 1) (1 + s.host.replyQ.length) ∧ u.host.eventQ = s.host.eventQ ∧
      u = { s with regs := u.regs, host := u.host })) ∧
  (∀ (s : State) (k : List Byte) (i : Nat), s.accepts 0x11 [] k i → Answers .setLatencyTolerance s (fun u => ∃ v : State,
      v.rdN aPwrTol = pktField k 16 4 ∧ (s.takeAt i).regsBut (· = aPwrTol) v ∧ v = { s.takeAt i with regs := v.regs } ∧
      u = v.reply k stOk (deepest (pktField k 16 4)) 0)) ∧
  (∀ (s : State) (k : List Byte) (i : Nat) (d : List Byte), s.accepts 0x50 (bufLimits k 16) k i →
    let b := (buf k 16 d).take (planLen (buf k 16 d))
    let tr := fit 172 ((buf k 16 d).drop (planLen (buf k 16 d)))
    let op := s.opSlot (recByte tr 0)
    let key := (tr.drop 1).take 57
    let signed := edVerify key (ascii "qorkar-plan") (shake256 b 64) (tr.drop 58)
    let known : Prop := recByte tr 0 < 4 ∧ op.hash ≠ [] ∧ op.revoked = false ∧ bit op.roles 0 = true ∧ keyHash key = op.hash
    (¬known ∨ signed = false → Answers (.fabricPlan (some d)) s (fun u => u = (s.takeAt i).reply k stAuthFail 0 0)) ∧
    (known → signed = true → planOk b = false ∨ (b.drop 0x20).take 16 ≠ fit 16 Config.serial →
      Answers (.fabricPlan (some d)) s (fun u => u = (s.takeAt i).reply k stBadParam 16 0)) ∧
    (known → signed = true → planOk b = true → (b.drop 0x20).take 16 = fit 16 Config.serial →
      Answers (.fabricPlan (some d)) s (fun u => u.fab.plan = b ∧ u.fab.explored = [] ∧ u.fab.nextId = 0 ∧
        u.meas 3 = shake256 (s.meas 3 ++ [5] ++ fit 64 (shake256 b 64)) 64 ∧
        (∀ p < 16, s.lk p ≠ lkAuth → u.port p = s.port p) ∧
        (∀ p < 16, s.lk p = lkAuth → u.rdN (aSecAuth p) = 0xFF ∧ ∃ nonce : List Byte, nonce.length = 32 ∧
          (u.port p).auth.hello = nonce ++ fit 16 Config.serial ++ leBytes 1 p ++ leBytes 8 (pktField b 8 8)) ∧
        u.mem = s.mem ∧ u.tiles = s.tiles)) ∧
    ((∀ p < 16, s.lk p ≠ lkAuth) → known → signed = true → planOk b = true → (b.drop 0x20).take 16 = fit 16 Config.serial →
      Answers (.fabricPlan (some d)) s (fun u => ∃ v : State, v.fab = { s.fab with plan := b, explored := [], nextId := 0 } ∧
        v.meas 3 = shake256 (s.meas 3 ++ [5] ++ fit 64 (shake256 b 64)) 64 ∧
        v.lastEvent rimMp = some (0xFB, recByte tr 0, pktField b 8 8 % 2 ^ 48) ∧
        v = { s.takeAt i with fab := v.fab, regs := v.regs, sec := v.sec, rims := v.rims } ∧
        u = v.reply k stOk (pktField b 8 8) 0))) ∧
  (∀ (s : State) (k : List Byte) (i : Nat),
    (s.accepts 0x50 (bufLimits k 16) k i → Answers (.fabricPlan none) s (fun u => u = (s.takeAt i).reply k stHostDma 0 0)) ∧
    (s.accepts 0x52 (bufLimits k 16 ++ [(24, decide (bufLen k 16 = 2048))]) k i →
      Answers (.routeLoad none) s (fun u => u = (s.takeAt i).reply k stHostDma 0 0)) ∧
    (s.accepts 0x54 (bufLimits k 16) k i → Answers (.groups none) s (fun u => u = (s.takeAt i).reply k stHostDma 0 0)) ∧
    (s.accepts 0x91 (bufLimits k 16 ++ [(24, decide (250 ≤ bufLen k 16))]) k i →
      Answers (.debugUnlock none) s (fun u => u = (s.takeAt i).reply k stHostDma 0 0)) ∧
    (s.accepts 0x03 (bufLimits k 16) k i → 780 ≤ bufLen k 16 → Answers (.attest false) s (fun u => ∃ v : State,
      v.rd aCntSecQuotes = s.rd aCntSecQuotes + 1 ∧ (s.takeAt i).regsBut (· = aCntSecQuotes) v ∧ v = { s.takeAt i with regs := v.regs } ∧
      u = v.reply k stHostDma 0 0)) ∧
    (∀ ok, s.accepts 0x03 (bufLimits k 16) k i → bufLen k 16 < 780 → Answers (.attest ok) s (fun u =>
      u = (s.takeAt i).reply k stBadParam 780 0))) ∧
  (∀ (s : State) (k : List Byte) (i : Nat), s.accepts 0x51 [] k i → (s.fab.plan = [] ∨ s.pwr.released < 8) →
    Answers .bringUp s (fun u => u = (s.takeAt i).reply k stBadState 0 0)) ∧
  (∀ (s : State) (k : List Byte) (i : Nat), s.accepts 0x51 [] k i → s.fab.plan ≠ [] → s.pwr.released = 8 →
    Answers .bringUp s (fun u => u.rdN aFabStatus = 2 ^ 28 + (if s.planExplore then 2 ^ 27 else 0) ∧
      u.host.running = s.host.running ++ [{ pkt := k, hoop := s.hoop }] ∧
      (∀ p < 16, u.lk p = if s.lk p = lkDisabled then lkDetect else s.lk p) ∧ u.mem = s.mem ∧ u.tiles = s.tiles)) ∧
  (∀ s : State, s.live → s.getF aFabStatus 30 28 = 0 → Answers .bringUpPhaseComplete s (fun u => u = s)) ∧
  (∀ s : State, s.live → s.getF aFabStatus 30 28 = 2 → s.planExplore = true → Answers .bringUpPhaseComplete s (fun u =>
      (∀ p < 16, u.lk p = if s.lk p = lkAuth ∧ (s.port p).auth.code = some 0 then lkActive else s.lk p) ∧
      (s.isAnchor = true → u.devId = s.planField 0x14 2 ∧ u.getF aFabId 31 31 = 1 ∧ u.getF aHoopCtrl 8 8 = 1) ∧
      (s.isAnchor = false → u.devId = s.devId) ∧ u.getF aFabStatus 30 28 = 3 ∧ u.tiles = s.tiles)) ∧
  (∀ s : State, s.live → s.getF aFabStatus 30 28 = 3 → s.planExplore = false →
    let there (p : Nat) : Prop := s.lk p = lkAuth ∨ s.lk p = lkActive
    let hello (p : Nat) : List Byte := (s.port p).auth.peerHello.getD []
    let same (p : Nat) : Prop := ((hello p).drop 32).take 16 = s.planSerial p ∧ (s.planKind p ≠ 1 ∨ recByte (hello p) 48 = s.planPort p)
    Answers .bringUpPhaseComplete s (fun u =>
      (∀ p < 16, bit u.mismatch p = true ↔ bit s.mismatch p = true ∨
        (if s.planKind p = 0 then there p ∨ s.lk p = lkQuarantine else ¬(there p ∧ same p))) ∧
      (∀ p < 16, u.lk p = if there p ∧ (s.planKind p = 0 ∨ ¬same p) then lkQuarantine else s.lk p) ∧
      u.getF aFabStatus 30 28 = 4 ∧ u.lastEvent rimMp = some (0xB7, 3, u.mismatch) ∧ u.mem = s.mem ∧ u.tiles = s.tiles)) ∧
  (∀ s : State, s.live → s.getF aFabStatus 30 28 = 4 → s.planExplore = false → Answers .bringUpPhaseComplete s (fun u =>
      (∀ p < 16, bit u.mismatch p = true ↔ bit s.mismatch p = true ∨
        (s.planKind p ≠ 0 ∧ s.lk p ≠ lkAuth ∧ s.lk p ≠ lkActive)) ∧
      u.getF aFabStatus 30 28 = 5 ∧ u.lastEvent rimMp = some (0xB7, 4, u.mismatch) ∧ s.rimsBut rimMp u ∧
      s.regsBut (· = aFabStatus) u ∧ u = { s with regs := u.regs, rims := u.rims })) ∧
  (∀ s : State, s.live → s.getF aFabStatus 30 28 = 5 → Answers .bringUpPhaseComplete s (fun u =>
      (∀ p < 16, u.lk p = if s.lk p = lkAuth ∧ (s.port p).auth.code = some 0 then lkActive else s.lk p) ∧
      (s.planExplore = false → u.devId = s.planField 0x30 2 ∧ u.getF aFabId 31 31 = 1 ∧
        (∀ n < 256, (s.planField (0x440 + 4 * n) 4 < 3 * 2 ^ 20 → u.getF (aFabRouteRegion n) 21 0 = s.planField (0x440 + 4 * n) 4) ∧
          (s.planField (0x840 + 4 * n) 4 < 3 * 2 ^ 20 → u.getF (aFabRouteLocal n) 21 0 = s.planField (0x840 + 4 * n) 4)) ∧
        u.getF aHoopCtrl 3 0 = s.planField 0x3D 1 % 16 ∧ u.getF aHoopCtrl 8 8 = b2n s.isAnchor) ∧
      u.getF aFabStatus 30 28 = 6 ∧ u.tiles = s.tiles)) ∧
  (∀ s : State, s.live → (s.getF aFabStatus 30 28 = 1 ∨ s.getF aFabStatus 30 28 = 6 ∨ (s.getF aFabStatus 30 28 = 2 ∧ s.planExplore = false) ∨
      ((s.getF aFabStatus 30 28 = 3 ∨ s.getF aFabStatus 30 28 = 4) ∧ s.planExplore = true)) → Answers .bringUpPhaseComplete s (fun u =>
      u.getF aFabStatus 30 28 = s.getF aFabStatus 30 28 + 1 ∧ u.mismatch = s.mismatch ∧
      u.lastEvent rimMp = some (0xB7, s.getF aFabStatus 30 28, s.mismatch) ∧ s.rimsBut rimMp u ∧
      s.regsBut (· = aFabStatus) u ∧ u = { s with regs := u.regs, rims := u.rims })) ∧
  (∀ s : State, s.live → s.getF aFabStatus 30 28 = 7 → s.runOf 0x51 255 = none → Answers .bringUpPhaseComplete s (fun u =>
      u.getF aFabStatus 30 28 = 0 ∧ u.getF aFabStatus 31 31 = 1 ∧ u.mismatch = s.mismatch ∧
      s.regsBut (· = aFabStatus) u ∧ u = { s with regs := u.regs, rims := u.rims })) ∧
  (∀ (s : State) (r : Run), s.live → s.getF aFabStatus 30 28 = 7 → s.runOf 0x51 255 = some r → Answers .bringUpPhaseComplete s (fun u =>
      ∃ v : State, v.getF aFabStatus 30 28 = 0 ∧ v.getF aFabStatus 31 31 = 1 ∧ v.mismatch = s.mismatch ∧
      s.regsBut (· = aFabStatus) v ∧ v = { s with regs := v.regs, rims := v.rims } ∧
      u = v.endRun r stOk (s.mismatch + s.getF aHoopStatus 28 22 * 2 ^ 16) s.planId)) ∧
  (∀ (s : State) (k : List Byte) (i : Nat) (d : List Byte), s.accepts 0x52 (bufLimits k 16 ++ [(24, decide (bufLen k 16 = 2048))]) k i →
    Answers (.routeLoad (some d)) s (fun u => ∃ v : State, (∀ n < 256,
      (pktField (buf k 16 d) (4 * n) 4 < 3 * 2 ^ 20 → v.getF (aFabRouteRegion n) 21 0 = pktField (buf k 16 d) (4 * n) 4) ∧
      (pktField (buf k 16 d) (1024 + 4 * n) 4 < 3 * 2 ^ 20 →
        v.getF (aFabRouteLocal n) 21 0 = pktField (buf k 16 d) (1024 + 4 * n) 4)) ∧
      (s.takeAt i).regsBut (fun a => aFabRouteRegion 0 ≤ a ∧ a < aFabRouteLocal 256) v ∧ v = { s.takeAt i with regs := v.regs } ∧
      u = v.reply k stOk 0 0)) ∧
  (∀ (s : State) (k : List Byte) (i : Nat), s.accepts 0x53 (routeLimits k) k i →
    let e (n : Nat) : Nat := pktField k (24 + 8 * n) 8
    let a (n : Nat) : Nat := if bit (e n) 40 then aFabRouteLocal (bits (e n) 39 32) else aFabRouteRegion (bits (e n) 39 32)
    Answers .routeUpdate s (fun u => ∃ v : State,
      (∀ n < pktField k 16 1, (∀ m < pktField k 16 1, n < m → a m ≠ a n) → bits (e n) 31 0 < 3 * 2 ^ 20 →
        v.getF (a n) 21 0 = bits (e n) 31 0) ∧
      (s.takeAt i).regsBut (fun x => ∃ n < pktField k 16 1, x = a n) v ∧ v = { s.takeAt i with regs := v.regs } ∧
      u = v.reply k stOk 0 0)) ∧
  (∀ (s : State) (k d : List Byte) (i : Nat), s.accepts 0x54 (bufLimits k 16) k i →
    let es := groupEntries (buf k 16 d)
    let inRange (g : Nat) : Prop :=
      (s.part (pktPart k)).groupBase ≤ g ∧ g < (s.part (pktPart k)).groupBase + (s.part (pktPart k)).groupCount
    ((∃ e ∈ es, ¬inRange (pktField e 0 8)) → Answers (.groups (some d)) s (fun u => u = (s.takeAt i).reply k stBadParam 16 0)) ∧
    ((∀ e ∈ es, inRange (pktField e 0 8)) → (∃ e ∈ es, s.groupBusy (pktField e 0 8) = true) →
      Answers (.groups (some d)) s (fun u => u = (s.takeAt i).reply k stBadState 0 0)) ∧
    ((∀ e ∈ es, inRange (pktField e 0 8) ∧ pktField e 0 8 < 1024 ∧ s.groupBusy (pktField e 0 8) = false) →
      es.Pairwise (fun x y => pktField x 0 8 ≠ pktField y 0 8) → Answers (.groups (some d)) s (fun u => ∃ v : State,
        (∀ e ∈ es, let g := pktField e 0 8
          v.getF (aCeGroupG0 g) 60 29 = bits (pktField e 8 8) 60 29 ∧ v.getF (aCeGroupG1 g) 31 0 = pktField e 16 4 ∧
          v.groupVersion g = (if v.membership g = s.membership g then s.groupVersion g else (s.groupVersion g + 1) % 2 ^ 32)) ∧
        (s.takeAt i).regsBut (fun a => ∃ e ∈ es, a = aCeGroupG0 (pktField e 0 8) ∨ a = aCeGroupG1 (pktField e 0 8) ∨
          a = aCeGroupG2 (pktField e 0 8)) v ∧ v = { s.takeAt i with regs := v.regs } ∧ u = v.reply k stOk es.length 0))) ∧
  (∀ (s : State) (k : List Byte) (i : Nat), s.accepts 0x55 [] k i →
    ((∃ p < 16, s.job p = 2) → Answers .assumeId s (fun u => u = (s.takeAt i).reply k stBadState 0 0)) ∧
    ((∀ p < 16, s.job p ≠ 2) → (s.fab.plan = [] ∨ s.planIds.contains (pktField k 16 2) = false) →
      Answers .assumeId s (fun u => u = (s.takeAt i).reply k stBadParam 16 0)) ∧
    ((∀ p < 16, s.job p ≠ 2) → s.fab.plan ≠ [] → s.planIds.contains (pktField k 16 2) = true → s.fab.outbox = [] →
      Answers .assumeId s (fun u => ∃ v : State,
      v.devId = pktField k 16 2 ∧ v.getF aFabId 31 31 = 1 ∧ v.fab.ctxs = [] ∧
      v.meas 3 = shake256 (s.meas 3 ++ [6] ++ fit 64 (leBytes 2 (pktField k 16 2))) 64 ∧
      v.lastEvent rimMp = some (0xC7, s.devId, pktField k 16 2) ∧ v.mem = s.mem ∧ v.tiles = s.tiles ∧ u = v.reply k stOk s.devId 0))) ∧
  (∀ (s : State) (k : List Byte) (i : Nat), s.accepts 0x61 [(16, decide (pktField k 16 4 < 4))] k i → pktPart k < 16 →
    s.partResident (pktPart k) = true → Answers .trace s (fun u => ∃ v : State,
      (v.part (pktPart k)) = { s.part (pktPart k) with trace := pktField k 16 4 } ∧
      (∀ t ∈ s.partTiles (pktPart k), v.getF (aTileCntCtrl t) 1 0 = pktField k 16 4) ∧
      (s.takeAt i).regsBut (fun a => ∃ t ∈ s.partTiles (pktPart k), a = aTileCntCtrl t) v ∧
      (∀ q, q ≠ pktPart k → v.part q = s.part q) ∧ v = { s.takeAt i with regs := v.regs, parts := v.parts } ∧ u = v.reply k stOk 0 0)) ∧
  (∀ (s : State) (k : List Byte) (i : Nat), s.accepts 0x61 [(16, decide (pktField k 16 4 < 4))] k i → pktPart k < 16 →
    s.partResident (pktPart k) = false → Answers .trace s (fun u => ∃ v : State,
      (v.part (pktPart k)) = { s.part (pktPart k) with trace := pktField k 16 4 } ∧ (∀ q, q ≠ pktPart k → v.part q = s.part q) ∧
      v = { s.takeAt i with parts := v.parts } ∧ u = v.reply k stOk 0 0)) ∧
  (∀ (s : State) (k : List Byte) (i : Nat), s.accepts 0x61 [(16, decide (pktField k 16 4 < 4))] k i → pktPart k = 255 →
    Answers .trace s (fun u => ∃ v : State, (∀ t < 1024, v.getF (aTileCntCtrl t) 1 0 = pktField k 16 4) ∧
      (∀ p < 16, v.part p = if s.partExists p = true then { s.part p with trace := pktField k 16 4 } else s.part p) ∧
      (s.takeAt i).regsBut (fun a => ∃ t < 1024, a = aTileCntCtrl t) v ∧
      v = { s.takeAt i with regs := v.regs, parts := v.parts } ∧ u = v.reply k stOk 0 0)) ∧
  (∀ (s : State) (k : List Byte) (i : Nat), s.accepts 0x70 [(16, decide (s.hoop < pktField k 16 8))] k i →
    Answers .freezeAt s (fun u => ∃ v : State, v.rdN aDbgFreezeAt = pktField k 16 8 ∧ v.getF aDbgFreezeStatus 9 9 = 1 ∧
      v.lastEvent rimMp = some (0xE9, 1, pktField k 16 8 % 2 ^ 48) ∧
      (s.takeAt i).regsBut (fun a => a = aDbgFreezeAt ∨ a = aDbgFreezeStatus) v ∧
      v = { s.takeAt i with regs := v.regs, rims := v.rims } ∧ u = v.reply k stOk 0 0)) ∧
  (∀ (s : State) (k : List Byte) (i : Nat), s.accepts 0x71 [] k i → s.frozen = false →
    (s.getF aDbgFreezeStatus 9 9 = 1 → Answers .unfreeze s (fun u => ∃ v : State, v.getF aDbgFreezeStatus 9 9 = 0 ∧
      (s.takeAt i).regsBut (· = aDbgFreezeStatus) v ∧ v = { s.takeAt i with regs := v.regs, rims := v.rims } ∧ u = v.reply k stOk 0 0)) ∧
    (s.getF aDbgFreezeStatus 9 9 = 0 → Answers .unfreeze s (fun u => u = (s.takeAt i).reply k stBadState 0 0))) ∧
  (∀ (s : State) (k : List Byte) (i : Nat), s.accepts 0x71 [] k i → s.frozen = true → s.dbg.mode < 8 → s.dbg.mode ≠ 4 → s.mode = 4 →
    Answers .unfreeze s (fun u => u.frozen = false ∧ u.mode = s.dbg.mode ∧
      (∀ p < 16, s.lk p = lkFrozen → (s.port p).retrainDue = none → u.lk p = (s.port p).thawed) ∧
      (∀ p < 16, s.lk p ≠ lkFrozen → u.lk p = s.lk p) ∧ u.tiles = s.tiles ∧ u.hoop = s.hoop ∧
      ((∀ p < 16, s.lk p ≠ lkFrozen) → u.mem = s.mem))) ∧
  (∀ (s : State) (k : List Byte) (i : Nat), s.accepts 0x81 [] k i → s.sec.pulse = true → Answers .warmReset s (fun u =>
      u.host.fifo = s.host.fifo.drop (i + 1) ∧ u.rdN aCntHifPackets = (s.rdN aCntHifPackets + 1 + i) % 2 ^ 64 ∧
      u.sec.held = s.sec.held ++ [{ kind := 3, arg := 0, hoop := s.hoop }] ∧
      u.host.running = s.host.running ++ [{ pkt := k, hoop := s.hoop }] ∧ u.mem = s.mem ∧ u.tiles = s.tiles)) ∧
  (∀ (s : State) (k : List Byte) (i : Nat), s.accepts 0x81 [] k i → s.sec.pulse = false → Answers .warmReset s (fun u =>
      u.mode = 0 ∧ u.rdN aRstCause = 6 ∧ bits (u.rdN (aRstSticky 0)) 55 48 = 6 ∧ u.tiles = [] ∧ u.parts = [] ∧ u.fab = {} ∧
      u.host.fifo = s.host.fifo.drop (i + 1) ∧
      u.host.running = s.host.running.filter (fun r => decide (pktOpcode r.pkt = 0x81)) ++ [{ pkt := k, hoop := s.hoop }] ∧
      u.pwr.released = 1 ∧ u.pwr.warm = true ∧ u.otp = s.otp ∧ u.hoop = s.hoop ∧ u.getF aHifStatus 6 6 = 0)) ∧
  (∀ (s : State) (k : List Byte) (i : Nat), s.accepts 0x90 [] k i → 
    (8 ≤ s.getF aSecStatus 10 7 → Answers .debugChallenge s (fun u => u = (s.takeAt i).reply k stBadState 0 0)) ∧
    (s.getF aSecStatus 10 7 < 8 → Answers .debugChallenge s (fun u => ∃ (v : State) (c : List Byte), c.length = 16 ∧
      v = { s.takeAt i with sec := { s.sec with challenge := some (c, s.hoop) }, free := v.free } ∧
      u = v.reply k stOk (leVal (c.take 8)) (leVal (c.drop 8))))) ∧
  (∀ (s : State) (k d : List Byte) (i : Nat), s.accepts 0x91 (bufLimits k 16 ++ [(24, decide (250 ≤ bufLen k 16))]) k i →
    (s.responseCheck (buf k 16 d) ≠ 0 → Answers (.debugUnlock (some d)) s (fun u => ∃ v : State,
      v.rd aCntSecUnlockFail = s.rd aCntSecUnlockFail + 1 ∧ v.getF aSecStatus 10 7 = min 8 (s.getF aSecStatus 10 7 + 1) ∧
      v.lastEvent rimMp = some (0xFC, recByte (buf k 16 d) 2, s.responseCheck (buf k 16 d)) ∧
      (s.takeAt i).regsBut (fun a => a = aCntSecUnlockFail ∨ a = aSecStatus) v ∧
      v = { s.takeAt i with regs := v.regs, rims := v.rims, sec := { s.sec with challenge := none } } ∧
      u = v.reply k stAuthFail 0 0)) ∧
    (s.responseCheck (buf k 16 d) = 0 → bit (recByte (buf k 16 d) 3) 1 = false → bit (recByte (buf k 16 d) 3) 2 = false →
      Answers (.debugUnlock (some d)) s (fun u => ∃ v : State,
      (bit (recByte (buf k 16 d) 3) 0 = true → v.getF aHifStatus 6 6 = 1 ∧ v.getF aSecStatus 6 6 = 1) ∧
      (bit (recByte (buf k 16 d) 3) 0 = false → v.getF aHifStatus 6 6 = s.getF aHifStatus 6 6) ∧
      v.sec.challenge = none ∧ v.otp = s.otp ∧
      v.meas 2 = shake256 (s.meas 2 ++ [4] ++ fit 64 ((buf k 16 d).take 64)) 64 ∧
      v.lastEvent rimMp = some (0xFC, recByte (buf k 16 d) 2, 0) ∧
      v = { s.takeAt i with regs := v.regs, rims := v.rims, sec := v.sec } ∧ u = v.reply k stOk 0 0)) ∧
    (s.responseCheck (buf k 16 d) = 0 → (bit (recByte (buf k 16 d) 3) 1 = true ∨ bit (recByte (buf k 16 d) 3) 2 = true) →
      s.slotChange (buf k 16 d) = none → Answers (.debugUnlock (some d)) s (fun u => ∃ v : State,
        v = { s.takeAt i with sec := { s.sec with challenge := none } } ∧ u = v.reply k stBadParam 16 0)) ∧
    (∀ x : OpSlot, s.responseCheck (buf k 16 d) = 0 → (bit (recByte (buf k 16 d) 3) 1 = true ∨ bit (recByte (buf k 16 d) 3) 2 = true) →
      s.slotChange (buf k 16 d) = some x → Answers (.debugUnlock (some d)) s (fun u =>
      u.opSlot (recByte (buf k 16 d) 0x61) = x ∧ (∀ j, j ≠ recByte (buf k 16 d) 0x61 → u.opSlot j = s.opSlot j) ∧
      (bit (recByte (buf k 16 d) 3) 0 = true → u.getF aHifStatus 6 6 = 1 ∧ u.getF aSecStatus 6 6 = 1) ∧
      u.sec.pulse = true ∧ u.sec.challenge = none ∧ u.otp = { s.otp with ops := u.otp.ops } ∧ u.mem = s.mem ∧ u.tiles = s.tiles)))

/-- R535. -/
def Obligations.CertificatesAreServedInOrder : Prop :=
  let blob : List Byte := [2, 0, 0, 0] ++ leBytes 4 Config.deviceCert.length ++ Config.deviceCert ++
    leBytes 4 Config.caCert.length ++ Config.caCert
  ∀ (s : State) (k : List Byte) (i : Nat), (s.mode = 1 ∨ s.mode = 2) → s.accepts 0x02 (bufLimits k 16) k i →
    Answers (.getCert true) s (fun u => if blob.length ≤ bufLen k 16 then ∃ v : State,
      (∀ j < blob.length, mapGet 0 v.host.mem ((bufAddr k 16 + j) % 2 ^ 64) = blob.getD j 0) ∧
      (∀ a, (∀ j < blob.length, a ≠ (bufAddr k 16 + j) % 2 ^ 64) → mapGet 0 v.host.mem a = mapGet 0 s.host.mem a) ∧
      v = { s.takeAt i with host := { (s.takeAt i).host with mem := v.host.mem } } ∧ u = v.reply k stOk blob.length 0
      else u = (s.takeAt i).reply k stBadParam blob.length 0)

/-- R175, R190, R204, R426–R435, R459–R463, R475–R485, R510, R511, R585. -/
def Obligations.PartitionCommandsHaveTheirEffects : Prop :=
  let bad (s : State) (k : List Byte) (i : Nat) (u : State) : Prop := u = (s.takeAt i).reply k stBadState 0 0
  let waits (s : State) (k : List Byte) (u : State) : Prop := u.host.running = s.host.running ++ [{ pkt := k, hoop := s.hoop }]
  (∀ (s : State) (k : List Byte) (i : Nat), s.accepts 0x20 (s.createLimits k) k i →
    (s.place (pcGroups k) = none → Answers .partitionCreate s (fun u => u = (s.takeAt i).reply k stNoResource 0 0)) ∧
    (∀ mask, s.place (pcGroups k) = some mask → Answers .partitionCreate s (fun u => ∃ v : State,
      let p := pktPart k
      v.partExists p = true ∧ v.partResident p = true ∧ v.partHome p = mask ∧ v.job p = 0 ∧
      v.part p = {
                   ddrBase := (pcDdr k).1, ddrLen := (pcDdr k).2, syncBase := (pcSync k).1, syncCount := (pcSync k).2,
                   groupBase := (pcGroupRange k).1, groupCount := (pcGroupRange k).2, saveArea := pcSave k } ∧
      (∀ q, q ≠ p → v.part q = s.part q) ∧ v.rdN (aSeXlateBase p) = pcTable k + 1 ∧
      (∀ t ∈ groupTiles mask, v.sq t = sqIdle ∧ (v.tile t).spad = [] ∧ (v.tile t).gab = []) ∧
      (∀ t, t ∉ groupTiles mask → v.tile t = s.tile t) ∧ v.lastEvent rimMp = some (0xE0, p, mask) ∧
      v.mem.ddr = s.mem.ddr ∧ v.host = (s.takeAt i).host ∧ u = v.reply k stOk mask 0))) ∧
  (∀ (s : State) (k : List Byte) (i : Nat), s.accepts 0x21 [] k i →
    ((s.job (pktPart k) = 4 ∨ s.partBusy (pktPart k) = true) → Answers .partitionDestroy s (bad s k i)) ∧
    (s.job (pktPart k) ≠ 4 → s.partBusy (pktPart k) = false → Answers .partitionDestroy s (fun u =>
      let p := pktPart k
      u.partExists p = false ∧ u.part p = {} ∧ (∀ q, q ≠ p → q ∉ s.ready → u.part q = s.part q) ∧ u.rdN (aSeXlateBase p) = 0 ∧
      (∀ q ∈ u.ready, q ∈ s.ready) ∧ (∀ q, q ≠ p → u.part q ≠ s.part q →
        u.part q = { s.part q with resuming := some s.hoop } ∧ u.partResident q = true) ∧
      u.getF aL2cPinRelease 16 16 = 1 ∧ u.getF aSeXlateInv 31 31 = 1 ∧
      u.lastEvent rimMp = some (0xE4, p, s.partHome p) ∧
      waits s k u ∧ u.tiles = s.tiles ∧ u.sync = s.sync ∧ u.mem.ddr = s.mem.ddr))) ∧
  (∀ (s : State) (k : List Byte) (i : Nat), s.accepts 0x22 [] k i → Answers .partitionQuery s (fun u =>
      u = (s.takeAt i).reply k stOk (s.partHome (pktPart k) + s.job (pktPart k) * 2 ^ 16) (s.rdN (aMpWaleStep (pktPart k))))) ∧
  (∀ (s : State) (k : List Byte) (i : Nat) (remote : Option (List Byte)),
    s.accepts 0x30 ((16, decide (pktField k 16 8 % 1024 = 0 ∧ pktField k 16 8 < 2 ^ 48)) ::
      rangeLimits k 24 (s.partTileCount (pktPart k)) 1) k i →
    let p := pktPart k
    let ts := s.loadTiles p (pktField k 24 4) (pktField k 28 4)
    let free : Prop := s.job p ≠ 4 ∧ s.partBusy p = false ∧ s.partResident p = true ∧ s.partAtRest p = true
    (¬free → Answers (.slathLoad remote) s (bad s k i)) ∧
    (∀ r : State, free → (s.takeAt i).readSlath p (pktField k 16 8) remote = (none, r) → Answers (.slathLoad remote) s (fun u =>
      u = r.reply k stRejected (0xFFFFF + 0x3FF * 2 ^ 32) 0)) ∧
    (∀ (x : Slath) (r : State) (d0 : Nat), free → (s.takeAt i).readSlath p (pktField k 16 8) remote = (some x, r) →
      rejection (ts.map (fun t => (t, r.slathFault p t (decide (1 < ts.length)) x))) = some d0 →
      Answers (.slathLoad remote) s (fun u => u = r.reply k stRejected d0 0)) ∧
    (∀ (x : Slath) (r : State), free → (s.takeAt i).readSlath p (pktField k 16 8) remote = (some x, r) →
      rejection (ts.map (fun t => (t, r.slathFault p t (decide (1 < ts.length)) x))) = none →
      Answers (.slathLoad remote) s (fun u => ∃ v : State, v.job p = 1 ∧ (v.part p).faults = 0 ∧ (v.part p).detail = none ∧
        (∀ t ∈ ts, v.sq t = sqLoaded ∧ v.pc t = 0 ∧ v.rdN (aSqSlathBase t) = pktField k 16 8 ∧
          (v.tile t).seq.entryCount = x.count) ∧ (∀ t, t ∉ ts → v.tile t = r.tile t) ∧ v.mem = r.mem ∧
        u = v.reply k stOk 0 0))) ∧
  (∀ (s r : State) (k : List Byte) (i : Nat) (remote : Option (List Byte)),
    s.accepts 0x31 [(16, decide (pktField k 16 8 % 64 = 0 ∧ pktField k 16 8 < 2 ^ 48))] k i →
    let p := pktPart k
    let n := pktField k 24 2
    ((s.job p ≠ 1 ∨ s.partBusy p = true ∨ s.partResident p = false) → Answers (.jobStart remote) s (bad s k i)) ∧
    (s.job p = 1 → s.partBusy p = false → s.partResident p = true → 1024 < s.armedElsewhere p + n →
      Answers (.jobStart remote) s (fun u => u = (s.takeAt i).reply k stNoResource 0 0)) ∧
    (s.job p = 1 → s.partBusy p = false → s.partResident p = true → s.armedElsewhere p + n ≤ 1024 →
      (s.takeAt i).arm p (pktField k 16 8) n remote = (false, r) → Answers (.jobStart remote) s (fun u =>
        u = r.reply k stFault (faultDetail 5 3 none 0) (pktField k 16 8))) ∧
    (s.job p = 1 → s.partBusy p = false → s.partResident p = true → s.armedElsewhere p + n ≤ 1024 →
      (s.takeAt i).arm p (pktField k 16 8) n remote = (true, r) → Answers (.jobStart remote) s (fun u =>
        (∀ j < (r.part p).syncCount, u.obj ((r.part p).syncBase + j) = 0) ∧ (u.wale p).k = 0 ∧ (u.wale p).q = 0 ∧
        (∀ t ∈ r.partTiles p, r.sq t = sqLoaded → u.sq t = sqRamp ∧ u.sreg t 29 = t ∧ u.sreg t 30 = s.devId ∧ u.sreg t 31 = p) ∧
        bit (u.rdN aMacRampStatus) p = true ∧ u.job p = 1 ∧ u.host.running = r.host.running ++ [{ pkt := k, hoop := r.hoop }] ∧
        u.mem = r.mem))) ∧
  (∀ (s : State) (k : List Byte) (i : Nat), s.accepts 0x32 [] k i →
    let p := pktPart k
    let posts : Prop := ∃ f ∈ s.faults, f.part = p
    let d := (s.part p).detail.getD (0, 0)
    (s.job p = 4 → ¬posts → Answers .jobStop s (fun u => ∃ v : State, v.job p = 3 ∧ v.ready = s.ready.erase p ∧
      (s.takeAt i).regsBut (· = aMpPartStatus p) v ∧ v = { s.takeAt i with regs := v.regs, ready := v.ready } ∧
      u = v.reply k stOk d.1 d.2)) ∧
    (s.job p = 4 → posts → Answers .jobStop s (fun u => u.job p = 3 ∧ u.ready = s.ready.erase p ∧ waits s k u ∧
      (s.takeAt i).regsBut (fun a => a = aMpPartStatus p ∨ a = aHifPend) u ∧
      u = { s with regs := u.regs, ready := u.ready, host := u.host })) ∧
    (s.job p ≠ 4 → s.partAtRest p = true → ¬posts → (s.part p).replay = none → s.runOf 0x32 p = none → Answers .jobStop s (fun u =>
      ∃ v : State, v.job p = (if s.job p = 2 then 3 else s.job p) ∧ (s.takeAt i).regsBut (fun a => a = aMpPartStatus p ∨ a = aHifPend) v ∧
      v = { s.takeAt i with regs := v.regs } ∧ u = v.reply k stOk d.1 d.2)) ∧
    (s.job p ≠ 4 → s.partAtRest p = true → posts → Answers .jobStop s (fun u => waits s k u ∧
      (s.takeAt i).regsBut (· = aHifPend) u ∧ u = { s with regs := u.regs, host := u.host })) ∧
    (s.job p ≠ 4 → (∃ t ∈ s.partTiles p, s.sq t = sqRun ∨ s.sq t = sqBlocked) → Answers .jobStop s (fun u =>
      (∀ t ∈ s.partTiles p, s.sq t = sqRun ∨ s.sq t = sqBlocked → (u.tile t).seq.stopReq = some 1) ∧
      waits s k u ∧ u.job p = s.job p ∧ u.sync.objs = s.sync.objs ∧ u.mem = s.mem))) ∧
  (∀ (s : State) (k : List Byte) (i : Nat), s.accepts 0x33 [] k i →
    let p := pktPart k
    (s.job p = 4 → Answers .jobPreempt s (fun u => u = (s.takeAt i).reply k stOk 0 0)) ∧
    (s.job p ≠ 4 → s.job p ≠ 2 → Answers .jobPreempt s (bad s k i)) ∧
    (s.job p = 2 → (s.part p).preempt = none → Answers .jobPreempt s (fun u =>
      (u.part p).preempt = some (2, s.hoop) ∧ u.rd (aCntPartPreempt p) = s.rd (aCntPartPreempt p) + 1 ∧
      (∀ t ∈ s.partTiles p, s.sq t = sqRun ∨ s.sq t = sqBlocked → (u.tile t).seq.stopReq = some 2) ∧
      waits s k u ∧ u.sync.objs = s.sync.objs ∧ u.mem = s.mem)) ∧
    (∀ c h, s.job p = 2 → (s.part p).preempt = some (c, h) → Answers .jobPreempt s (fun u =>
      u.part p = { s.part p with preempt := some (2, h) } ∧ waits s k u ∧ u.tiles = s.tiles ∧ u.mem = s.mem))) ∧
  (∀ (s : State) (k : List Byte) (i : Nat), s.accepts 0x34 [] k i → (s.part (pktPart k)).resuming.isSome = true →
    Answers .jobResume s (fun u => waits s k u ∧ (s.takeAt i).regsBut (· = aHifPend) u ∧ u = { s with regs := u.regs, host := u.host })) ∧
  (∀ (s : State) (k : List Byte) (i : Nat), s.accepts 0x34 [] k i → (s.part (pktPart k)).resuming = none →
    let p := pktPart k
    let queue := if s.ready.contains p then s.ready else s.ready ++ [p]
    ((s.job p ≠ 3 ∧ s.job p ≠ 4 ∨ (s.job p = 4 ∧ (s.part p).saved = []) ∨ (s.job p = 3 ∧ (s.part p).saved = [] ∧
        (s.partResident p = false ∨ s.partAtRest p = false ∨ s.partBusy p = true))) → Answers .jobResume s (bad s k i)) ∧
    ((s.job p = 3 ∨ s.job p = 4) → (s.part p).saved ≠ [] → (∀ q ∈ s.ready, s.groupsFree q = false ∨ s.partResident q = true) →
      s.groupsFree p = true → s.partResident p = false →
      Answers .jobResume s (fun u => (u.part p).resuming = some s.hoop ∧ u.partResident p = true ∧ u.ready = s.ready.erase p ∧ waits s k u ∧
        u.tiles = s.tiles ∧ u.mem = s.mem)) ∧
    ((s.job p = 3 ∨ s.job p = 4) → (s.part p).saved ≠ [] → (∀ q ∈ s.ready, s.groupsFree q = false ∨ s.partResident q = true) →
      s.groupsFree p = false → Answers .jobResume s (fun u => u.part p = s.part p ∧ u.ready = queue ∧
        (s.ready.contains p = false → u.getF (aMpPartStatus p) 29 29 = 1) ∧ waits s k u ∧ u.tiles = s.tiles ∧ u.mem = s.mem)) ∧
    (s.job p = 3 → (s.part p).saved = [] → s.partResident p = true → s.partAtRest p = true → s.partBusy p = false →
      Answers .jobResume s (fun u => (∀ t ∈ s.partTiles p, s.sq t = sqStopped → u.sq t = sqRamp) ∧
        bit (u.rdN aMacRampStatus) p = true ∧ waits s k u ∧ u.mem = s.mem))) ∧
  (∀ (s : State) (k : List Byte) (i : Nat), s.accepts 0x35 [] k i → Answers .setTimeSlice s (fun u => ∃ v : State,
      v.rdN (aMpPartSlice (pktPart k)) = pktField k 16 4 ∧ (s.takeAt i).regsBut (· = aMpPartSlice (pktPart k)) v ∧
      v = { s.takeAt i with regs := v.regs } ∧ u = v.reply k stOk 0 0)) ∧
  (∀ (s : State) (k d : List Byte) (i : Nat), s.accepts 0x40 (s.waleLimits k) k i →
    let p := pktPart k
    let w : Wale := { regions := regionList (fit (bufLen k 64) d), cursorTable := pktField k 48 8, cursors := pktField k 56 2 }
    let free : Prop := s.job p ≠ 0 ∧ s.job p ≠ 4 ∧ s.partBusy p = false
    (¬free → (∀ x, Answers (.waleConfigure x) s (bad s k i))) ∧
    (free → Answers (.waleConfigure none) s (fun u => u = (s.takeAt i).reply k stHostDma 0 0)) ∧
    (free → regionsFit w.regions = false → Answers (.waleConfigure (some d)) s (fun u => u = (s.takeAt i).reply k stBadParam 64 0)) ∧
    (free → regionsFit w.regions = true → (pktField k 32 8 < (s.part p).ddrBase ∨
      (s.part p).ddrBase + (s.part p).ddrLen < pktField k 32 8 + 2 * w.slotSize) →
      Answers (.waleConfigure (some d)) s (fun u => u = (s.takeAt i).reply k stBadParam 32 0)) ∧
    (s.job p ≠ 0 → s.job p ≠ 4 → s.partBusy p = false → regionsFit w.regions = true → (s.part p).ddrBase ≤ pktField k 32 8 →
      pktField k 32 8 + 2 * w.slotSize ≤ (s.part p).ddrBase + (s.part p).ddrLen → Answers (.waleConfigure (some d)) s (fun u => ∃ v : State,
        v.getF (aMpWaleCfg p) 31 16 = pktField k 16 2 ∧ v.getF (aMpWaleCfg p) 0 0 = pktField k 19 1 ∧
        v.rdN (aMpWaleArea p) = pktField k 32 8 ∧ v.wale p = { w with k := (s.wale p).k, q := (s.wale p).q } ∧
        (∀ q, q ≠ p → v.part q = s.part q) ∧
        (s.takeAt i).regsBut (fun a => a = aMpWaleCfg p ∨ a = aMpWaleObj p ∨ a = aMpWaleArea p ∨ a = aMpWaleBuddy p) v ∧
        v = { s.takeAt i with regs := v.regs, parts := v.parts } ∧ u = v.reply k stOk 0 0))) ∧
  (∀ (s : State) (k : List Byte) (i : Nat), s.accepts 0x41 [] k i →
    let p := pktPart k
    (s.getF (aMpWaleCfg p) 31 16 = 0 → Answers .waleNow s (bad s k i)) ∧
    (s.getF (aMpWaleCfg p) 31 16 ≠ 0 → Answers .waleNow s (fun u => ∃ v : State,
      v.part p = { s.part p with wale := { s.wale p with due := true } } ∧ (∀ q, q ≠ p → v.part q = s.part q) ∧
      v = { s.takeAt i with parts := v.parts } ∧ u = v.reply k stOk ((s.rdN (aMpWaleStep p) + 1) % 2 ^ 64) 0))) ∧
  (∀ (s : State) (k : List Byte) (i : Nat) (mirror : Option (List Byte)),
    s.accepts 0x42 ((24, decide (pktField k 24 1 ≤ 1)) :: bufLimits k 32) k i →
    let p := pktPart k
    let m := if pktField k 24 1 = 1 then (s.takeAt i).takeMirror p (pktField k 16 8) mirror else s.takeAt i
    (s.restorable p = false → ∀ ok, Answers (.restore ok mirror) s (bad s k i)) ∧
    (∀ r : State, s.restorable p = true → m.findSlot p (pktField k 16 8) = (none, r) → ∀ ok,
      Answers (.restore ok mirror) s (fun u => ∃ (v : State) (c : Nat), c < 256 ∧ v = { r with free := v.free } ∧
        u = v.reply k stFault (c + 4 * 256 + 0x3FF * 2 ^ 16) 0)) ∧
    (∀ (r : State) (slot : Nat) (d : List Byte), s.restorable p = true → m.findSlot p (pktField k 16 8) = (some (slot, d), r) →
      let out := recCursors d ++ (r.mismatches d).flatMap (leBytes 2 ·)
      (bufLen k 32 < out.length → ∀ ok, Answers (.restore ok mirror) s (fun u => u = r.reply k stBadParam out.length 0)) ∧
      (out.length ≤ bufLen k 32 → Answers (.restore false mirror) s (fun u =>
        u = (r.restoreFrom p (pktField k 16 8) slot d).reply k stHostDma 0 0)) ∧
      (out.length ≤ bufLen k 32 → Answers (.restore true mirror) s (fun u =>
        u.rdN (aMpWaleStep p) = pktField k 16 8 ∧ u.getF (aMpWaleStatus p) 27 0 = 0 ∧ (u.wale p).k = 0 ∧
        (∀ j < 4, u.obj (r.waleObj p j) = 0) ∧
        (pktField d 0x32 2 = 0 → ∀ t ∈ r.partTiles p, (u.tile t).spad = [] ∧ (u.tile t).gab = []) ∧
        u.job p = (if (r.part p).loads.isEmpty then 0 else 1) ∧ (u.part p).faults = 0 ∧ (u.part p).detail = none)))) ∧
  (∀ (s r q : State) (k d : List Byte) (i slot : Nat) (mirror : Option (List Byte)) (blocks : List (TileId × BitVec 21 × BitVec 48)),
    s.accepts 0x43 [(24, decide (pktField k 16 8 < pktField k 24 8)), (32, decide (pktField k 32 1 ≤ 3))] k i →
    let p := pktPart k
    let m := if bit (pktField k 32 1) 1 then (s.takeAt i).takeMirror p (pktField k 16 8) mirror else s.takeAt i
    let w := (r.restoreFrom p (pktField k 16 8) slot d).blocksBack p (blocks.map (fun b => (b.1.val, b.2.1.toNat, b.2.2.toNat)))
    let can : Prop := s.restorable p = true ∧ (s.part p).loads ≠ []
    (¬can → Answers (.stepReplay ⟨mirror, blocks⟩) s (bad s k i)) ∧
    (can → m.findSlot p (pktField k 16 8) = (none, r) → Answers (.stepReplay ⟨mirror, blocks⟩) s (fun u =>
      ∃ (v : State) (c : Nat), c < 256 ∧ v = { r with free := v.free } ∧ u = v.reply k stFault (c + 4 * 256 + 0x3FF * 2 ^ 16) 0)) ∧
    (can → m.findSlot p (pktField k 16 8) = (some (slot, d), r) → w.arm p (w.rdN (aCeOpBase p)) (w.rdN (aCeOpCount p)) none = (false, q) →
      Answers (.stepReplay ⟨mirror, blocks⟩) s (fun u => u = q.reply k stFault (faultDetail 5 3 none 0) (q.rdN (aCeOpBase p)))) ∧
    (can → m.findSlot p (pktField k 16 8) = (some (slot, d), r) → w.arm p (w.rdN (aCeOpBase p)) (w.rdN (aCeOpCount p)) none = (true, q) →
      Answers (.stepReplay ⟨mirror, blocks⟩) s (fun u =>
        (u.part p).replay = some { stopStep := pktField k 24 8, capture := bit (pktField k 32 1) 0, trace := (q.part p).trace } ∧
        bit (u.rdN aMacRampStatus) p = true ∧ (∀ t ∈ q.partTiles p, q.sq t = sqLoaded → u.sq t = sqRamp) ∧
        u.host.running = q.host.running ++ [{ pkt := k, hoop := q.hoop }] ∧ u.mem = q.mem))) ∧
  (∀ (s : State) (p t a b va : Nat) (data : List Byte) (r : State) (io : HubIo), t ∈ s.partTiles p → a % 64 = 0 → a + 64 ≤ 2 ^ 21 →
    s.hubRead p va 64 0 = (io, r) → io.fault = none → io.data = data → data.length = 64 → b < 64 →
    mapGet 0 ((s.blocksBack p [(t, a, va)]).tile t).spad (a + b) = data.getD b 0) ∧
  (∀ (s : State) (k : List Byte) (i : Nat), s.accepts 0x80 [] k i →
    let p := pktPart k
    (s.sec.pulse = true → Answers .partitionReset s (fun u =>
      u.sec.held = s.sec.held ++ [{ kind := 4, arg := p, hoop := s.hoop }] ∧ u.parts = s.parts ∧ u.tiles = s.tiles ∧
      (∀ x ∈ u.host.fifo, pktPart x = p → pktOpcode x = 0x80) ∧
      u.host.running = s.host.running.filter (fun r => decide (¬(pktPart r.pkt = p ∧ pktOpcode r.pkt ≠ 0x80))) ++
        [{ pkt := k, hoop := s.hoop }])) ∧
    (s.sec.pulse = false → Answers .partitionReset s (fun u =>
      u.job p = 0 ∧ (u.part p).loads = [] ∧ (u.part p).saved = [] ∧ (u.part p).ce = [] ∧ u.waleState p = 0 ∧
      u.host.running.getLast? = some { pkt := k, hoop := s.hoop } ∧ (3, p) ∈ u.pwr.blocks ∧
      (s.partResident p = true → ∀ t ∈ s.partTiles p, u.sq t = sqIdle ∧ (u.tile t).spad = [] ∧ (u.tile t).gab = []) ∧
      (u.part p).syncBase = (s.part p).syncBase ∧ (u.part p).ddrBase = (s.part p).ddrBase ∧ u.mem.ddr = s.mem.ddr))) ∧
  (∀ (s r : State) (k d : List Byte) (i : Nat) (io : HubIo),
    s.accepts 0xA0 [(24, decide (pktField k 24 8 + pktField k 32 4 ≤ 2 ^ 48)),
      (32, decide (64 ≤ pktField k 32 4 ∧ pktField k 32 4 ≤ 2 ^ 24 ∧ pktField k 32 4 % 64 = 0)),
      (36, decide (pktField k 36 1 ≤ 1))] k i →
    (pktField k 36 1 = 0 → (s.takeAt i).hubWrite (pktPart k) (pktField k 24 8) (fit (pktField k 32 4) d) 0 = (io, r) →
      (∀ c a, io.fault = some (c, a) → Answers (.memCopy (some d)) s (fun u => u = r.reply k stFault (if c = 0 then 0x10 else c) a)) ∧
      (io.fault = none → io.far = [] → Answers (.memCopy (some d)) s (fun u => u = r.reply k stOk (pktField k 32 4) 0)) ∧
      (io.fault = none → io.far ≠ [] → Answers (.memCopy (some d)) s (fun u => ∃ job : CopyJob, (u.part (pktPart k)).copy = some job ∧
        job.toHost = false ∧ job.open_.length = io.far.length ∧ u.host.running = r.host.running ++ [{ pkt := k, hoop := r.hoop }]))) ∧
    (pktField k 36 1 = 0 → Answers (.memCopy none) s (fun u => u = (s.takeAt i).reply k stHostDma 0 0)) ∧
    (pktField k 36 1 = 1 → (s.takeAt i).hubRead (pktPart k) (pktField k 24 8) (pktField k 32 4) 0 = (io, r) →
      (∀ c a x, io.fault = some (c, a) → Answers (.memCopy x) s (fun u => u = r.reply k stFault (if c = 0 then 0x10 else c) a)) ∧
      (io.fault = none → Answers (.memCopy none) s (fun u => u = r.reply k stHostDma 0 0)) ∧
      (io.fault = none → io.far ≠ [] → Answers (.memCopy (some d)) s (fun u => ∃ job : CopyJob, (u.part (pktPart k)).copy = some job ∧
        job.toHost = true ∧ job.open_.length = io.far.length ∧ u.host.running = r.host.running ++ [{ pkt := k, hoop := r.hoop }])) ∧
      (io.fault = none → io.far = [] → Answers (.memCopy (some d)) s (fun u => ∃ v : State,
        v.host.mem = (r.host.put (pktField k 16 8) io.data).mem ∧ v = { r with host := { r.host with mem := v.host.mem } } ∧
        u = v.reply k stOk io.data.length 0))))

/-! ### Register accesses, counters and freeze -/

/-- R10–R13, R37, R133, R158, R245, R333, R340, R449, R452, R453, R465, R519, R523 and R578. -/
def Obligations.RegisterAccessesFollowTheirTypes : Prop :=
  let only (s u : State) : Prop := u = { s with regs := u.regs }
  let reaches (s : State) (req : Requester) (a : Nat) : Prop :=
    (req = .host → s.hostUp = true ∧ s.host.fifo.length < 1024) ∧ s.mpHolds req a = false ∧ ¬(0x10000 ≤ a ∧ a < 0x20000)
  let served (s : State) (a : Nat) (wide : Bool) : Prop := misaligned a wide = false ∧ ¬(s.frozen = true ∧ frozenRange a = true)
  let readable (s : State) (req : Requester) (a : Nat) : Prop :=
    (req = .host → s.hostUp = true) ∧ ¬(s.frozen = true ∧ frozenRange a = true) ∧ s.regOff a = false ∧ s.holdsNone (reqKey req)
  let gone (s : State) (req : Requester) : State := s.discard (reqKey req) {}
  (∀ (s : State) (a b : Nat) (v : W64), (s.wr a v).rd b = if b = a then v else s.rd b) ∧
  (∀ (s : State) (a hi lo x i : Nat), lo ≤ hi → hi < 64 →
    ((s.setF a hi lo x).rdN a).testBit i = if lo ≤ i ∧ i ≤ hi then x.testBit (i - lo) else (s.rdN a).testBit i) ∧
  (∀ (s : State) (req : Requester),
    let other (l : List HeldHalf) : List HeldHalf := l.filter (fun h => decide (h.req ≠ reqKey req))
    (gone s req).host = { s.host with lows := other s.host.lows, highs := other s.host.highs, rngLows := other s.host.rngLows,
                                      rngCaps := other s.host.rngCaps } ∧
    gone s req = { s with host := (gone s req).host, rims := (gone s req).rims } ∧ s.rimsBut rimMp (gone s req) ∧
    (∀ h, s.host.rngLows = [] → s.host.lows = [h] → h.req = reqKey req →
      (gone s req).lastEvent rimMp = some (0xD5, reqKey req % 2 ^ 24, h.addr % 2 ^ 48)) ∧
    (s.holdsNone (reqKey req) → gone s req = s)) ∧
  (∀ (s : State) (req : Requester) (addr : BitVec 26) (wide : Bool) (data : BitVec 64), reaches s req addr.toNat →
    served s addr.toNat wide → reservedRange addr.toNat = true ∨ (s.regOff addr.toNat = false ∧ s.dropWrite req addr.toNat = true) →
    Answers (.registerWrite req addr wide data) s (fun u => u.lastEvent rimMp = some (0xD4, reqSrc req, addr.toNat) ∧
      (gone s req).rimsBut rimMp u ∧ u = { gone s req with rims := u.rims })) ∧
  (∀ (s : State) (req : Requester) (addr : BitVec 26) (wide : Bool) (data : BitVec 64), reaches s req addr.toNat →
    ¬served s addr.toNat wide → Answers (.registerWrite req addr wide data) s (fun u =>
      u.rd aCntHifBadAccess = s.rd aCntHifBadAccess + 1 ∧ s.regsBut (· = aCntHifBadAccess) u ∧ only (gone s req) u)) ∧
  (∀ (s : State) (req : Requester) (addr : BitVec 26) (wide : Bool) (data : BitVec 64), reaches s req addr.toNat →
    served s addr.toNat wide → reservedRange addr.toNat = false → s.regOff addr.toNat = true →
    Answers (.registerWrite req addr wide data) s (fun u => u.rd aCntPwrOffAccess = s.rd aCntPwrOffAccess + 1 ∧
      u.lastEvent rimMp = some (0xD4, reqSrc req, addr.toNat) ∧ s.regsBut (· = aCntPwrOffAccess) u ∧ (gone s req).rimsBut rimMp u ∧
      u = { gone s req with regs := u.regs, rims := u.rims })) ∧
  (∀ (s : State) (addr : BitVec 26) (wide : Bool) (data : BitVec 64), s.hostUp = true → s.host.fifo.length < 1024 →
    0x10000 ≤ addr.toNat → addr.toNat < 0x20000 → Answers (.registerWrite .host addr wide data) s (fun u =>
      u.getF aHifStatus 7 7 = 1 ∧ u.rd aCntHifBadWrite = s.rd aCntHifBadWrite + 1 ∧
      u.lastEvent rimMp = some (0xD0, if wide then 8 else 4, addr.toNat - 0x10000) ∧ u.host.fifo = s.host.fifo ∧
      u = { gone s .host with regs := u.regs, host := u.host, rims := u.rims })) ∧
  (∀ (s : State) (req : Requester) (addr : BitVec 26) (wide : Bool) (data : BitVec 64), req ≠ .host → 0x10000 ≤ addr.toNat →
    addr.toNat < 0x20000 → served s addr.toNat wide → Answers (.registerWrite req addr wide data) s (fun u =>
      u.lastEvent rimMp = some (0xD4, reqSrc req, addr.toNat) ∧ u = { gone s req with rims := u.rims })) ∧
  (∀ (s : State) (req : Requester) (addr : BitVec 26) (wide : Bool) (data : BitVec 64),
    (req = .host ∧ (s.hostUp = false ∨ 1024 ≤ s.host.fifo.length)) ∨ s.mpHolds req addr.toNat = true →
    Answers (.registerWrite req addr wide data) s (fun u => u = s)) ∧
  (∀ (s : State) (data : BitVec 64), s.frozen = false → s.holdsNone (reqKey .mp) →
    let level (hi lo : Nat) : Nat := max 1 (min 64 (bits data.toNat hi lo))
    Answers (.registerWrite .mp (BitVec.ofNat 26 aClkThrottle) false data) s (fun u =>
      u.getF aClkThrottle 6 0 = level 6 0 ∧ u.getF aClkThrottle 14 8 = level 14 8 ∧ u.getF aClkThrottle 22 16 = level 22 16 ∧
      s.regsBut (· = aClkThrottle) u ∧ only s u)) ∧
  (∀ (s : State) (req : Requester) (t : TileId) (data : BitVec 64), s.admits req (tileBase t.val + 0x4900) false →
    s.holdsNone (reqKey req) →
    let a := tileBase t.val + 0x4900
    let v := data.toNat % 2 ^ 32
    Answers (.registerWrite req (BitVec.ofNat 26 a) false data) s (fun u =>
      u.getF a 31 0 = (if v ≠ 0 ∧ v < 1024 then 1024 else v) ∧ s.regsBut (· = a) u ∧ only s u)) ∧
  (∀ (s : State) (req : Requester) (addr : BitVec 26) (data : BitVec 64) (r : RegSpec), s.admits req addr.toNat false →
    s.holdsNone (reqKey req) → findReg addr.toNat = some (r, addr.toNat) → r.bytes = 8 →
    Answers (.registerWrite req addr false data) s (fun u => u.host = { s.host with
        lows := s.host.lows ++ [{ req := reqKey req, addr := addr.toNat, val := BitVec.ofNat 64 (data.toNat % 2 ^ 32) }] } ∧
      u = { s with host := u.host })) ∧
  (∀ (s : State) (req : Requester) (addr : BitVec 26) (data low : BitVec 64) (r : RegSpec), addr.toNat + 4 < 2 ^ 26 →
    s.admits req (addr.toNat + 4) false → s.admits req addr.toNat true → s.holdsNone (reqKey req) → low.toNat < 2 ^ 32 →
    data.toNat < 2 ^ 32 → findReg (addr.toNat + 4) = some (r, addr.toNat) → findReg addr.toNat = some (r, addr.toNat) → r.bytes = 8 →
    let s' : State := { s with host := { s.host with lows := s.host.lows ++ [{ req := reqKey req, addr := addr.toNat, val := low }] } }
    Answers (.registerWrite req (addr + 4) false data) s' (fun u =>
      exec (.registerWrite req addr true (data <<< 32 ||| low)) s = .next u)) ∧
  (∀ (s : State) (req : Requester) (t : TileId) (n : Fin 16) (hi : Bool) (half : Option Bool) (x : BitVec 64),
    let a := (if hi then aVeRngCtrHi t.val n.val else aVeRngCtrLo t.val n.val) + (if half = some true then 4 else 0)
    Answers (.veRngCtrWrite req t n hi half x) s (fun u =>
      exec (.registerWrite req (BitVec.ofNat 26 a) half.isNone x) s = .next u)) ∧
  (∀ (s : State) (req : Requester) (t : TileId) (n : Fin 16) (x v : BitVec 64), s.admits req (aVeRngCtrLo t.val n.val) true →
    s.admits req (aVeRngCtrHi t.val n.val) true → s.holdsNone (reqKey req) →
    let lo := aVeRngCtrLo t.val n.val
    let held : HeldHalf := { req := reqKey req, addr := lo, val := x }
    Answers (.veRngCtrWrite req t n false none x) s (fun u =>
      u.host = { s.host with rngLows := s.host.rngLows ++ [held] } ∧ u = { s with host := u.host }) ∧
    Answers (.veRngCtrWrite req t n true none v) s (fun u => u.rd (aVeRngCtrHi t.val n.val) = v ∧
      s.regsBut (· = aVeRngCtrHi t.val n.val) u ∧ only s u) ∧
    Answers (.veRngCtrWrite req t n true none v) { s with host := { s.host with rngLows := s.host.rngLows ++ [held] } } (fun u =>
      u.rd lo = x ∧ u.rd (aVeRngCtrHi t.val n.val) = v ∧ s.regsBut (fun a => a = lo ∨ a = aVeRngCtrHi t.val n.val) u ∧ only s u)) ∧
  (∀ (s : State) (req : Requester), readable s req aDdrErrLog → req ≠ .mp →
    let rest : State := { s with mem := { s.mem with errLog := s.mem.errLog.drop 1 } }
    let v := (s.mem.errLog.headD 0).toNat
    Answers (.ddrErrLogRead req true) s (fun u => u = rest) ∧
    Answers (.ddrErrLogRead req false) s (fun u => u = { rest with host := { s.host with
      highs := s.host.highs ++ [{ req := reqKey req, addr := aDdrErrLog, val := BitVec.ofNat 64 (v / 2 ^ 32) }] } })) ∧
  (∀ s : State, readable s .mp aDdrErrLog →
    let rest : State := { s with mem := { s.mem with errLog := s.mem.errLog.drop 1 } }
    let v := (s.mem.errLog.headD 0).toNat
    Answers (.ddrErrLogRead .mp true) s (fun u => u = rest.policy v) ∧
    Answers (.ddrErrLogRead .mp false) s (fun u => u = { rest.policy v with host := { s.host with
      highs := s.host.highs ++ [{ req := reqKey .mp, addr := aDdrErrLog, val := BitVec.ofNat 64 (v / 2 ^ 32) }] } })) ∧
  (∀ (s : State) (req : Requester) (t : TileId) (n : Fin 16), readable s req (aSpadWinStatus t.val n.val) →
    Answers (.windowStatusRead req t n) s (fun u => u.getF (aSpadWinStatus t.val n.val) 17 2 = 0 ∧
      u.getF (aSpadWinStatus t.val n.val) 1 0 = s.getF (aSpadWinStatus t.val n.val) 1 0 ∧
      s.regsBut (· = aSpadWinStatus t.val n.val) u ∧ only s u)) ∧
  (∀ (s : State) (req : Requester) (addr : BitVec 26) (r : RegSpec), readable s req addr.toNat → misaligned addr.toNat false = false →
    reservedRange addr.toNat = false → ¬(0x10000 ≤ addr.toNat ∧ addr.toNat < 0x20000) →
    findReg addr.toNat = some (r, addr.toNat) → r.bytes = 8 → addr.toNat ≠ aDdrErrLog →
    isRngLo addr.toNat = false → rngPair addr.toNat = none → Answers (.lowHalfReadCapture req addr) s (fun u =>
      u.host = { s.host with highs := s.host.highs ++
        [{ req := reqKey req, addr := addr.toNat, val := BitVec.ofNat 64 (s.regNow addr.toNat / 2 ^ 32) }] } ∧
      u = { s with host := u.host })) ∧
  (∀ (s : State) (req : Requester) (t : TileId) (n : Fin 16), readable s req (aVeRngCtrLo t.val n.val) →
    Answers (.lowHalfReadCapture req (BitVec.ofNat 26 (aVeRngCtrLo t.val n.val))) s (fun u =>
      let lo := aVeRngCtrLo t.val n.val
      u.host = { s.host with
        highs := s.host.highs ++ [{ req := reqKey req, addr := lo, val := BitVec.ofNat 64 (s.rdN lo / 2 ^ 32) }],
        rngCaps := s.host.rngCaps ++ [{ req := reqKey req, addr := lo, val := s.rd (aVeRngCtrHi t.val n.val) }] } ∧
      u = { s with host := u.host })) ∧
  (∀ (s : State) (req : Requester) (addr : BitVec 26), (∀ r b, findReg addr.toNat = some (r, b) → r.bytes ≠ 8 ∨ b ≠ addr.toNat) →
    Answers (.lowHalfReadCapture req addr) s (fun u => u = s)) ∧
  (∀ (s : State) (addr : BitVec 40), (s.hostUp = false → Answers (.lidRead addr) s (fun u => u = s)) ∧
    (s.hostUp = true → (s.frozen = false ∨ s.getF aHifStatus 6 6 = 0) → Answers (.lidRead addr) s (fun u =>
      u.rd aCntHifBadAccess = s.rd aCntHifBadAccess + 1 ∧ s.regsBut (· = aCntHifBadAccess) u ∧ only s u))) ∧
  (∀ (s : State) (t o : Nat), s.hostUp = true → s.frozen = true → s.getF aHifStatus 6 6 = 1 → s.powerState < 2 → t < 1024 →
    o < 0x400000 →
    let parity : Prop := o < 0x200000 ∧ lightAddr o = true ∧ mapGet false (s.tile t).spadBad (unitKey o) = true
    let strong : Prop := (o < 0x200000 ∧ lightAddr o = false ∧ mapGet false (s.tile t).spadBad (unitKey o) = true) ∨
      (0x200000 ≤ o ∧ o < 0x300000 ∧ mapGet false (s.tile t).gabBad ((o - 0x200000) / 32) = true) ∨
      (0x300000 ≤ o ∧ o < 0x340000 ∧
        mapGet false ((s.tile t).array ((o - 0x300000) / 0x10000)).accBad (o % 0x10000 / 32) = true) ∨
      (0x347000 ≤ o ∧ o < 0x349000 ∧ mapGet false (s.tile t).patBad ((o - 0x347000) / 32) = true)
    Answers (.lidRead (BitVec.ofNat 40 (t * 0x400000 + o))) s (fun u =>
      (¬parity → ¬strong → u = s) ∧
      (parity → u.getF aDbgFreezeStatus 12 12 = 1 ∧ u.getF aDbgFreezeStatus 11 11 = s.getF aDbgFreezeStatus 11 11) ∧
      (strong → u.getF aDbgFreezeStatus 11 11 = 1 ∧ u.getF aDbgFreezeStatus 12 12 = s.getF aDbgFreezeStatus 12 12) ∧
      s.regsBut (· = aDbgFreezeStatus) u ∧ only s u)) ∧
  (∀ (s : State) (v : BitVec 32), s.hostUp = true → s.host.fifo.length < 1024 → s.holdsNone 0 → s.rdN aHifRingHead < 2 ^ 32 →
    let d := (v.toNat + 2 ^ 32 - s.rdN aHifRingHead) % 2 ^ 32
    (s.ringUsed < d → Answers (.hifRingHeadWrite v) s (fun u => u.lastEvent rimMp = some (0xD2, 0, v.toNat) ∧ u = { s with rims := u.rims })) ∧
    (d ≤ s.ringUsed → s.host.replyQ = [] → Answers (.hifRingHeadWrite v) s (fun u => u.rdN aHifRingHead = v.toNat ∧
      (∀ c ∈ s.host.evRecs, c ∈ u.host.evRecs ↔ d ≤ (c + 2 ^ 32 - s.rdN aHifRingHead) % 2 ^ 32) ∧
      s.regsBut (fun a => a = aHifRingHead ∨ a = aHifPend ∨ a = aHifStatus) u ∧
      u = { s with regs := u.regs, host := { s.host with evRecs := u.host.evRecs } })) ∧
    (d ≤ s.ringUsed → s.ringOn = true → s.ringUsed ≤ s.ringSize → s.getF aHifRingCtrl 4 0 ≤ 16 → s.host.replyQ.length ≤ 256 →
      Answers (.hifRingHeadWrite v) s (fun u => u.rdN aHifRingHead = v.toNat ∧
        u.host.replyQ = s.host.replyQ.drop (s.ringSize - (s.ringUsed - d)) ∧ u.host.fifo = s.host.fifo ∧
        u = { s with regs := u.regs, host := u.host }))) ∧
  (∀ (s : State) (v : BitVec 32), (s.hostUp = false ∨ 1024 ≤ s.host.fifo.length) → Answers (.hifRingHeadWrite v) s (fun u => u = s)) ∧
  (∀ (s : State) (req : Requester) (v : BitVec 32), Answers (.fabIdWrite req v) s (fun u =>
      exec (.registerWrite req (BitVec.ofNat 26 aFabId) false (v.setWidth 64)) s = .next u)) ∧
  (∀ (s : State) (d3 : Bool), Answers (.pcieDStateChange d3) s (fun u => u = { s with host := { s.host with d3 := d3 } }))

/-- R420, with the layout of R386. -/
def Obligations.RouteEntriesKeepReservedModes : Prop :=
  let entry (local_ : Bool) (i : Nat) : Nat := if local_ then aFabRouteLocal i else aFabRouteRegion i
  (∀ (l : Bool) (i : Nat), i < 256 → State.reset.rdN (entry l i) = 0) ∧
  (∀ (s : State) (dst src ctx vc : Nat),
    s.rdN (if dst / 256 = s.devId / 256 then entry true (dst % 256) else entry false (dst / 256)) = 0 → s.route dst src ctx vc = none) ∧
  (∀ (s : State) (l : Bool) (i : Nat) (data : BitVec 64), i < 256 → s.frozen = false → s.holdsNone (reqKey .mp) →
    Answers (.registerWrite .mp (BitVec.ofNat 26 (entry l i)) false data) s (fun u =>
      (∀ j < 4, u.getF (entry l i) (5 * j + 4) (5 * j) = bits data.toNat (5 * j + 4) (5 * j)) ∧
      u.getF (entry l i) 21 20 = (if bits data.toNat 21 20 = 3 then s.getF (entry l i) 21 20 else bits data.toNat 21 20) ∧
      s.regsBut (· = entry l i) u ∧ u = { s with regs := u.regs }))

/-- R548, R557, R558, R572–R576, R584, R597 and R601. -/
def Obligations.ClearsAndFreezesTakeEffect : Prop :=
  let clears (s : State) (req : Requester) (v : BitVec 32) : Prop := s.admits req aCntClear false ∧ s.holdsNone (reqKey req) ∧
    bit v.toNat 0 = true ∧ s.getF aCntClear 31 31 = 0
  let zeroed (s : State) (as : List Nat) (ep i : Nat) (u : State) : Prop := (∀ a ∈ as, u.rd a = 0) ∧
    u.getF ep (8 * i + 7) (8 * i) = (s.getF ep (8 * i + 7) (8 * i) + 1) % 256
  let frozenBy (s : State) (cause port : Nat) (u : State) : Prop :=
    u.frozen = true ∧ u.getF aDbgFreezeStatus 3 0 = cause ∧ u.getF aDbgFreezeStatus 8 4 = port ∧
    u.rdN aDbgFreezeHoop = u.hoop % 2 ^ 64 ∧ u.rd aCntDbgFreeze = s.rd aCntDbgFreeze + 1 ∧ u.mode = 4 ∧ u.dbg.mode = s.mode ∧
    (∀ p < 16, u.lk p = if s.carries p then lkFrozen else s.lk p) ∧
    u.lastEvent rimMp = some (0xE8, cause, if cause = 3 then port else 0) ∧
    u = { s with regs := u.regs, hoop := u.hoop, host := u.host, rims := u.rims, dbg := u.dbg, ports := u.ports }
  (∀ (s : State) (req : Requester) (v : BitVec 32), clears s req v → bits v.toNat 29 28 = 0 → Answers (.cntClear req v) s (fun u =>
      let t := bits v.toNat 27 18
      let cleared (n : Nat) : Prop := n < 8 ∧ bit v.toNat (10 + n) = true ∧ (bit v.toNat 30 = false ∨ 6 ≤ n)
      (∀ n, cleared n → zeroed s (unitCounters t n) (aTileCntEpoch t) n u) ∧
      (∀ n < 8, ¬cleared n → u.getF (aTileCntEpoch t) (8 * n + 7) (8 * n) = s.getF (aTileCntEpoch t) (8 * n + 7) (8 * n)) ∧
      (∀ n < 6, bit v.toNat (10 + n) = true → bit v.toNat 30 = true → n ∈ (u.tile t).armed) ∧
      (bit v.toNat 30 = false → u.tiles = s.tiles) ∧
      s.regsBut (fun a => (∃ n, cleared n ∧ a ∈ unitCounters t n) ∨ a = aTileCntEpoch t ∨ a = aCntClear) u ∧ s.tilesBut t u ∧
      u.getF aCntClear 30 10 = bits v.toNat 30 10 ∧ u = { s with regs := u.regs, tiles := u.tiles })) ∧
  (∀ (s : State) (req : Requester) (v : BitVec 32), clears s req v → bits v.toNat 29 28 ≠ 0 →
    (if bits v.toNat 29 28 = 3 then 8 else 16) ≤ bits v.toNat 27 18 → Answers (.cntClear req v) s (fun u =>
      u.getF aCntClear 30 10 = bits v.toNat 30 10 ∧ s.regsBut (· = aCntClear) u ∧ u = { s with regs := u.regs })) ∧
  (∀ (s : State) (req : Requester) (v : BitVec 32), Answers (.cntClear req v) s (fun u =>
      exec (.registerWrite req (BitVec.ofNat 26 aCntClear) false (v.setWidth 64)) s = .next u)) ∧
  (∀ (s : State) (req : Requester) (v : BitVec 32) (p : PortId), clears s req v → bits v.toNat 29 28 = 1 →
    bits v.toNat 27 18 = p.val → Answers (.cntClear req v) s (fun u =>
      zeroed s (portCounters p.val) (aCntEpochPort (p.val / 8)) (p.val % 8) u ∧
      s.regsBut (fun a => a ∈ portCounters p.val ∨ a = aCntEpochPort (p.val / 8) ∨ a = aCntClear) u ∧ u = { s with regs := u.regs })) ∧
  (∀ (s : State) (req : Requester) (v : BitVec 32) (c : ChanId), clears s req v → bits v.toNat 29 28 = 2 →
    bits v.toNat 27 18 = c.val → Answers (.cntClear req v) s (fun u =>
      zeroed s (chanCounters c.val) (aCntEpochCh (c.val / 8)) (c.val % 8) u ∧
      s.regsBut (fun a => a ∈ chanCounters c.val ∨ a = aCntEpochCh (c.val / 8) ∨ a = aCntClear) u ∧ u = { s with regs := u.regs })) ∧
  (∀ (s : State) (req : Requester) (v : BitVec 32) (h : Fin 8), clears s req v → bits v.toNat 29 28 = 3 →
    bits v.toNat 27 18 = h.val → Answers (.cntClear req v) s (fun u =>
      zeroed s (hubCounters h.val) aCntEpochHub h.val u ∧
      s.regsBut (fun a => a ∈ hubCounters h.val ∨ a = aCntEpochHub ∨ a = aCntClear) u ∧ u = { s with regs := u.regs })) ∧
  (∀ (s : State) (req : Requester) (v : BitVec 32), s.admits req aCntClear false → s.holdsNone (reqKey req) → bit v.toNat 0 = false →
    Answers (.cntClear req v) s (fun u => u.getF aCntClear 30 10 = bits v.toNat 30 10 ∧ s.regsBut (· = aCntClear) u ∧
      u = { s with regs := u.regs })) ∧
  (∀ (s : State) (req : Requester) (v : BitVec 32), s.admits req aCntClear false → s.holdsNone (reqKey req) → bit v.toNat 0 = true →
    s.getF aCntClear 31 31 = 1 → Answers (.cntClear req v) s (fun u =>
      (u.lastEvent rimMp).map (·.1) = some 0xD6 ∧ s.rimsBut rimMp u ∧ u = { s with rims := u.rims })) ∧
  (∀ s : State, s.dbgEn 2 = true → 8 ≤ s.pwr.released → s.frozen = false → Answers (.freezeN true) s (fun u =>
      frozenBy s 1 0 u ∧ u.hoop = s.hoop ∧ u.dbg.driving = false)) ∧
  (∀ (s : State) (on : Bool), (on = false ∨ s.dbgEn 2 = false ∨ s.pwr.released < 8 ∨ s.frozen = true) → Answers (.freezeN on) s (fun u => u = s)) ∧
  (∀ s : State, s.getF aDbgFreezeStatus 9 9 = 1 → s.frozen = false → Answers .freezeAtReached s (fun u =>
      frozenBy s 2 0 u ∧ u.hoop = max s.hoop (s.rdN aDbgFreezeAt) ∧ u.getF aDbgFreezeStatus 9 9 = 0 ∧ u.dbg.driving = s.dbgEn 3)) ∧
  (∀ (s : State) (p : PortId), s.dbgEn 4 = true → s.getF aDbgFreezeStatus 9 9 = 0 → s.getF (aLnkStatus p.val) 2 2 = 1 →
    s.frozen = false → Answers (.heldPropagation p) s (fun u => frozenBy s 3 p.val u ∧ u.hoop = s.hoop ∧ u.dbg.driving = s.dbgEn 3)) ∧
  (∀ s : State, (s.getF aDbgFreezeStatus 9 9 = 0 → Answers .freezeAtReached s (fun u => u = s)) ∧
    (s.getF aDbgFreezeStatus 9 9 = 1 → s.frozen = true → Answers .freezeAtReached s (fun u =>
      u.hoop = max s.hoop (s.rdN aDbgFreezeAt) ∧ u.getF aDbgFreezeStatus 9 9 = 0 ∧ s.regsBut (· = aDbgFreezeStatus) u ∧
      u = { s with regs := u.regs, hoop := u.hoop }))) ∧
  (∀ s : State, (s.dbg.breakDue = false ∨ s.dbgEn 7 = false) → s.live → Answers .breakReached s (fun u => u = s)) ∧
  (∀ (s : State) (p : PortId), s.dbgEn 4 = false ∨ s.getF aDbgFreezeStatus 9 9 = 1 ∨ s.getF (aLnkStatus p.val) 2 2 = 0 ∨
    s.frozen = true → Answers (.heldPropagation p) s (fun u => u = s)) ∧
  (∀ s : State, s.live → s.dbg.breakDue = true → s.dbgEn 7 = true → Answers .breakReached s (fun u =>
      frozenBy s 6 0 u ∧ u.hoop = s.hoop ∧ u.dbg.breakDue = false ∧ u.dbg.driving = s.dbgEn 3)) ∧
  (∀ s : State, Answers .freezePinRelease s (fun u => u = { s with dbg := { s.dbg with driving := false } })) ∧
  (∀ s : State, Answers .challengeExpiry s (fun u => u = { s with sec := { s.sec with challenge := none } })) ∧
  (∀ s : State, s.pwr.released ≠ 0 → s.pwr.thermtrip = false → Answers .thermtrip s (fun u => u.pwr.thermtrip = true ∧ u.pwr.alert = true ∧ u.mode = 3 ∧ u.frozen = false ∧
      u.rdN (aRstSticky 0) = 2 ^ 63 + 0x13 * 2 ^ 48 + s.hoop % 2 ^ 48 ∧ (∀ p < 16, u.lk p = lkDisabled) ∧ u.otp = s.otp ∧
      u.mem.ddr = s.mem.ddr)) ∧
  (∀ s : State, Answers (.jtagInstruction .idcode) s (fun u => u.jtag.ir = .idcode ∧ bits u.jtag.dr.toNat 31 12 = 0x1D4A6 ∧
      bits u.jtag.dr.toNat 0 0 = 1 ∧ u = { s with jtag := u.jtag })) ∧
  (∀ s : State, Answers (.jtagInstruction .bypass) s (fun u => u = { s with jtag := { ir := .bypass, dr := 0 } })) ∧
  (∀ s : State, Answers (.jtagInstruction .samplePreload) s (fun u => u.jtag.ir = .samplePreload ∧
      u = { s with jtag := u.jtag, free := u.free })) ∧
  (∀ s : State, (s.pwr.deasserted = true → Answers (.jtagInstruction .extest) s (fun u => u = s)) ∧
    (s.pwr.deasserted = false → Answers (.jtagInstruction .extest) s (fun u => u = { s with jtag := { s.jtag with ir := .extest } }))) ∧
  (∀ s : State, (s.getF aHifStatus 6 6 = 0 → Answers (.jtagInstruction .other) s (fun u => u = { s with jtag := { ir := .bypass, dr := 0 } })) ∧
    (s.getF aHifStatus 6 6 = 1 → exec (.jtagInstruction .other) s = .refused .privateJtagInstruction)) ∧
  (∀ s : State, (s.pwr.released = 0 ∨ s.pwr.thermtrip = true) → Answers .thermtrip s (fun u => u = s))

/-! ### The invariant of the one-time store -/

/-- R511, R521, R528, R532 ("a counter never decreases") and R546, over every command and every state. -/
def Obligations.KeysAndVersionsOnlyMoveForward : Prop :=
  ∀ s t : State, s.otp.arb ≤ 64 → Sys2Proof.Machine.step s = .next t →
    s.otp.arb ≤ t.otp.arb ∧ t.otp.arb ≤ 64 ∧ (s.otp.revoke0 = true → t.otp.revoke0 = true) ∧
    (s.otp.revoke1 = true → t.otp.revoke1 = true) ∧
    (∀ k, (s.opSlot k).revoked = true → (t.opSlot k).revoked = true) ∧
    (∀ k, (s.opSlot k).hash ≠ [] → (t.opSlot k).hash = (s.opSlot k).hash ∧ (t.opSlot k).roles = (s.opSlot k).roles) ∧
    t.otp.vendor0 = s.otp.vendor0 ∧ t.otp.vendor1 = s.otp.vendor1 ∧ t.otp.rootHash = s.otp.rootHash ∧ t.otp.fuse = s.otp.fuse

/-! ### Clocks, reset and power -/

/-- R496: "The level in force is the smallest request among the active sources." -/
def Obligations.ThrottleLevelIsSmallestActiveRequest : Prop :=
  (∀ s : State, s.live → Answers .throttleFrameBoundary s (fun t =>
    let fw := s.getF aClkThrottle 6 0
    let vr := s.getF aClkThrottle 14 8
    let th := s.getF aClkThrottle 22 16
    t.getF aClkStatus 6 0 = min fw (min (if s.getF aClkStatus 24 24 = 1 then vr else fw)
      (if s.getF aClkStatus 25 25 = 1 then th else fw)) ∧
    s.regsBut (· = aClkStatus) t ∧ t = { s with regs := t.regs, rims := t.rims } ∧ s.rimsBut rimMp t)) ∧
  (∀ (s : State) (on : Bool), Answers (.vrHotChange on) s (fun t =>
    t.getF aClkStatus 24 24 = (if on then 1 else 0) ∧ t.getF aClkStatus 6 0 = s.getF aClkStatus 6 0 ∧
    s.regsBut (· = aClkStatus) t ∧ t = { s with regs := t.regs })) ∧
  (∀ (s : State) (on : Bool), Answers (.thermalThrottleChange on) s (fun t =>
    t.getF aClkStatus 25 25 = (if on then 1 else 0) ∧ t.getF aClkStatus 6 0 = s.getF aClkStatus 6 0 ∧
    s.regsBut (· = aClkStatus) t ∧ t = { s with regs := t.regs })) ∧
  (∀ s : State, ¬ s.live → Answers .throttleFrameBoundary s (fun t => t = s))

/-- R500 and R501; event codes of R527. -/
def Obligations.SupplyDipHoldAndRamp : Prop :=
  (∀ (s : State) (rail : Fin 2), Answers (.supplyDipWarning rail) s (fun t =>
    t.getF aClkStatus 14 8 = 32 ∧ t.rdN aPwrDipStatus = 1 ∧ t.rd aCntPwrDip = s.rd aCntPwrDip + 1 ∧
    t.lastEvent rimMp = some (0xF1, rail.val, 0) ∧ t.getF aClkStatus 6 0 = s.getF aClkStatus 6 0 ∧
    s.regsBut (fun a => a = aClkStatus ∨ a = aPwrDipStatus ∨ a = aCntPwrDip) t ∧
    t = { s with regs := t.regs, rims := t.rims, pwr := t.pwr } ∧ s.rimsBut rimMp t)) ∧
  (∀ s : State, s.getF aPwrDipStatus 0 0 = 1 → Answers .supplyDipRecovery s (fun t =>
    t.rdN aPwrDipStatus = 2 ∧ s.regsBut (· = aPwrDipStatus) t ∧ t = { s with regs := t.regs })) ∧
  (∀ s : State, s.getF aPwrDipStatus 1 1 = 1 → Answers .dipHoldExpiry s (fun t =>
    t.rdN aPwrDipStatus = 4 ∧ t.getF aClkStatus 14 8 = 33 ∧
    (s.live → s.powerState = 0 → 7 ≤ s.pwr.released → ∀ T < 1024, ∀ m < s.arraysPerTile,
      s.getF (aMacStatus T m) 1 1 = 0 → t.getF (aMacStatus T m) 3 3 = 1) ∧
    s.regsBut (fun a => a = aClkStatus ∨ a = aPwrDipStatus ∨ ∃ T m, T < 1024 ∧ m < 4 ∧ a = aMacStatus T m) t ∧
    (∀ T, t.tile T = { s.tile T with arrays := (t.tile T).arrays } ∧ ∀ m, ((t.tile T).array m).acc = ((s.tile T).array m).acc) ∧
    t = { s with regs := t.regs, tiles := t.tiles, rims := t.rims })) ∧
  (∀ s : State, s.getF aPwrDipStatus 2 2 = 1 → s.getF aClkStatus 14 8 < 63 → Answers .dipRampStep s (fun t =>
    t.getF aClkStatus 14 8 = s.getF aClkStatus 14 8 + 1 ∧ t.rd aPwrDipStatus = s.rd aPwrDipStatus ∧
    s.regsBut (· = aClkStatus) t ∧ t = { s with regs := t.regs })) ∧
  (∀ s : State, s.getF aPwrDipStatus 2 2 = 1 → s.getF aClkStatus 14 8 = 63 → Answers .dipRampStep s (fun t =>
    t.getF aClkStatus 14 8 = 64 ∧ t.rdN aPwrDipStatus = 0 ∧
    (t.lastEvent rimMp).map (·.1) = some 0xF2 ∧ s.rimsBut rimMp t ∧
    s.regsBut (fun a => a = aClkStatus ∨ a = aPwrDipStatus) t ∧ t = { s with regs := t.regs, rims := t.rims })) ∧
  (∀ s : State, (s.getF aPwrDipStatus 0 0 = 0 → Answers .supplyDipRecovery s (fun t => t = s)) ∧
    (s.getF aPwrDipStatus 1 1 = 0 → Answers .dipHoldExpiry s (fun t => t = s)) ∧
    (s.getF aPwrDipStatus 2 2 = 0 → Answers .dipRampStep s (fun t => t = s)))

/-- R503, R504, R511, R521 and R593: what a power-on or cold reset leaves. -/
def Obligations.ColdResetsKeepOtpAndRecordCause : Prop :=
  let after (s : State) (cause : Nat) (t : State) : Prop :=
    t.rdN aRstCause = cause ∧ bits (t.rdN (aRstSticky 0)) 63 63 = 1 ∧ bits (t.rdN (aRstSticky 0)) 55 48 = cause ∧
    t.otp = s.otp ∧ t.tiles = [] ∧ t.parts = [] ∧ t.ports = [] ∧ t.sync = {} ∧ t.mem = {} ∧ t.hoop = 0 ∧
    t.pwr.released = 0 ∧ t.pwr.thermtrip = false ∧
    (∀ a, a ≠ aHifId → a ≠ aRstCause → ¬ (aRstSticky 0 ≤ a ∧ a < aRstSticky 0 + 0x80) → t.rd a = regDefault a)
  let moved (s t : State) : Prop := ∀ i < 15, t.rd (aRstSticky (i + 1)) = s.rd (aRstSticky i)
  (∀ s : State, Answers (.powerOnReset 0) s (after s 1)) ∧
  (∀ s : State, Answers (.powerOnReset 1) s (fun t => after s 2 t ∧ moved s t)) ∧
  (∀ s : State, Answers (.powerOnReset 2) s (fun t => after s 3 t ∧ moved s t)) ∧
  (∀ s : State, s.sec.pulse = false → Answers .resetN s (fun t => after s 4 t ∧ moved s t)) ∧
  (∀ s : State, s.sec.pulse = false → Answers .perstN s (fun t => after s 5 t ∧ moved s t)) ∧
  (∀ s : State, s.sec.pulse = false → Answers .refclkStop s (fun t => after s 4 t ∧ moved s t)) ∧
  (∀ s : State, s.sec.pulse = true → ∀ c ∈ [Instr.resetN, .perstN, .refclkStop], Answers c s (fun t =>
    t.sec.held.length = s.sec.held.length + 1 ∧ t = { s with sec := t.sec }))

/-- R505: "No domain is released out of this order." -/
def Obligations.DomainsReleaseInOrder : Prop :=
  (∀ s : State, s.pwr.deasserted = false → s.pwr.released = 0 → Answers .resetSourcesDeasserted s (fun t =>
    t = { s with pwr := { s.pwr with deasserted := true } })) ∧
  (∀ s : State, s.pwr.deasserted = true → s.pwr.released = 0 → Answers .resetReleaseStep s (fun t =>
    t.pwr.released = 1 ∧ t.hoop = 0 ∧ t.getF aClkStatus 31 31 = 1 ∧ s.regsBut (· = aClkStatus) t ∧
    t = { s with pwr := t.pwr, hoop := t.hoop, regs := t.regs })) ∧
  (∀ s : State, s.pwr.deasserted = true → 1 ≤ s.pwr.released → s.pwr.released < 8 →
    (s.pwr.warm = false ∨ s.pwr.released ≠ 3) → Answers .resetReleaseStep s (fun t =>
      t = { s with pwr := { s.pwr with released := s.pwr.released + 1 } })) ∧
  (∀ s : State, s.pwr.deasserted = true → s.pwr.warm = true → s.pwr.released = 3 → Answers .resetReleaseStep s (fun t =>
      t = { s with pwr := { s.pwr with released := 5 } })) ∧
  (∀ s : State, (8 ≤ s.pwr.released ∨ s.pwr.deasserted = false) → Answers .resetReleaseStep s (fun t => t = s)) ∧
  (∀ s : State, (s.pwr.deasserted = true ∨ s.pwr.released ≠ 0) → Answers .resetSourcesDeasserted s (fun t => t = s))

/-- R469 and R532: the ROM's steps and where they lead. -/
def Obligations.BootVerifiesImageOrRecovers : Prop :=
  let bootable (s : State) : Prop := 3 ≤ s.pwr.released ∧ s.getF aHifStatus 2 0 = 0 ∧ s.sec.image = none
  (∀ (s : State) (n : Nat), bootable s → s.pwr.bootMode ≠ 0 → Answers (.bootVerify n) s (fun t =>
    t.getF aHifStatus 2 0 = 2 ∧ t.getF aSecBootStatus 19 16 = 2 ∧ t.sec.image = none ∧ t.otp = s.otp ∧
    t.getF aSecBootStatus 31 24 = min 255 n ∧ t.pwr.fused = s.otp.fuse)) ∧
  (∀ (s : State) (n k : Nat), bootable s → s.pwr.bootMode = 0 → s.imageCheck s.flashImage = k → k ≠ 0 → k < 16 →
    Answers (.bootVerify n) s (fun t =>
      t.getF aHifStatus 2 0 = 2 ∧ t.getF aSecBootStatus 19 16 = k ∧ t.sec.image = none ∧ t.otp = s.otp ∧ t.pwr.fused = s.otp.fuse)) ∧
  (∀ (s : State) (n : Nat), bootable s → s.pwr.bootMode = 0 → s.imageCheck s.flashImage = 0 →
    Answers (.bootVerify n) s (fun t =>
      t.otp.arb = max s.otp.arb (imgField s.flashImage 0xC 1) ∧
      (t.sec.image.map (·.1)) = some (imageDigest s.flashImage) ∧ t.getF aSecBootStatus 19 16 = 0 ∧
      t.otp.flash = s.otp.flash ∧ t.otp.ops = s.otp.ops ∧ t.pwr.fused = s.otp.fuse ∧
      (t.otp.revoke0 = true ↔ s.otp.revoke0 = true ∨ (bit (imgField s.flashImage 0xE 1) 0 = true ∧ imgField s.flashImage 0xD 1 ≠ 0)) ∧
      (t.otp.revoke1 = true ↔ s.otp.revoke1 = true ∨ (bit (imgField s.flashImage 0xE 1) 1 = true ∧ imgField s.flashImage 0xD 1 ≠ 1)))) ∧
  (∀ (s : State) (n : Nat), (s.pwr.released < 3 ∨ s.getF aHifStatus 2 0 ≠ 0 ∨ s.sec.image.isSome = true) →
    Answers (.bootVerify n) s (fun t => t = s)) ∧
  (∀ s : State, (s.getF aHifStatus 2 0 ≠ 0 ∨ s.sec.image = none ∨ s.pwr.released < 8) → Answers .mpReady s (fun t => t = s)) ∧
  (∀ s : State, s.getF aHifStatus 2 0 = 0 → s.sec.image.isSome = true → 8 ≤ s.pwr.released →
    Answers .mpReady s (fun t =>
      t.getF aHifStatus 2 0 = 1 ∧ t.mem.selfRefresh = false ∧ t.pwr.warm = false ∧ t.otp.flash = s.otp.flash ∧ t.otp.arb = s.otp.arb ∧
      t.otp.ops = s.otp.ops ∧ (s.pwr.warm = true → t.otp = s.otp) ∧ t.tiles = s.tiles))

/-- R508 to R511. -/
def Obligations.BlockResetsHoldAndRelease : Prop :=
  (∀ (s : State) (g : BitVec 16), s.live → s.sec.pulse = false → Answers (.tileGroupReset g) s (fun t =>
    ∀ q < 1024, bit g.toNat (q / 64) = true → t.isolatedTile q = true ∧ t.sq q = sqIdle ∧ (t.tile q).seq = {} ∧ (t.tile q).queues = [] ∧ (t.tile q).ctxs = [])) ∧
  (∀ (s : State) (g : BitVec 16), s.live → s.sec.pulse = true → Answers (.tileGroupReset g) s (fun t =>
    t.sec.held.length = s.sec.held.length + 1 ∧ t = { s with sec := t.sec })) ∧
  (∀ s : State, s.live → Answers .blockResetRelease s (fun t =>
    t.pwr.blocks = [] ∧ t.tiles = s.tiles ∧ t.mem = s.mem ∧ t.sync = s.sync ∧ t.otp = s.otp)) ∧
  (∀ s : State, s.sec.held = [] → Answers .otpPulseEnd s (fun t =>
    t.sec.pulse = false ∧ t.sec.held = [] ∧ t = { s with sec := t.sec })) ∧
  (∀ (s : State) (h : HeldReset), s.sec.held = [h] → h.kind = 2 → Answers .otpPulseEnd s (fun t =>
    t.sec.pulse = false ∧ t.rdN aRstCause = h.arg % 2 ^ 64 ∧ t.otp = s.otp ∧ t.tiles = [] ∧
    (t.lastEvent rimMp).map (·.1) = some 0xF5)) ∧
  (∀ (s : State) (h : HeldReset), s.sec.held = [h] → h.kind = 3 → Answers .otpPulseEnd s (fun t =>
    t.sec.pulse = false ∧ t.rdN aRstCause = 6 ∧ t.otp = s.otp ∧ t.tiles = [] ∧ t.mode = 0 ∧ t.pwr.warm = true ∧
    (t.lastEvent rimMp).map (·.1) = some 0xF5)) ∧
  (∀ (s : State) (h : HeldReset), s.sec.held = [h] → h.kind = 4 → h.arg < 16 → Answers .otpPulseEnd s (fun t =>
    t.sec.pulse = false ∧ t.sec.held = [] ∧ t.job h.arg = 0 ∧ (3, h.arg) ∈ t.pwr.blocks ∧ (t.part h.arg).loads = [] ∧ t.otp = s.otp)) ∧
  (∀ (s : State) (h : HeldReset), s.sec.held = [h] → h.kind = 5 → Answers .otpPulseEnd s (fun t =>
    t.sec.pulse = false ∧ t.sec.held = [] ∧ t.otp = s.otp ∧
    ∀ q < 1024, bit h.arg (q / 64) = true → t.isolatedTile q = true ∧ t.sq q = sqIdle ∧ (t.tile q).seq = {}))

/-- R513 to R518. -/
def Obligations.PowerStatesEnterAndWake : Prop :=
  (∀ s : State, s.live → s.deviceIdle = true → s.powerState = 0 → s.getF aPwrStatus 11 11 = 0 → s.pwr.waking = false →
    min (deepest (s.rdN aPwrTol)) s.deepestIdle ≠ 0 → Answers .powerStateEntry s (fun t =>
      t.getF aPwrStatus 11 11 = 1 ∧ t.getF aPwrStatus 10 8 = min (deepest (s.rdN aPwrTol)) s.deepestIdle ∧
      t.powerState = 0 ∧ s.regsBut (· = aPwrStatus) t ∧ t = { s with regs := t.regs, pwr := t.pwr })) ∧
  (∀ s : State, s.live → s.getF aPwrStatus 11 11 = 1 → s.pwr.waking = false → s.getF aPwrStatus 10 8 < 3 →
    Answers .powerStateEntryComplete s (fun t =>
      t.powerState = s.getF aPwrStatus 10 8 ∧ t.getF aPwrStatus 11 11 = 0 ∧ (t.lastEvent rimMp).map (·.1) = some 0xF3 ∧
      s.regsBut (· = aPwrStatus) t ∧ t = { s with regs := t.regs, rims := t.rims })) ∧
  (∀ s : State, s.live → s.getF aPwrStatus 11 11 = 1 → s.pwr.waking = false → s.getF aPwrStatus 10 8 = 4 →
    Answers .powerStateEntryComplete s (fun t =>
      t.powerState = 4 ∧ t.mem.l2 = [] ∧ t.mem.selfRefresh = true ∧ t.sync = s.sync ∧ t.parts = s.parts)) ∧
  (∀ (s : State) (c : Fin 16), s.live → ((1 ≤ c.val ∧ c.val ≤ 3) ∨ (c.val = 4 ∧ s.powerState = 1) ∨ (c.val = 5 ∧ s.powerState = 4)) →
    s.pwr.waking = false → (s.powerState ≠ 0 ∨ s.getF aPwrStatus 11 11 = 1) →
    Answers (.wakeEvent c) s (fun t =>
      t.pwr.waking = true ∧ t.getF aPwrStatus 15 12 = c.val ∧ t.getF aPwrStatus 11 11 = 0 ∧
      t.rd aCntPwrWake = s.rd aCntPwrWake + 1 ∧ s.regsBut (fun a => a = aPwrStatus ∨ a = aCntPwrWake) t ∧
      t = { s with regs := t.regs, pwr := t.pwr })) ∧
  (∀ s : State, s.live → s.pwr.waking = true → Answers .powerStateExitComplete s (fun t =>
    t.powerState = 0 ∧ t.pwr.waking = false ∧ s.regsBut (· = aPwrStatus) t ∧
    (s.powerState ≠ 0 → (t.lastEvent rimMp).map (·.1) = some 0xF4) ∧
    t = { s with regs := t.regs, rims := t.rims, pwr := t.pwr, mem := t.mem })) ∧
  (∀ s : State, s.live → s.getF aPwrStatus 11 11 = 1 → s.pwr.waking = false → s.getF aPwrStatus 10 8 = 3 →
    Answers .powerStateEntryComplete s (fun t => t.powerState = 3 ∧ t.mem.selfRefresh = s.mem.selfRefresh ∧ t.tiles = s.tiles ∧
      t.sync = s.sync ∧ t.parts = s.parts)) ∧
  (∀ s : State, s.live → (s.deviceIdle = false ∨ s.powerState ≠ 0 ∨ s.getF aPwrStatus 11 11 = 1 ∨ s.pwr.waking = true ∨
    min (deepest (s.rdN aPwrTol)) s.deepestIdle = 0) → Answers .powerStateEntry s (fun t => t = s)) ∧
  (∀ s : State, s.live → (s.getF aPwrStatus 11 11 = 0 ∨ s.pwr.waking = true) → Answers .powerStateEntryComplete s (fun t => t = s)) ∧
  (∀ (s : State) (c : Fin 16), s.live → (s.pwr.waking = true ∨ (s.powerState = 0 ∧ s.getF aPwrStatus 11 11 = 0)) →
    Answers (.wakeEvent c) s (fun t => t = s)) ∧
  (∀ s : State, s.live → s.pwr.waking = false → Answers .powerStateExitComplete s (fun t => t = s)) ∧
  (∀ (s : State) (c : Instr) (op i : Nat) (k : List Byte), opcodeOf c = some op → s.serves op = true → s.mode ≠ 4 →
    (∀ x ∈ s.host.fifo, (hostRow (pktOpcode x)).isSome = true) → s.nextPacket op = some (k, i) → s.asleep = true →
    [0x01, 0x02, 0x03, 0x10, 0x11, 0x22, 0x90].contains op = false → (op = 0x32 ∨ op = 0x33 → s.heldBack op = false) →
    Answers c s (fun t => t = s.wake 1)) ∧
  (∀ (s : State) (c : Fin 16), (c.val = 0 ∨ 6 ≤ c.val ∨ (c.val = 4 ∧ s.powerState ≠ 1) ∨ (c.val = 5 ∧ s.powerState ≠ 4)) →
    Answers (.wakeEvent c) s (fun t => t = s))
end

