-- ==== Sys2Proof/Laws/Map.lean ====
section
/-! SUPPORT. Laws of keyed lists: what a key reads after a write, and that writes keep the canonical form. -/
namespace Sys2Proof.Machine

theorem mapGet_mapIns {α : Type} (d : α) (m : List (Nat × α)) (x y : Nat) (v : α) :
    mapGet d (mapIns m x v) y = if y = x then v else mapGet d m y := by
  induction m with
  | nil => grind [mapIns, mapGet]
  | cons e r ih => grind [mapIns, mapGet]

theorem mapGet_mapDrop {α : Type} (d : α) (p : Nat → Bool) (m : List (Nat × α)) (y : Nat) :
    mapGet d (mapDrop p m) y = if p y then d else mapGet d m y := by
  induction m with
  | nil => simp [mapDrop, mapGet]
  | cons e r ih =>
    simp only [mapDrop] at ih ⊢
    grind [mapGet]

theorem mapGet_mapPut {α : Type} [DecidableEq α] (d : α) (m : List (Nat × α)) (x y : Nat) (v : α) :
    mapGet d (mapPut d m x v) y = if y = x then v else mapGet d m y := by
  have h := mapGet_mapDrop d (· == x) m y
  simp only [mapDrop] at h
  grind [mapPut, mapGet_mapIns]

/-- A key reads what was last written to it. -/
@[simp] theorem mapGet_mapPut_same {α : Type} [DecidableEq α] (d : α) (m : List (Nat × α)) (x : Nat) (v : α) :
    mapGet d (mapPut d m x v) x = v := by simp [mapGet_mapPut]

/-- A write leaves every other key alone, whatever the two defaults are. -/
theorem mapGet_mapPut_ne {α : Type} [DecidableEq α] (d e : α) (m : List (Nat × α)) {x y : Nat} (v : α) (h : y ≠ x) :
    mapGet d (mapPut e m x v) y = mapGet d m y := by
  have q := mapGet_mapDrop d (· == x) m y
  simp only [mapDrop] at q
  grind [mapPut, mapGet_mapIns]

theorem mapWfFrom_mono {α : Type} [DecidableEq α] {d : Nat → α} {m : List (Nat × α)} {a b : Nat} (h : a ≤ b)
    (w : mapWfFrom d b m = true) : mapWfFrom d a m = true := by
  cases m <;> grind [mapWfFrom]

theorem mapWfFrom_filter {α : Type} [DecidableEq α] {d : Nat → α} (p : Nat × α → Bool) {m : List (Nat × α)} {a : Nat}
    (w : mapWfFrom d a m = true) : mapWfFrom d a (m.filter p) = true := by
  induction m generalizing a with
  | nil => rfl
  | cons e r ih =>
    simp only [mapWfFrom, Bool.and_eq_true, decide_eq_true_eq] at w
    by_cases hp : p e = true
    · simp [hp, mapWfFrom, w.1.1, w.1.2, ih w.2]
    · simp [hp]; exact mapWfFrom_mono (by omega) (ih w.2)

theorem mapWfFrom_ins {α : Type} [DecidableEq α] {d : Nat → α} {m : List (Nat × α)} {a x : Nat} {v : α} (hx : a ≤ x)
    (hv : v ≠ d x) (w : mapWfFrom d a m = true) : mapWfFrom d a (mapIns m x v) = true := by
  induction m generalizing a with
  | nil => simp [mapIns, mapWfFrom, hx, hv]
  | cons e r ih =>
    obtain ⟨k, u⟩ := e
    simp only [mapWfFrom, Bool.and_eq_true, decide_eq_true_eq] at w
    simp only [mapIns]
    split
    · next h => subst h; simp [mapWfFrom, hx, hv, w.2]
    · split
      · next h1 h2 => simp [mapWfFrom, hx, hv, w.1.2, w.2]; omega
      · next h1 h2 => simp [mapWfFrom, w.1.1, w.1.2, ih (show k + 1 ≤ x by omega) w.2]

/-- A write keeps the canonical form. -/
theorem mapWf_mapPut {α : Type} [DecidableEq α] {d : Nat → α} {m : List (Nat × α)} (x : Nat) (v : α)
    (w : mapWf d m = true) : mapWf d (mapPut (d x) m x v) = true := by
  simp only [mapWf, mapPut] at *
  split
  · exact mapWfFrom_filter _ w
  · next h => exact mapWfFrom_ins (Nat.zero_le _) h w

/-- Dropping entries keeps the canonical form. -/
theorem mapWf_mapDrop {α : Type} [DecidableEq α] {d : Nat → α} {m : List (Nat × α)} (p : Nat → Bool)
    (w : mapWf d m = true) : mapWf d (mapDrop p m) = true := mapWfFrom_filter _ w

end Sys2Proof.Machine
end

