-- ==== Sys2Proof/Laws/Memory.lean ====
section
/-! SUPPORT. Laws of the byte memories: every operation keeps the canonical form, a read after a write, and what a write
leaves alone. -/
namespace Sys2Proof.Machine

theorem Memory.wf_put {m : List Host.Cell} (a : Nat) (b : Byte) (w : Memory.wf m = true) :
    Memory.wf (mapPut 0 m a b) = true := mapWf_mapPut (d := fun _ => (0 : Byte)) a b w

/-- Storing bytes one after the other, wherever each goes, keeps the canonical form. -/
theorem Memory.wf_foldl {α : Type} {m : List Host.Cell} (f : α → Nat) (g : α → Byte) (l : List α)
    (w : Memory.wf m = true) : Memory.wf (l.foldl (fun m x => mapPut 0 m (f x) (g x)) m) = true := by
  induction l generalizing m with
  | nil => exact w
  | cons x r ih => exact ih (Memory.wf_put _ _ w)

theorem Memory.wf_drop {m : List Host.Cell} (p : Nat → Bool) (w : Memory.wf m = true) : Memory.wf (mapDrop p m) = true :=
  mapWf_mapDrop (d := fun _ => (0 : Byte)) p w

/-- Storing the bytes of a list keeps the canonical form of DDR. -/
theorem State.ddrPut_wf {s : State} (off : Nat) (data : List Byte) (w : Memory.wf s.mem.ddr = true) :
    Memory.wf (s.ddrPut off data).mem.ddr = true := Memory.wf_foldl _ _ _ w

/-- A DMA write keeps the canonical form of host memory. -/
theorem HostIf.put_wf {h : HostIf} (a : Nat) (data : List Byte) (w : Memory.wf h.mem = true) :
    Memory.wf (h.put a data).mem = true := Memory.wf_foldl _ _ _ w

/-- A property that every round of a fold keeps holds after the fold. -/
theorem foldl_keeps {σ α : Type} (P : σ → Prop) (f : σ → α → σ) (h : ∀ s a, P s → P (f s a)) (l : List α) :
    ∀ s, P s → P (l.foldl f s) := by
  induction l with
  | nil => exact fun _ w => w
  | cons x r ih => exact fun s w => ih _ (h s x w)

/-- DDR is in canonical form. -/
def State.ddrWf (s : State) : Prop := Memory.wf s.mem.ddr = true

theorem State.ddrWf_of_eq {s t : State} (h : t.mem.ddr = s.mem.ddr) (w : s.ddrWf) : t.ddrWf := by
  unfold State.ddrWf; rw [h]; exact w

theorem State.cnt_ddrWf {s : State} (a : Nat) (n : Nat) (w : s.ddrWf) : (s.cnt a n).ddrWf := w
theorem State.ddrMark_ddrWf {s : State} (o : Nat) (b : Bool) (w : s.ddrWf) : (s.ddrMark o b).ddrWf := w
theorem State.activate_ddrWf {s : State} (c k : Nat) (w : s.ddrWf) : (s.activate c k).ddrWf := w
theorem State.l2Put_ddrWf {s : State} (o k : Nat) (l : Option L2Line) (w : s.ddrWf) : (s.l2Put o k l).ddrWf := w
theorem State.ddrPut_ddrWf {s : State} (o : Nat) (d : List Byte) (w : s.ddrWf) : (s.ddrPut o d).ddrWf := State.ddrPut_wf o d w

/-- The queue and the place of a retirement are no part of DDR. -/
theorem State.ddrWf_of_mem {s : State} {r : Option Nat} (w : s.ddrWf) : State.ddrWf { s with mem := { s.mem with retiring := r } } := w

theorem State.ddrWf_of_queue {s : State} {q : List Nat} (w : s.ddrWf) : State.ddrWf { s with mem := { s.mem with retireQ := q } } := w

theorem State.errRecord_ddrWf {s : State} (k : Nat) (b : Bool) (c d : Nat) (e : Bool) (o : Nat) (w : s.ddrWf) :
    (s.errRecord k b c d e o).ddrWf := by
  unfold State.errRecord; split <;> exact w

/-- Reading and rewriting DDR keeps its canonical form. -/
theorem State.ddrWord_ddrWf {s : State} (sc : Bool) (off j : Nat) (b : Bool) (es : List (Nat × Nat)) (w : s.ddrWf) :
    (s.ddrWord sc off j b es).ddrWf := by
  unfold State.ddrWord
  dsimp only
  split
  · exact w
  · exact State.ddrMark_ddrWf _ _ (State.errRecord_ddrWf _ _ _ _ _ _ (State.cnt_ddrWf _ _ w))
  · exact State.ddrPut_ddrWf _ _ (State.errRecord_ddrWf _ _ _ _ _ _ (State.cnt_ddrWf _ _ w))
  · exact State.ddrMark_ddrWf _ _ (State.ddrPut_ddrWf _ _ (State.errRecord_ddrWf _ _ _ _ _ _ (State.cnt_ddrWf _ _ w)))

theorem State.ddrRead_ddrWf {s : State} (sc : Bool) (off : Nat) (es : List (List (Nat × BitVec 8))) (w : s.ddrWf) :
    (s.ddrRead sc off es).ddrWf := by
  unfold State.ddrRead
  dsimp only
  split <;> exact foldl_keeps State.ddrWf _ (fun _ _ => State.ddrWord_ddrWf _ _ _ _ _) _ _ w

theorem State.ddrWrite_ddrWf {s : State} (off : Nat) (data : List Byte) (poison : Nat) (w : s.ddrWf) :
    (s.ddrWrite off data poison).ddrWf := by
  unfold State.ddrWrite
  exact foldl_keeps State.ddrWf _ (fun _ _ w => State.ddrMark_ddrWf _ _ w) _ _
    (State.cnt_ddrWf _ _ (State.ddrPut_ddrWf _ _ (State.activate_ddrWf _ _ w)))

/-- What a slice does with a line keeps the canonical form of DDR. -/
theorem State.l2Fill_ddrWf {s : State} (off n : Nat) (wr : Bool) (l : L2Line) (es : List (List (Nat × BitVec 8))) (w : s.ddrWf) :
    (s.l2Fill off n wr l es).2.ddrWf :=
  foldl_keeps (fun p : L2Line × State => p.2.ddrWf) _ (fun p h w => by
    split
    · exact w
    · exact State.ddrRead_ddrWf _ _ _ w) _ (l, s) w

theorem State.l2WriteBack_ddrWf {s : State} (off k : Nat) (w : s.ddrWf) : (s.l2WriteBack off k).ddrWf := by
  unfold State.l2WriteBack
  split
  · exact w
  · dsimp only
    refine State.l2Put_ddrWf _ _ _ ?_
    split <;> split <;> first
      | exact w
      | exact State.cnt_ddrWf _ _ (State.ddrWrite_ddrWf _ _ _ w)
      | exact State.cnt_ddrWf _ _ (State.ddrWrite_ddrWf _ _ _ (State.cnt_ddrWf _ _ (State.ddrWrite_ddrWf _ _ _ w)))

theorem State.l2Upset_ddrWf {s : State} (off n k : Nat) (w : s.ddrWf) : (s.l2Upset off n k).ddrWf := by
  unfold State.l2Upset
  split
  · exact w
  · dsimp only
    split
    · exact w
    · exact State.l2WriteBack_ddrWf _ _ w

theorem State.l2ReadBytes_ddrWf {s : State} (off n : Nat) (wr pf hit : Bool) (w : s.ddrWf) :
    (s.l2ReadBytes off n wr pf hit).ddrWf := by
  unfold State.l2ReadBytes
  split
  · exact w
  · split <;> exact State.cnt_ddrWf _ _ w

theorem State.l2Hit_ddrWf {s : State} (off n k clock : Nat) (can wr pf : Bool) (data : List Byte) (po cls part : Nat)
    (es : List (List (Nat × BitVec 8))) (w : s.ddrWf) :
    (s.l2Hit off n k clock can wr pf data po cls part es).2.2.2.ddrWf := by
  unfold State.l2Hit
  split
  · exact w
  · split
    · exact w
    · exact State.l2ReadBytes_ddrWf _ _ _ _ _ (State.l2Put_ddrWf _ _ _ (State.l2Fill_ddrWf _ _ _ _ _ w))

theorem State.l2Pass_ddrWf {s : State} (off n : Nat) (wr pf : Bool) (data : List Byte) (po : Nat)
    (es : List (List (Nat × BitVec 8))) (w : s.ddrWf) : (s.l2Pass off n wr pf data po es).2.2.2.ddrWf := by
  unfold State.l2Pass
  dsimp only
  split
  · exact foldl_keeps State.ddrWf _ (fun _ _ w => State.ddrWrite_ddrWf _ _ _ w) _ _ (State.l2Fill_ddrWf _ _ _ _ _ w)
  · exact State.l2ReadBytes_ddrWf _ _ _ _ _ (State.l2Fill_ddrWf _ _ _ _ _ w)

theorem State.l2Count_ddrWf {s : State} (pf : Bool) (reuse : Nat) (w : s.ddrWf) : (s.l2Count pf reuse).2.ddrWf := by
  unfold State.l2Count
  split
  · exact w
  · split <;> exact w

theorem State.l2Take_ddrWf {s : State} (off n k clock : Nat) (can wr pf : Bool) (data : List Byte) (po cls reuse part : Nat)
    (es : List (List (Nat × BitVec 8))) (w : s.ddrWf) :
    (s.l2Take off n k clock can wr pf data po cls reuse part es).2.2.2.ddrWf := by
  unfold State.l2Take
  exact State.l2ReadBytes_ddrWf _ _ _ _ _ (State.l2Put_ddrWf _ _ _ (State.l2Count_ddrWf _ _
    (State.l2Fill_ddrWf _ _ _ _ _ (State.l2WriteBack_ddrWf _ _ w))))

theorem State.l2Begin_ddrWf {s : State} (off : Nat) (pf : Bool) (w : s.ddrWf) : (s.l2Begin off pf).ddrWf := by
  unfold State.l2Begin
  cases pf
  · exact w
  · exact State.cnt_ddrWf _ _ w

/-- Serving a request at its slice keeps the canonical form of DDR. -/
theorem State.l2Serve_ddrWf {s : State} (off n : Nat) (wr pf : Bool) (data : List Byte) (po cls reuse part : Nat)
    (es : List (List (Nat × BitVec 8))) (up : Bool) (w : s.ddrWf) :
    (s.l2Serve off n wr pf data po cls reuse part es up).2.2.2.ddrWf := by
  unfold State.l2Serve
  have b := State.l2Begin_ddrWf off pf w
  dsimp only
  split
  · refine State.l2Hit_ddrWf _ _ _ _ _ _ _ _ _ _ _ _ ?_
    split
    · exact State.l2Upset_ddrWf _ _ _ b
    · exact b
  · split
    · exact State.l2Pass_ddrWf _ _ _ _ _ _ _ b
    · exact State.l2Take_ddrWf _ _ _ _ _ _ _ _ _ _ _ _ _ b

theorem State.ite_ddrWf {c : Prop} {d : Decidable c} {s t : State} (w : s.ddrWf) (v : t.ddrWf) : (if c then s else t).ddrWf := by
  split <;> assumption

theorem State.copyLine_ddrWf {s : State} (a b : Nat) (w : s.ddrWf) : (s.copyLine a b).ddrWf := by
  unfold State.copyLine
  exact State.l2Serve_ddrWf b 256 true false _ _ 1 0 0 [] false (State.l2Serve_ddrWf a 256 false false [] 0 1 0 0 [] false w)

theorem State.copyPage_ddrWf {s : State} (a b : Nat) (w : s.ddrWf) : (s.copyPage a b).ddrWf := by
  unfold State.copyPage
  exact foldl_keeps State.ddrWf _ (fun _ _ w => State.copyLine_ddrWf _ _ w) _ _ w

theorem State.wrN_ddrWf {s : State} (a v : Nat) (w : s.ddrWf) : (s.wrN a v).ddrWf := w
theorem State.setF_ddrWf {s : State} (a h l v : Nat) (w : s.ddrWf) : (s.setF a h l v).ddrWf := w
theorem State.onDdrLog_ddrWf {s : State} (f : DdrLog → DdrLog) (w : s.ddrWf) : (s.onDdrLog f).ddrWf := w

theorem State.retireGo_ddrWf {s : State} (n : Nat) (w : s.ddrWf) : (s.retireGo n).ddrWf := by
  unfold State.retireGo
  exact State.ite_ddrWf w (State.ddrWf_of_mem (State.setF_ddrWf _ _ _ _ (State.setF_ddrWf _ _ _ _ w)))

theorem State.retireBy_ddrWf {s : State} (page : Nat) (n : Option Nat) (w : s.ddrWf) : (s.retireBy page n).ddrWf := by
  cases n with
  | none => exact State.onDdrLog_ddrWf _ w
  | some n => exact State.retireGo_ddrWf _ (State.wrN_ddrWf _ _ w)

theorem State.retirePage_ddrWf {s : State} (n : Nat) (w : s.ddrWf) : (s.retirePage n).ddrWf := by
  unfold State.retirePage
  split
  · exact State.ddrWf_of_queue w
  · split
    · exact w
    · exact State.retireBy_ddrWf _ _ w

theorem State.retireNext_ddrWf {s : State} (w : s.ddrWf) : s.retireNext.ddrWf := by
  unfold State.retireNext
  split
  · exact State.retirePage_ddrWf _ w
  · exact w

theorem State.retireDone_ddrWf {s : State} (w : s.ddrWf) : s.retireDone.ddrWf := by
  unfold State.retireDone
  split
  · exact w
  · refine State.ite_ddrWf w (State.retireNext_ddrWf ?_)
    refine State.ddrWf_of_mem ?_
    exact State.onDdrLog_ddrWf _ (State.setF_ddrWf _ _ _ _ (State.setF_ddrWf _ _ _ _ (State.copyPage_ddrWf _ _ w)))

theorem State.initTo_ddrWf {s : State} (c n : Nat) (w : s.ddrWf) : (s.initTo c n).ddrWf := by
  unfold State.initTo
  exact State.cnt_ddrWf _ _ (State.wrN_ddrWf _ _ (show Memory.wf _ = true from
    Memory.wf_drop (fun a => decide (chanOf a = c ∧ s.rdN (aDdrInitPtr c) ≤ localOf a ∧ localOf a < n)) w))

theorem State.initRest_ddrWf {s : State} (w : s.ddrWf) : s.initRest.ddrWf := by
  unfold State.initRest
  exact foldl_keeps State.ddrWf _ (fun _ _ w => State.initTo_ddrWf _ _ w) _ _ w

theorem State.initEnd_ddrWf {s : State} (w : s.ddrWf) : s.initEnd.ddrWf := w

theorem State.initDone_ddrWf {s : State} (w : s.ddrWf) : s.initDone.ddrWf := by
  unfold State.initDone
  exact State.ite_ddrWf (State.initEnd_ddrWf (State.initRest_ddrWf w)) w

theorem State.awaitRetry_ddrWf {s : State} (o : Nat) (w : s.ddrWf) : (s.awaitRetry o).ddrWf := by
  have h : State.ddrWf (if s.retiringPage o = true then s.retireDone else s) := State.ite_ddrWf (State.retireDone_ddrWf w) w
  exact State.ite_ddrWf (State.initDone_ddrWf h) h

/-- Writing a range of space 0 through the slices keeps the canonical form of DDR. -/
theorem State.memWrite_ddrWf {s : State} (off : Nat) (data : List Byte) (cls : Nat) (w : s.ddrWf) :
    (s.memWrite off data cls).ddrWf :=
  foldl_keeps State.ddrWf _ (fun _ x w => State.l2Serve_ddrWf _ _ _ _ _ _ _ _ _ _ _ (State.awaitRetry_ddrWf x.1 w)) _ _ w

/-- Writing an image keeps the canonical form of DDR. -/
theorem State.writeImage_ddrWf {s : State} (base len : Nat) (f : Nat → Byte) (w : s.ddrWf) : (s.writeImage base len f).ddrWf :=
  foldl_keeps State.ddrWf _ (fun _ _ w => State.memWrite_ddrWf _ _ _ w) _ _ w

/-- A write through a port keeps the canonical form of a scratchpad. -/
theorem Tile.writeAt_wf {x : Tile} (cs : List (Nat × Byte)) (w : Memory.wf x.spad = true) :
    Memory.wf (x.writeAt cs).spad = true := Memory.wf_foldl _ _ _ w

/-- Replacing a protected word keeps the canonical form of a scratchpad. -/
theorem Tile.putWord32_wf {x : Tile} (st : StrongStore) (a : Nat) (d : List Byte) (w : Memory.wf x.spad = true) :
    Memory.wf (x.putWord32 st a d).spad = true := by
  cases st with
  | spad => exact Memory.wf_foldl _ _ _ w
  | gab => exact w
  | acc m => exact w
  | slath => unfold Tile.putWord32; dsimp only; split <;> exact w
  | pat => exact w

/-- Filling or writing a line keeps the canonical form of its bytes. -/
theorem L2Line.fill_wf {l : L2Line} (h : Nat) (data : List Byte) (poison : Nat) (w : Memory.wf l.data = true) :
    Memory.wf (l.fill h data poison).data = true := by
  unfold L2Line.fill
  dsimp only
  split <;> exact Memory.wf_foldl _ _ _ w

theorem L2Line.store_wf {l : L2Line} (o : Nat) (data : List Byte) (poison : Nat) (w : Memory.wf l.data = true) :
    Memory.wf (l.store o data poison).data = true := Memory.wf_foldl _ _ _ w

/-- The stores of the device after reset are in canonical form. -/
theorem State.reset_wf : State.reset.wf = true := by decide

/-- A stored byte reads back, and no other byte changes. -/
theorem Memory.get_foldl_range {m : List Host.Cell} (off : Nat) (data : List Byte) (n a : Nat) :
    mapGet 0 ((data.zip (List.range' n data.length)).foldl (fun m p => mapPut 0 m (off + p.2) p.1) m) a =
      if off + n ≤ a ∧ a < off + n + data.length then data.getD (a - off - n) 0 else mapGet 0 m a := by
  induction data generalizing m n with
  | nil => simp <;> omega
  | cons x r ih =>
    simp only [List.length_cons, List.range'_succ, List.zip_cons_cons, List.foldl_cons, ih, mapGet_mapPut]
    by_cases h : off + n = a
    · subst h; simp <;> omega
    · by_cases h2 : off + n ≤ a ∧ a < off + n + (r.length + 1)
      · obtain ⟨k, hk⟩ : ∃ k, a - off - n = k + 1 := ⟨a - off - n - 1, by omega⟩
        have : a - off - (n + 1) = k := by omega
        rw [if_pos (by omega), if_pos h2, hk, this, List.getD_cons_succ]
      · rw [if_neg (by omega), if_neg (by omega), if_neg h2]

/-- DDR after a store: the stored bytes at their places, every other byte as before. -/
theorem State.ddr_ddrPut (s : State) (off : Nat) (data : List Byte) (a : Nat) :
    mapGet 0 (s.ddrPut off data).mem.ddr a =
      if off ≤ a ∧ a < off + data.length then data.getD (a - off) 0 else mapGet 0 s.mem.ddr a := by
  have h := Memory.get_foldl_range (m := s.mem.ddr) off data 0 a
  simpa [State.ddrPut, List.range_eq_range'] using h

end Sys2Proof.Machine
end

