-- ==== Sys2Proof/Laws/Registers.lean ====
section
/-! SUPPORT. Laws of the registers: what a register or a field reads after an update of it or of another. -/
namespace Sys2Proof.Machine

theorem bits_lt (v hi lo : Nat) : bits v hi lo < 2 ^ (hi + 1 - lo) := Nat.mod_lt _ (Nat.two_pow_pos _)

theorem testBit_bits (v hi lo i : Nat) : (bits v hi lo).testBit i = (decide (i < hi + 1 - lo) && v.testBit (lo + i)) := by
  simp [bits, Nat.testBit_mod_two_pow, Nat.testBit_shiftRight]

/-- `setBits` on the parts of a number: below, field, above. -/
theorem setBits_eq {hi lo : Nat} (h : lo ≤ hi) (v x : Nat) :
    setBits v hi lo x = v % 2 ^ lo + (x % 2 ^ (hi + 1 - lo)) * 2 ^ lo + (v / 2 ^ (hi + 1)) * 2 ^ (hi + 1) := by
  have e : 2 ^ (hi + 1) = 2 ^ (hi + 1 - lo) * 2 ^ lo := by rw [← Nat.pow_add]; congr 1; omega
  have a : v = v % 2 ^ lo + (v / 2 ^ lo) * 2 ^ lo := by rw [Nat.mul_comm]; exact (Nat.mod_add_div v (2 ^ lo)).symm
  have b : v / 2 ^ lo = bits v hi lo + (v / 2 ^ (hi + 1)) * 2 ^ (hi + 1 - lo) := by
    rw [e, Nat.mul_comm (2 ^ (hi + 1 - lo)), ← Nat.div_div_eq_div_mul, bits, Nat.shiftRight_eq_div_pow, Nat.mul_comm]
    exact (Nat.mod_add_div _ _).symm
  have c : v = v % 2 ^ lo + bits v hi lo * 2 ^ lo + (v / 2 ^ (hi + 1)) * 2 ^ (hi + 1) := by
    refine a.trans ?_
    rw [b, e, Nat.add_mul, Nat.mul_assoc, Nat.add_assoc]
  unfold setBits
  omega

theorem testBit_setBits {hi lo : Nat} (h : lo ≤ hi) (v x i : Nat) :
    (setBits v hi lo x).testBit i = if lo ≤ i ∧ i ≤ hi then x.testBit (i - lo) else v.testBit i := by
  have p1 : v % 2 ^ lo < 2 ^ lo := Nat.mod_lt _ (Nat.two_pow_pos _)
  have p2 : x % 2 ^ (hi + 1 - lo) < 2 ^ (hi + 1 - lo) := Nat.mod_lt _ (Nat.two_pow_pos _)
  have e : 2 ^ (hi + 1) = 2 ^ lo * 2 ^ (hi + 1 - lo) := by rw [← Nat.pow_add]; congr 1; omega
  rw [setBits_eq h]
  have q : v % 2 ^ lo + x % 2 ^ (hi + 1 - lo) * 2 ^ lo + v / 2 ^ (hi + 1) * 2 ^ (hi + 1) =
      2 ^ lo * (2 ^ (hi + 1 - lo) * (v / 2 ^ (hi + 1)) + x % 2 ^ (hi + 1 - lo)) + v % 2 ^ lo := by
    rw [e]; generalize v / _ = a; generalize x % _ = b; generalize v % _ = c; grind
  rw [q, Nat.testBit_two_pow_mul_add _ p1]
  rw [Nat.testBit_two_pow_mul_add _ p2]
  simp only [Nat.testBit_mod_two_pow, Nat.testBit_div_two_pow]
  by_cases h1 : i < lo
  · simp [h1] <;> omega
  · by_cases h2 : i - lo < hi + 1 - lo
    · have : lo ≤ i ∧ i ≤ hi := by omega
      simp [h1, h2, this]
    · have : ¬ (lo ≤ i ∧ i ≤ hi) := by omega
      simp only [h1, h2, this, if_false]
      congr 1; omega
/-- A field reads what was last written to it. -/
theorem bits_setBits_same {hi lo : Nat} (h : lo ≤ hi) (v x : Nat) :
    bits (setBits v hi lo x) hi lo = x % 2 ^ (hi + 1 - lo) := by
  apply Nat.eq_of_testBit_eq
  intro i
  rw [testBit_bits, testBit_setBits h, Nat.testBit_mod_two_pow]
  by_cases q : i < hi + 1 - lo
  · have : lo ≤ lo + i ∧ lo + i ≤ hi := by omega
    simp [q] <;> omega
  · simp [q]

/-- A field write leaves a field outside it alone. -/
theorem bits_setBits_disjoint {hi lo hi' lo' : Nat} (h : lo ≤ hi) (d : hi' < lo ∨ hi < lo') (v x : Nat) :
    bits (setBits v hi lo x) hi' lo' = bits v hi' lo' := by
  apply Nat.eq_of_testBit_eq
  intro i
  rw [testBit_bits, testBit_bits, testBit_setBits h]
  by_cases q : i < hi' + 1 - lo'
  · have : ¬ (lo ≤ lo' + i ∧ lo' + i ≤ hi) := by omega
    simp [q, this]
  · simp [q]

theorem setBits_lt {hi lo n v : Nat} (h : lo ≤ hi) (hn : hi < n) (hv : v < 2 ^ n) (x : Nat) : setBits v hi lo x < 2 ^ n := by
  apply Nat.lt_pow_two_of_testBit
  intro i hi'
  rw [testBit_setBits h, if_neg (by omega)]
  exact Nat.testBit_lt_two_pow (Nat.lt_of_lt_of_le hv (Nat.pow_le_pow_right (by omega) hi'))

/-! ### Registers -/

/-- A register reads what was last written to it, and no write changes another. -/
theorem State.rd_wr (s : State) (a b : Nat) (v : W64) : (s.wr a v).rd b = if b = a then v else s.rd b := by
  simp only [State.rd, State.wr]
  split
  · next h => subst h; exact mapGet_mapPut_same ..
  · next h => exact mapGet_mapPut_ne _ _ _ _ h

theorem State.rdN_wrN (s : State) (a b v : Nat) : (s.wrN a v).rdN b = if b = a then v % 2 ^ 64 else s.rdN b := by
  simp only [State.rdN, State.wrN, State.rd_wr]
  split <;> simp

/-- A field reads what was last written to it. -/
theorem State.getF_setF_same (s : State) (a hi lo x : Nat) (h : lo ≤ hi) (h' : hi < 64) :
    (s.setF a hi lo x).getF a hi lo = x % 2 ^ (hi + 1 - lo) := by
  have := setBits_lt h h' (s.rd a).isLt x
  simp only [State.getF, State.setF, State.rdN_wrN, if_true]
  rw [Nat.mod_eq_of_lt (show setBits (s.rdN a) hi lo x < 2 ^ 64 from this), bits_setBits_same h]

/-- A field write leaves the register's other fields alone. -/
theorem State.getF_setF_disjoint (s : State) (a hi lo hi' lo' x : Nat) (h : lo ≤ hi) (h' : hi < 64)
    (d : hi' < lo ∨ hi < lo') : (s.setF a hi lo x).getF a hi' lo' = s.getF a hi' lo' := by
  have := setBits_lt h h' (s.rd a).isLt x
  simp only [State.getF, State.setF, State.rdN_wrN, if_true]
  rw [Nat.mod_eq_of_lt (show setBits (s.rdN a) hi lo x < 2 ^ 64 from this), bits_setBits_disjoint h d]

/-- A field write leaves every other register alone. -/
theorem State.rdN_setF_ne (s : State) {a b : Nat} (hi lo x : Nat) (h : b ≠ a) : (s.setF a hi lo x).rdN b = s.rdN b := by
  simp [State.setF, State.rdN_wrN, h]

theorem State.getF_setF_ne (s : State) {a b : Nat} (hi lo x hi' lo' : Nat) (h : b ≠ a) :
    (s.setF a hi lo x).getF b hi' lo' = s.getF b hi' lo' := by
  simp only [State.getF, State.rdN_setF_ne s hi lo x h]

theorem State.getF_wrN (s : State) (a b v hi lo : Nat) :
    (s.wrN a v).getF b hi lo = if b = a then bits (v % 2 ^ 64) hi lo else s.getF b hi lo := by
  simp only [State.getF, State.rdN_wrN]
  split <;> rfl

/-- A counter reads one more after a count, modulo 2^64. -/
theorem State.rd_cnt (s : State) (a n b : Nat) : (s.cnt a n).rd b = if b = a then s.rd a + BitVec.ofNat 64 n else s.rd b := by
  simp only [State.cnt, State.rd_wr]

/-- A counter update keeps the registers in canonical form. -/
theorem State.regs_wr_wf {s : State} (a : Nat) (v : W64) (w : mapWf regDefault s.regs = true) :
    mapWf regDefault (s.wr a v).regs = true := mapWf_mapPut a v w

end Sys2Proof.Machine
end

