-- ==== Sys2Proof/Laws/State.lean ====
section
/-! SUPPORT. Laws of the state: what each shared update leaves alone, field by field, and what a reader gets of the
part that an update replaces. -/
namespace Sys2Proof.Machine

/-! ### `State.wr` changes regs only -/

@[simp] theorem State.tiles_wr (s : State) (a : Nat) (v : W64) : (s.wr a v).tiles = s.tiles := rfl
@[simp] theorem State.rims_wr (s : State) (a : Nat) (v : W64) : (s.wr a v).rims = s.rims := rfl
@[simp] theorem State.sync_wr (s : State) (a : Nat) (v : W64) : (s.wr a v).sync = s.sync := rfl
@[simp] theorem State.mem_wr (s : State) (a : Nat) (v : W64) : (s.wr a v).mem = s.mem := rfl
@[simp] theorem State.parts_wr (s : State) (a : Nat) (v : W64) : (s.wr a v).parts = s.parts := rfl
@[simp] theorem State.faults_wr (s : State) (a : Nat) (v : W64) : (s.wr a v).faults = s.faults := rfl
@[simp] theorem State.ports_wr (s : State) (a : Nat) (v : W64) : (s.wr a v).ports = s.ports := rfl
@[simp] theorem State.fab_wr (s : State) (a : Nat) (v : W64) : (s.wr a v).fab = s.fab := rfl
@[simp] theorem State.coll_wr (s : State) (a : Nat) (v : W64) : (s.wr a v).coll = s.coll := rfl
@[simp] theorem State.dbg_wr (s : State) (a : Nat) (v : W64) : (s.wr a v).dbg = s.dbg := rfl
@[simp] theorem State.host_wr (s : State) (a : Nat) (v : W64) : (s.wr a v).host = s.host := rfl
@[simp] theorem State.otp_wr (s : State) (a : Nat) (v : W64) : (s.wr a v).otp = s.otp := rfl
@[simp] theorem State.sec_wr (s : State) (a : Nat) (v : W64) : (s.wr a v).sec = s.sec := rfl
@[simp] theorem State.pwr_wr (s : State) (a : Nat) (v : W64) : (s.wr a v).pwr = s.pwr := rfl
@[simp] theorem State.jtag_wr (s : State) (a : Nat) (v : W64) : (s.wr a v).jtag = s.jtag := rfl
@[simp] theorem State.ready_wr (s : State) (a : Nat) (v : W64) : (s.wr a v).ready = s.ready := rfl
@[simp] theorem State.hoop_wr (s : State) (a : Nat) (v : W64) : (s.wr a v).hoop = s.hoop := rfl
@[simp] theorem State.free_wr (s : State) (a : Nat) (v : W64) : (s.wr a v).free = s.free := rfl
@[simp] theorem State.pending_wr (s : State) (a : Nat) (v : W64) : (s.wr a v).pending = s.pending := rfl

/-! ### `State.wrN` changes regs only -/

@[simp] theorem State.tiles_wrN (s : State) (a v : Nat) : (s.wrN a v).tiles = s.tiles :=
    State.tiles_wr ..
@[simp] theorem State.rims_wrN (s : State) (a v : Nat) : (s.wrN a v).rims = s.rims :=
    State.rims_wr ..
@[simp] theorem State.sync_wrN (s : State) (a v : Nat) : (s.wrN a v).sync = s.sync :=
    State.sync_wr ..
@[simp] theorem State.mem_wrN (s : State) (a v : Nat) : (s.wrN a v).mem = s.mem :=
    State.mem_wr ..
@[simp] theorem State.parts_wrN (s : State) (a v : Nat) : (s.wrN a v).parts = s.parts :=
    State.parts_wr ..
@[simp] theorem State.faults_wrN (s : State) (a v : Nat) : (s.wrN a v).faults = s.faults :=
    State.faults_wr ..
@[simp] theorem State.ports_wrN (s : State) (a v : Nat) : (s.wrN a v).ports = s.ports :=
    State.ports_wr ..
@[simp] theorem State.fab_wrN (s : State) (a v : Nat) : (s.wrN a v).fab = s.fab :=
    State.fab_wr ..
@[simp] theorem State.coll_wrN (s : State) (a v : Nat) : (s.wrN a v).coll = s.coll :=
    State.coll_wr ..
@[simp] theorem State.dbg_wrN (s : State) (a v : Nat) : (s.wrN a v).dbg = s.dbg :=
    State.dbg_wr ..
@[simp] theorem State.host_wrN (s : State) (a v : Nat) : (s.wrN a v).host = s.host :=
    State.host_wr ..
@[simp] theorem State.otp_wrN (s : State) (a v : Nat) : (s.wrN a v).otp = s.otp :=
    State.otp_wr ..
@[simp] theorem State.sec_wrN (s : State) (a v : Nat) : (s.wrN a v).sec = s.sec :=
    State.sec_wr ..
@[simp] theorem State.pwr_wrN (s : State) (a v : Nat) : (s.wrN a v).pwr = s.pwr :=
    State.pwr_wr ..
@[simp] theorem State.jtag_wrN (s : State) (a v : Nat) : (s.wrN a v).jtag = s.jtag :=
    State.jtag_wr ..
@[simp] theorem State.ready_wrN (s : State) (a v : Nat) : (s.wrN a v).ready = s.ready :=
    State.ready_wr ..
@[simp] theorem State.hoop_wrN (s : State) (a v : Nat) : (s.wrN a v).hoop = s.hoop :=
    State.hoop_wr ..
@[simp] theorem State.free_wrN (s : State) (a v : Nat) : (s.wrN a v).free = s.free :=
    State.free_wr ..
@[simp] theorem State.pending_wrN (s : State) (a v : Nat) : (s.wrN a v).pending = s.pending :=
    State.pending_wr ..

/-! ### `State.setF` changes regs only -/

@[simp] theorem State.tiles_setF (s : State) (a hi lo x : Nat) : (s.setF a hi lo x).tiles = s.tiles :=
    State.tiles_wrN ..
@[simp] theorem State.rims_setF (s : State) (a hi lo x : Nat) : (s.setF a hi lo x).rims = s.rims :=
    State.rims_wrN ..
@[simp] theorem State.sync_setF (s : State) (a hi lo x : Nat) : (s.setF a hi lo x).sync = s.sync :=
    State.sync_wrN ..
@[simp] theorem State.mem_setF (s : State) (a hi lo x : Nat) : (s.setF a hi lo x).mem = s.mem :=
    State.mem_wrN ..
@[simp] theorem State.parts_setF (s : State) (a hi lo x : Nat) : (s.setF a hi lo x).parts = s.parts :=
    State.parts_wrN ..
@[simp] theorem State.faults_setF (s : State) (a hi lo x : Nat) : (s.setF a hi lo x).faults = s.faults :=
    State.faults_wrN ..
@[simp] theorem State.ports_setF (s : State) (a hi lo x : Nat) : (s.setF a hi lo x).ports = s.ports :=
    State.ports_wrN ..
@[simp] theorem State.fab_setF (s : State) (a hi lo x : Nat) : (s.setF a hi lo x).fab = s.fab :=
    State.fab_wrN ..
@[simp] theorem State.coll_setF (s : State) (a hi lo x : Nat) : (s.setF a hi lo x).coll = s.coll :=
    State.coll_wrN ..
@[simp] theorem State.dbg_setF (s : State) (a hi lo x : Nat) : (s.setF a hi lo x).dbg = s.dbg :=
    State.dbg_wrN ..
@[simp] theorem State.host_setF (s : State) (a hi lo x : Nat) : (s.setF a hi lo x).host = s.host :=
    State.host_wrN ..
@[simp] theorem State.otp_setF (s : State) (a hi lo x : Nat) : (s.setF a hi lo x).otp = s.otp :=
    State.otp_wrN ..
@[simp] theorem State.sec_setF (s : State) (a hi lo x : Nat) : (s.setF a hi lo x).sec = s.sec :=
    State.sec_wrN ..
@[simp] theorem State.pwr_setF (s : State) (a hi lo x : Nat) : (s.setF a hi lo x).pwr = s.pwr :=
    State.pwr_wrN ..
@[simp] theorem State.jtag_setF (s : State) (a hi lo x : Nat) : (s.setF a hi lo x).jtag = s.jtag :=
    State.jtag_wrN ..
@[simp] theorem State.ready_setF (s : State) (a hi lo x : Nat) : (s.setF a hi lo x).ready = s.ready :=
    State.ready_wrN ..
@[simp] theorem State.hoop_setF (s : State) (a hi lo x : Nat) : (s.setF a hi lo x).hoop = s.hoop :=
    State.hoop_wrN ..
@[simp] theorem State.free_setF (s : State) (a hi lo x : Nat) : (s.setF a hi lo x).free = s.free :=
    State.free_wrN ..
@[simp] theorem State.pending_setF (s : State) (a hi lo x : Nat) : (s.setF a hi lo x).pending = s.pending :=
    State.pending_wrN ..

/-! ### `State.cnt` changes regs only -/

@[simp] theorem State.tiles_cnt (s : State) (a n : Nat) : (s.cnt a n).tiles = s.tiles :=
    State.tiles_wr ..
@[simp] theorem State.rims_cnt (s : State) (a n : Nat) : (s.cnt a n).rims = s.rims :=
    State.rims_wr ..
@[simp] theorem State.sync_cnt (s : State) (a n : Nat) : (s.cnt a n).sync = s.sync :=
    State.sync_wr ..
@[simp] theorem State.mem_cnt (s : State) (a n : Nat) : (s.cnt a n).mem = s.mem :=
    State.mem_wr ..
@[simp] theorem State.parts_cnt (s : State) (a n : Nat) : (s.cnt a n).parts = s.parts :=
    State.parts_wr ..
@[simp] theorem State.faults_cnt (s : State) (a n : Nat) : (s.cnt a n).faults = s.faults :=
    State.faults_wr ..
@[simp] theorem State.ports_cnt (s : State) (a n : Nat) : (s.cnt a n).ports = s.ports :=
    State.ports_wr ..
@[simp] theorem State.fab_cnt (s : State) (a n : Nat) : (s.cnt a n).fab = s.fab :=
    State.fab_wr ..
@[simp] theorem State.coll_cnt (s : State) (a n : Nat) : (s.cnt a n).coll = s.coll :=
    State.coll_wr ..
@[simp] theorem State.dbg_cnt (s : State) (a n : Nat) : (s.cnt a n).dbg = s.dbg :=
    State.dbg_wr ..
@[simp] theorem State.host_cnt (s : State) (a n : Nat) : (s.cnt a n).host = s.host :=
    State.host_wr ..
@[simp] theorem State.otp_cnt (s : State) (a n : Nat) : (s.cnt a n).otp = s.otp :=
    State.otp_wr ..
@[simp] theorem State.sec_cnt (s : State) (a n : Nat) : (s.cnt a n).sec = s.sec :=
    State.sec_wr ..
@[simp] theorem State.pwr_cnt (s : State) (a n : Nat) : (s.cnt a n).pwr = s.pwr :=
    State.pwr_wr ..
@[simp] theorem State.jtag_cnt (s : State) (a n : Nat) : (s.cnt a n).jtag = s.jtag :=
    State.jtag_wr ..
@[simp] theorem State.ready_cnt (s : State) (a n : Nat) : (s.cnt a n).ready = s.ready :=
    State.ready_wr ..
@[simp] theorem State.hoop_cnt (s : State) (a n : Nat) : (s.cnt a n).hoop = s.hoop :=
    State.hoop_wr ..
@[simp] theorem State.free_cnt (s : State) (a n : Nat) : (s.cnt a n).free = s.free :=
    State.free_wr ..
@[simp] theorem State.pending_cnt (s : State) (a n : Nat) : (s.cnt a n).pending = s.pending :=
    State.pending_wr ..

/-! ### `State.resetRegs` changes regs only -/

@[simp] theorem State.tiles_resetRegs (s : State) (lo hi : Nat) : (s.resetRegs lo hi).tiles = s.tiles := rfl
@[simp] theorem State.rims_resetRegs (s : State) (lo hi : Nat) : (s.resetRegs lo hi).rims = s.rims := rfl
@[simp] theorem State.sync_resetRegs (s : State) (lo hi : Nat) : (s.resetRegs lo hi).sync = s.sync := rfl
@[simp] theorem State.mem_resetRegs (s : State) (lo hi : Nat) : (s.resetRegs lo hi).mem = s.mem := rfl
@[simp] theorem State.parts_resetRegs (s : State) (lo hi : Nat) : (s.resetRegs lo hi).parts = s.parts := rfl
@[simp] theorem State.faults_resetRegs (s : State) (lo hi : Nat) : (s.resetRegs lo hi).faults = s.faults := rfl
@[simp] theorem State.ports_resetRegs (s : State) (lo hi : Nat) : (s.resetRegs lo hi).ports = s.ports := rfl
@[simp] theorem State.fab_resetRegs (s : State) (lo hi : Nat) : (s.resetRegs lo hi).fab = s.fab := rfl
@[simp] theorem State.coll_resetRegs (s : State) (lo hi : Nat) : (s.resetRegs lo hi).coll = s.coll := rfl
@[simp] theorem State.dbg_resetRegs (s : State) (lo hi : Nat) : (s.resetRegs lo hi).dbg = s.dbg := rfl
@[simp] theorem State.host_resetRegs (s : State) (lo hi : Nat) : (s.resetRegs lo hi).host = s.host := rfl
@[simp] theorem State.otp_resetRegs (s : State) (lo hi : Nat) : (s.resetRegs lo hi).otp = s.otp := rfl
@[simp] theorem State.sec_resetRegs (s : State) (lo hi : Nat) : (s.resetRegs lo hi).sec = s.sec := rfl
@[simp] theorem State.pwr_resetRegs (s : State) (lo hi : Nat) : (s.resetRegs lo hi).pwr = s.pwr := rfl
@[simp] theorem State.jtag_resetRegs (s : State) (lo hi : Nat) : (s.resetRegs lo hi).jtag = s.jtag := rfl
@[simp] theorem State.ready_resetRegs (s : State) (lo hi : Nat) : (s.resetRegs lo hi).ready = s.ready := rfl
@[simp] theorem State.hoop_resetRegs (s : State) (lo hi : Nat) : (s.resetRegs lo hi).hoop = s.hoop := rfl
@[simp] theorem State.free_resetRegs (s : State) (lo hi : Nat) : (s.resetRegs lo hi).free = s.free := rfl
@[simp] theorem State.pending_resetRegs (s : State) (lo hi : Nat) : (s.resetRegs lo hi).pending = s.pending := rfl

/-! ### `State.setSq` changes regs only -/

@[simp] theorem State.tiles_setSq (s : State) (t st c : Nat) : (s.setSq t st c).tiles = s.tiles :=
    (State.tiles_setF ..).trans (State.tiles_setF ..)
@[simp] theorem State.rims_setSq (s : State) (t st c : Nat) : (s.setSq t st c).rims = s.rims :=
    (State.rims_setF ..).trans (State.rims_setF ..)
@[simp] theorem State.sync_setSq (s : State) (t st c : Nat) : (s.setSq t st c).sync = s.sync :=
    (State.sync_setF ..).trans (State.sync_setF ..)
@[simp] theorem State.mem_setSq (s : State) (t st c : Nat) : (s.setSq t st c).mem = s.mem :=
    (State.mem_setF ..).trans (State.mem_setF ..)
@[simp] theorem State.parts_setSq (s : State) (t st c : Nat) : (s.setSq t st c).parts = s.parts :=
    (State.parts_setF ..).trans (State.parts_setF ..)
@[simp] theorem State.faults_setSq (s : State) (t st c : Nat) : (s.setSq t st c).faults = s.faults :=
    (State.faults_setF ..).trans (State.faults_setF ..)
@[simp] theorem State.ports_setSq (s : State) (t st c : Nat) : (s.setSq t st c).ports = s.ports :=
    (State.ports_setF ..).trans (State.ports_setF ..)
@[simp] theorem State.fab_setSq (s : State) (t st c : Nat) : (s.setSq t st c).fab = s.fab :=
    (State.fab_setF ..).trans (State.fab_setF ..)
@[simp] theorem State.coll_setSq (s : State) (t st c : Nat) : (s.setSq t st c).coll = s.coll :=
    (State.coll_setF ..).trans (State.coll_setF ..)
@[simp] theorem State.dbg_setSq (s : State) (t st c : Nat) : (s.setSq t st c).dbg = s.dbg :=
    (State.dbg_setF ..).trans (State.dbg_setF ..)
@[simp] theorem State.host_setSq (s : State) (t st c : Nat) : (s.setSq t st c).host = s.host :=
    (State.host_setF ..).trans (State.host_setF ..)
@[simp] theorem State.otp_setSq (s : State) (t st c : Nat) : (s.setSq t st c).otp = s.otp :=
    (State.otp_setF ..).trans (State.otp_setF ..)
@[simp] theorem State.sec_setSq (s : State) (t st c : Nat) : (s.setSq t st c).sec = s.sec :=
    (State.sec_setF ..).trans (State.sec_setF ..)
@[simp] theorem State.pwr_setSq (s : State) (t st c : Nat) : (s.setSq t st c).pwr = s.pwr :=
    (State.pwr_setF ..).trans (State.pwr_setF ..)
@[simp] theorem State.jtag_setSq (s : State) (t st c : Nat) : (s.setSq t st c).jtag = s.jtag :=
    (State.jtag_setF ..).trans (State.jtag_setF ..)
@[simp] theorem State.ready_setSq (s : State) (t st c : Nat) : (s.setSq t st c).ready = s.ready :=
    (State.ready_setF ..).trans (State.ready_setF ..)
@[simp] theorem State.hoop_setSq (s : State) (t st c : Nat) : (s.setSq t st c).hoop = s.hoop :=
    (State.hoop_setF ..).trans (State.hoop_setF ..)
@[simp] theorem State.free_setSq (s : State) (t st c : Nat) : (s.setSq t st c).free = s.free :=
    (State.free_setF ..).trans (State.free_setF ..)
@[simp] theorem State.pending_setSq (s : State) (t st c : Nat) : (s.setSq t st c).pending = s.pending :=
    (State.pending_setF ..).trans (State.pending_setF ..)

/-! ### `State.setSreg` changes regs only -/

@[simp] theorem State.tiles_setSreg (s : State) (t n v : Nat) : (s.setSreg t n v).tiles = s.tiles := by
  unfold State.setSreg; split <;> simp only [State.tiles_wrN]
@[simp] theorem State.rims_setSreg (s : State) (t n v : Nat) : (s.setSreg t n v).rims = s.rims := by
  unfold State.setSreg; split <;> simp only [State.rims_wrN]
@[simp] theorem State.sync_setSreg (s : State) (t n v : Nat) : (s.setSreg t n v).sync = s.sync := by
  unfold State.setSreg; split <;> simp only [State.sync_wrN]
@[simp] theorem State.mem_setSreg (s : State) (t n v : Nat) : (s.setSreg t n v).mem = s.mem := by
  unfold State.setSreg; split <;> simp only [State.mem_wrN]
@[simp] theorem State.parts_setSreg (s : State) (t n v : Nat) : (s.setSreg t n v).parts = s.parts := by
  unfold State.setSreg; split <;> simp only [State.parts_wrN]
@[simp] theorem State.faults_setSreg (s : State) (t n v : Nat) : (s.setSreg t n v).faults = s.faults := by
  unfold State.setSreg; split <;> simp only [State.faults_wrN]
@[simp] theorem State.ports_setSreg (s : State) (t n v : Nat) : (s.setSreg t n v).ports = s.ports := by
  unfold State.setSreg; split <;> simp only [State.ports_wrN]
@[simp] theorem State.fab_setSreg (s : State) (t n v : Nat) : (s.setSreg t n v).fab = s.fab := by
  unfold State.setSreg; split <;> simp only [State.fab_wrN]
@[simp] theorem State.coll_setSreg (s : State) (t n v : Nat) : (s.setSreg t n v).coll = s.coll := by
  unfold State.setSreg; split <;> simp only [State.coll_wrN]
@[simp] theorem State.dbg_setSreg (s : State) (t n v : Nat) : (s.setSreg t n v).dbg = s.dbg := by
  unfold State.setSreg; split <;> simp only [State.dbg_wrN]
@[simp] theorem State.host_setSreg (s : State) (t n v : Nat) : (s.setSreg t n v).host = s.host := by
  unfold State.setSreg; split <;> simp only [State.host_wrN]
@[simp] theorem State.otp_setSreg (s : State) (t n v : Nat) : (s.setSreg t n v).otp = s.otp := by
  unfold State.setSreg; split <;> simp only [State.otp_wrN]
@[simp] theorem State.sec_setSreg (s : State) (t n v : Nat) : (s.setSreg t n v).sec = s.sec := by
  unfold State.setSreg; split <;> simp only [State.sec_wrN]
@[simp] theorem State.pwr_setSreg (s : State) (t n v : Nat) : (s.setSreg t n v).pwr = s.pwr := by
  unfold State.setSreg; split <;> simp only [State.pwr_wrN]
@[simp] theorem State.jtag_setSreg (s : State) (t n v : Nat) : (s.setSreg t n v).jtag = s.jtag := by
  unfold State.setSreg; split <;> simp only [State.jtag_wrN]
@[simp] theorem State.ready_setSreg (s : State) (t n v : Nat) : (s.setSreg t n v).ready = s.ready := by
  unfold State.setSreg; split <;> simp only [State.ready_wrN]
@[simp] theorem State.hoop_setSreg (s : State) (t n v : Nat) : (s.setSreg t n v).hoop = s.hoop := by
  unfold State.setSreg; split <;> simp only [State.hoop_wrN]
@[simp] theorem State.free_setSreg (s : State) (t n v : Nat) : (s.setSreg t n v).free = s.free := by
  unfold State.setSreg; split <;> simp only [State.free_wrN]
@[simp] theorem State.pending_setSreg (s : State) (t n v : Nat) : (s.setSreg t n v).pending = s.pending := by
  unfold State.setSreg; split <;> simp only [State.pending_wrN]

/-! ### `State.post` changes rims only -/

@[simp] theorem State.regs_post (s : State) (k c e a : Nat) : (s.post k c e a).regs = s.regs := rfl
@[simp] theorem State.tiles_post (s : State) (k c e a : Nat) : (s.post k c e a).tiles = s.tiles := rfl
@[simp] theorem State.sync_post (s : State) (k c e a : Nat) : (s.post k c e a).sync = s.sync := rfl
@[simp] theorem State.mem_post (s : State) (k c e a : Nat) : (s.post k c e a).mem = s.mem := rfl
@[simp] theorem State.parts_post (s : State) (k c e a : Nat) : (s.post k c e a).parts = s.parts := rfl
@[simp] theorem State.faults_post (s : State) (k c e a : Nat) : (s.post k c e a).faults = s.faults := rfl
@[simp] theorem State.ports_post (s : State) (k c e a : Nat) : (s.post k c e a).ports = s.ports := rfl
@[simp] theorem State.fab_post (s : State) (k c e a : Nat) : (s.post k c e a).fab = s.fab := rfl
@[simp] theorem State.coll_post (s : State) (k c e a : Nat) : (s.post k c e a).coll = s.coll := rfl
@[simp] theorem State.dbg_post (s : State) (k c e a : Nat) : (s.post k c e a).dbg = s.dbg := rfl
@[simp] theorem State.host_post (s : State) (k c e a : Nat) : (s.post k c e a).host = s.host := rfl
@[simp] theorem State.otp_post (s : State) (k c e a : Nat) : (s.post k c e a).otp = s.otp := rfl
@[simp] theorem State.sec_post (s : State) (k c e a : Nat) : (s.post k c e a).sec = s.sec := rfl
@[simp] theorem State.pwr_post (s : State) (k c e a : Nat) : (s.post k c e a).pwr = s.pwr := rfl
@[simp] theorem State.jtag_post (s : State) (k c e a : Nat) : (s.post k c e a).jtag = s.jtag := rfl
@[simp] theorem State.ready_post (s : State) (k c e a : Nat) : (s.post k c e a).ready = s.ready := rfl
@[simp] theorem State.hoop_post (s : State) (k c e a : Nat) : (s.post k c e a).hoop = s.hoop := rfl
@[simp] theorem State.free_post (s : State) (k c e a : Nat) : (s.post k c e a).free = s.free := rfl
@[simp] theorem State.pending_post (s : State) (k c e a : Nat) : (s.post k c e a).pending = s.pending := rfl

/-! ### `State.postMp` changes rims only -/

@[simp] theorem State.regs_postMp (s : State) (c e a : Nat) : (s.postMp c e a).regs = s.regs :=
    State.regs_post ..
@[simp] theorem State.tiles_postMp (s : State) (c e a : Nat) : (s.postMp c e a).tiles = s.tiles :=
    State.tiles_post ..
@[simp] theorem State.sync_postMp (s : State) (c e a : Nat) : (s.postMp c e a).sync = s.sync :=
    State.sync_post ..
@[simp] theorem State.mem_postMp (s : State) (c e a : Nat) : (s.postMp c e a).mem = s.mem :=
    State.mem_post ..
@[simp] theorem State.parts_postMp (s : State) (c e a : Nat) : (s.postMp c e a).parts = s.parts :=
    State.parts_post ..
@[simp] theorem State.faults_postMp (s : State) (c e a : Nat) : (s.postMp c e a).faults = s.faults :=
    State.faults_post ..
@[simp] theorem State.ports_postMp (s : State) (c e a : Nat) : (s.postMp c e a).ports = s.ports :=
    State.ports_post ..
@[simp] theorem State.fab_postMp (s : State) (c e a : Nat) : (s.postMp c e a).fab = s.fab :=
    State.fab_post ..
@[simp] theorem State.coll_postMp (s : State) (c e a : Nat) : (s.postMp c e a).coll = s.coll :=
    State.coll_post ..
@[simp] theorem State.dbg_postMp (s : State) (c e a : Nat) : (s.postMp c e a).dbg = s.dbg :=
    State.dbg_post ..
@[simp] theorem State.host_postMp (s : State) (c e a : Nat) : (s.postMp c e a).host = s.host :=
    State.host_post ..
@[simp] theorem State.otp_postMp (s : State) (c e a : Nat) : (s.postMp c e a).otp = s.otp :=
    State.otp_post ..
@[simp] theorem State.sec_postMp (s : State) (c e a : Nat) : (s.postMp c e a).sec = s.sec :=
    State.sec_post ..
@[simp] theorem State.pwr_postMp (s : State) (c e a : Nat) : (s.postMp c e a).pwr = s.pwr :=
    State.pwr_post ..
@[simp] theorem State.jtag_postMp (s : State) (c e a : Nat) : (s.postMp c e a).jtag = s.jtag :=
    State.jtag_post ..
@[simp] theorem State.ready_postMp (s : State) (c e a : Nat) : (s.postMp c e a).ready = s.ready :=
    State.ready_post ..
@[simp] theorem State.hoop_postMp (s : State) (c e a : Nat) : (s.postMp c e a).hoop = s.hoop :=
    State.hoop_post ..
@[simp] theorem State.free_postMp (s : State) (c e a : Nat) : (s.postMp c e a).free = s.free :=
    State.free_post ..
@[simp] theorem State.pending_postMp (s : State) (c e a : Nat) : (s.postMp c e a).pending = s.pending :=
    State.pending_post ..

/-! ### `State.setTile` changes tiles only -/

@[simp] theorem State.regs_setTile (s : State) (t : Nat) (x : Tile) : (s.setTile t x).regs = s.regs := rfl
@[simp] theorem State.rims_setTile (s : State) (t : Nat) (x : Tile) : (s.setTile t x).rims = s.rims := rfl
@[simp] theorem State.sync_setTile (s : State) (t : Nat) (x : Tile) : (s.setTile t x).sync = s.sync := rfl
@[simp] theorem State.mem_setTile (s : State) (t : Nat) (x : Tile) : (s.setTile t x).mem = s.mem := rfl
@[simp] theorem State.parts_setTile (s : State) (t : Nat) (x : Tile) : (s.setTile t x).parts = s.parts := rfl
@[simp] theorem State.faults_setTile (s : State) (t : Nat) (x : Tile) : (s.setTile t x).faults = s.faults := rfl
@[simp] theorem State.ports_setTile (s : State) (t : Nat) (x : Tile) : (s.setTile t x).ports = s.ports := rfl
@[simp] theorem State.fab_setTile (s : State) (t : Nat) (x : Tile) : (s.setTile t x).fab = s.fab := rfl
@[simp] theorem State.coll_setTile (s : State) (t : Nat) (x : Tile) : (s.setTile t x).coll = s.coll := rfl
@[simp] theorem State.dbg_setTile (s : State) (t : Nat) (x : Tile) : (s.setTile t x).dbg = s.dbg := rfl
@[simp] theorem State.host_setTile (s : State) (t : Nat) (x : Tile) : (s.setTile t x).host = s.host := rfl
@[simp] theorem State.otp_setTile (s : State) (t : Nat) (x : Tile) : (s.setTile t x).otp = s.otp := rfl
@[simp] theorem State.sec_setTile (s : State) (t : Nat) (x : Tile) : (s.setTile t x).sec = s.sec := rfl
@[simp] theorem State.pwr_setTile (s : State) (t : Nat) (x : Tile) : (s.setTile t x).pwr = s.pwr := rfl
@[simp] theorem State.jtag_setTile (s : State) (t : Nat) (x : Tile) : (s.setTile t x).jtag = s.jtag := rfl
@[simp] theorem State.ready_setTile (s : State) (t : Nat) (x : Tile) : (s.setTile t x).ready = s.ready := rfl
@[simp] theorem State.hoop_setTile (s : State) (t : Nat) (x : Tile) : (s.setTile t x).hoop = s.hoop := rfl
@[simp] theorem State.free_setTile (s : State) (t : Nat) (x : Tile) : (s.setTile t x).free = s.free := rfl
@[simp] theorem State.pending_setTile (s : State) (t : Nat) (x : Tile) : (s.setTile t x).pending = s.pending := rfl

/-! ### `State.onTile` changes tiles only -/

@[simp] theorem State.regs_onTile (s : State) (t : Nat) (f : Tile → Tile) : (s.onTile t f).regs = s.regs :=
    State.regs_setTile ..
@[simp] theorem State.rims_onTile (s : State) (t : Nat) (f : Tile → Tile) : (s.onTile t f).rims = s.rims :=
    State.rims_setTile ..
@[simp] theorem State.sync_onTile (s : State) (t : Nat) (f : Tile → Tile) : (s.onTile t f).sync = s.sync :=
    State.sync_setTile ..
@[simp] theorem State.mem_onTile (s : State) (t : Nat) (f : Tile → Tile) : (s.onTile t f).mem = s.mem :=
    State.mem_setTile ..
@[simp] theorem State.parts_onTile (s : State) (t : Nat) (f : Tile → Tile) : (s.onTile t f).parts = s.parts :=
    State.parts_setTile ..
@[simp] theorem State.faults_onTile (s : State) (t : Nat) (f : Tile → Tile) : (s.onTile t f).faults = s.faults :=
    State.faults_setTile ..
@[simp] theorem State.ports_onTile (s : State) (t : Nat) (f : Tile → Tile) : (s.onTile t f).ports = s.ports :=
    State.ports_setTile ..
@[simp] theorem State.fab_onTile (s : State) (t : Nat) (f : Tile → Tile) : (s.onTile t f).fab = s.fab :=
    State.fab_setTile ..
@[simp] theorem State.coll_onTile (s : State) (t : Nat) (f : Tile → Tile) : (s.onTile t f).coll = s.coll :=
    State.coll_setTile ..
@[simp] theorem State.dbg_onTile (s : State) (t : Nat) (f : Tile → Tile) : (s.onTile t f).dbg = s.dbg :=
    State.dbg_setTile ..
@[simp] theorem State.host_onTile (s : State) (t : Nat) (f : Tile → Tile) : (s.onTile t f).host = s.host :=
    State.host_setTile ..
@[simp] theorem State.otp_onTile (s : State) (t : Nat) (f : Tile → Tile) : (s.onTile t f).otp = s.otp :=
    State.otp_setTile ..
@[simp] theorem State.sec_onTile (s : State) (t : Nat) (f : Tile → Tile) : (s.onTile t f).sec = s.sec :=
    State.sec_setTile ..
@[simp] theorem State.pwr_onTile (s : State) (t : Nat) (f : Tile → Tile) : (s.onTile t f).pwr = s.pwr :=
    State.pwr_setTile ..
@[simp] theorem State.jtag_onTile (s : State) (t : Nat) (f : Tile → Tile) : (s.onTile t f).jtag = s.jtag :=
    State.jtag_setTile ..
@[simp] theorem State.ready_onTile (s : State) (t : Nat) (f : Tile → Tile) : (s.onTile t f).ready = s.ready :=
    State.ready_setTile ..
@[simp] theorem State.hoop_onTile (s : State) (t : Nat) (f : Tile → Tile) : (s.onTile t f).hoop = s.hoop :=
    State.hoop_setTile ..
@[simp] theorem State.free_onTile (s : State) (t : Nat) (f : Tile → Tile) : (s.onTile t f).free = s.free :=
    State.free_setTile ..
@[simp] theorem State.pending_onTile (s : State) (t : Nat) (f : Tile → Tile) : (s.onTile t f).pending = s.pending :=
    State.pending_setTile ..

/-! ### `State.onSeq` changes tiles only -/

@[simp] theorem State.regs_onSeq (s : State) (t : Nat) (f : SeqState → SeqState) : (s.onSeq t f).regs = s.regs :=
    State.regs_onTile ..
@[simp] theorem State.rims_onSeq (s : State) (t : Nat) (f : SeqState → SeqState) : (s.onSeq t f).rims = s.rims :=
    State.rims_onTile ..
@[simp] theorem State.sync_onSeq (s : State) (t : Nat) (f : SeqState → SeqState) : (s.onSeq t f).sync = s.sync :=
    State.sync_onTile ..
@[simp] theorem State.mem_onSeq (s : State) (t : Nat) (f : SeqState → SeqState) : (s.onSeq t f).mem = s.mem :=
    State.mem_onTile ..
@[simp] theorem State.parts_onSeq (s : State) (t : Nat) (f : SeqState → SeqState) : (s.onSeq t f).parts = s.parts :=
    State.parts_onTile ..
@[simp] theorem State.faults_onSeq (s : State) (t : Nat) (f : SeqState → SeqState) :
    (s.onSeq t f).faults = s.faults :=
    State.faults_onTile ..
@[simp] theorem State.ports_onSeq (s : State) (t : Nat) (f : SeqState → SeqState) : (s.onSeq t f).ports = s.ports :=
    State.ports_onTile ..
@[simp] theorem State.fab_onSeq (s : State) (t : Nat) (f : SeqState → SeqState) : (s.onSeq t f).fab = s.fab :=
    State.fab_onTile ..
@[simp] theorem State.coll_onSeq (s : State) (t : Nat) (f : SeqState → SeqState) : (s.onSeq t f).coll = s.coll :=
    State.coll_onTile ..
@[simp] theorem State.dbg_onSeq (s : State) (t : Nat) (f : SeqState → SeqState) : (s.onSeq t f).dbg = s.dbg :=
    State.dbg_onTile ..
@[simp] theorem State.host_onSeq (s : State) (t : Nat) (f : SeqState → SeqState) : (s.onSeq t f).host = s.host :=
    State.host_onTile ..
@[simp] theorem State.otp_onSeq (s : State) (t : Nat) (f : SeqState → SeqState) : (s.onSeq t f).otp = s.otp :=
    State.otp_onTile ..
@[simp] theorem State.sec_onSeq (s : State) (t : Nat) (f : SeqState → SeqState) : (s.onSeq t f).sec = s.sec :=
    State.sec_onTile ..
@[simp] theorem State.pwr_onSeq (s : State) (t : Nat) (f : SeqState → SeqState) : (s.onSeq t f).pwr = s.pwr :=
    State.pwr_onTile ..
@[simp] theorem State.jtag_onSeq (s : State) (t : Nat) (f : SeqState → SeqState) : (s.onSeq t f).jtag = s.jtag :=
    State.jtag_onTile ..
@[simp] theorem State.ready_onSeq (s : State) (t : Nat) (f : SeqState → SeqState) : (s.onSeq t f).ready = s.ready :=
    State.ready_onTile ..
@[simp] theorem State.hoop_onSeq (s : State) (t : Nat) (f : SeqState → SeqState) : (s.onSeq t f).hoop = s.hoop :=
    State.hoop_onTile ..
@[simp] theorem State.free_onSeq (s : State) (t : Nat) (f : SeqState → SeqState) : (s.onSeq t f).free = s.free :=
    State.free_onTile ..
@[simp] theorem State.pending_onSeq (s : State) (t : Nat) (f : SeqState → SeqState) :
    (s.onSeq t f).pending = s.pending :=
    State.pending_onTile ..

/-! ### `State.onArray` changes tiles only -/

@[simp] theorem State.regs_onArray (s : State) (t m : Nat) (f : ArrayState → ArrayState) :
    (s.onArray t m f).regs = s.regs :=
    State.regs_onTile ..
@[simp] theorem State.rims_onArray (s : State) (t m : Nat) (f : ArrayState → ArrayState) :
    (s.onArray t m f).rims = s.rims :=
    State.rims_onTile ..
@[simp] theorem State.sync_onArray (s : State) (t m : Nat) (f : ArrayState → ArrayState) :
    (s.onArray t m f).sync = s.sync :=
    State.sync_onTile ..
@[simp] theorem State.mem_onArray (s : State) (t m : Nat) (f : ArrayState → ArrayState) :
    (s.onArray t m f).mem = s.mem :=
    State.mem_onTile ..
@[simp] theorem State.parts_onArray (s : State) (t m : Nat) (f : ArrayState → ArrayState) :
    (s.onArray t m f).parts = s.parts :=
    State.parts_onTile ..
@[simp] theorem State.faults_onArray (s : State) (t m : Nat) (f : ArrayState → ArrayState) :
    (s.onArray t m f).faults = s.faults :=
    State.faults_onTile ..
@[simp] theorem State.ports_onArray (s : State) (t m : Nat) (f : ArrayState → ArrayState) :
    (s.onArray t m f).ports = s.ports :=
    State.ports_onTile ..
@[simp] theorem State.fab_onArray (s : State) (t m : Nat) (f : ArrayState → ArrayState) :
    (s.onArray t m f).fab = s.fab :=
    State.fab_onTile ..
@[simp] theorem State.coll_onArray (s : State) (t m : Nat) (f : ArrayState → ArrayState) :
    (s.onArray t m f).coll = s.coll :=
    State.coll_onTile ..
@[simp] theorem State.dbg_onArray (s : State) (t m : Nat) (f : ArrayState → ArrayState) :
    (s.onArray t m f).dbg = s.dbg :=
    State.dbg_onTile ..
@[simp] theorem State.host_onArray (s : State) (t m : Nat) (f : ArrayState → ArrayState) :
    (s.onArray t m f).host = s.host :=
    State.host_onTile ..
@[simp] theorem State.otp_onArray (s : State) (t m : Nat) (f : ArrayState → ArrayState) :
    (s.onArray t m f).otp = s.otp :=
    State.otp_onTile ..
@[simp] theorem State.sec_onArray (s : State) (t m : Nat) (f : ArrayState → ArrayState) :
    (s.onArray t m f).sec = s.sec :=
    State.sec_onTile ..
@[simp] theorem State.pwr_onArray (s : State) (t m : Nat) (f : ArrayState → ArrayState) :
    (s.onArray t m f).pwr = s.pwr :=
    State.pwr_onTile ..
@[simp] theorem State.jtag_onArray (s : State) (t m : Nat) (f : ArrayState → ArrayState) :
    (s.onArray t m f).jtag = s.jtag :=
    State.jtag_onTile ..
@[simp] theorem State.ready_onArray (s : State) (t m : Nat) (f : ArrayState → ArrayState) :
    (s.onArray t m f).ready = s.ready :=
    State.ready_onTile ..
@[simp] theorem State.hoop_onArray (s : State) (t m : Nat) (f : ArrayState → ArrayState) :
    (s.onArray t m f).hoop = s.hoop :=
    State.hoop_onTile ..
@[simp] theorem State.free_onArray (s : State) (t m : Nat) (f : ArrayState → ArrayState) :
    (s.onArray t m f).free = s.free :=
    State.free_onTile ..
@[simp] theorem State.pending_onArray (s : State) (t m : Nat) (f : ArrayState → ArrayState) :
    (s.onArray t m f).pending = s.pending :=
    State.pending_onTile ..

/-! ### `State.onVe` changes tiles only -/

@[simp] theorem State.regs_onVe (s : State) (t : Nat) (f : VeState → VeState) : (s.onVe t f).regs = s.regs :=
    State.regs_onTile ..
@[simp] theorem State.rims_onVe (s : State) (t : Nat) (f : VeState → VeState) : (s.onVe t f).rims = s.rims :=
    State.rims_onTile ..
@[simp] theorem State.sync_onVe (s : State) (t : Nat) (f : VeState → VeState) : (s.onVe t f).sync = s.sync :=
    State.sync_onTile ..
@[simp] theorem State.mem_onVe (s : State) (t : Nat) (f : VeState → VeState) : (s.onVe t f).mem = s.mem :=
    State.mem_onTile ..
@[simp] theorem State.parts_onVe (s : State) (t : Nat) (f : VeState → VeState) : (s.onVe t f).parts = s.parts :=
    State.parts_onTile ..
@[simp] theorem State.faults_onVe (s : State) (t : Nat) (f : VeState → VeState) : (s.onVe t f).faults = s.faults :=
    State.faults_onTile ..
@[simp] theorem State.ports_onVe (s : State) (t : Nat) (f : VeState → VeState) : (s.onVe t f).ports = s.ports :=
    State.ports_onTile ..
@[simp] theorem State.fab_onVe (s : State) (t : Nat) (f : VeState → VeState) : (s.onVe t f).fab = s.fab :=
    State.fab_onTile ..
@[simp] theorem State.coll_onVe (s : State) (t : Nat) (f : VeState → VeState) : (s.onVe t f).coll = s.coll :=
    State.coll_onTile ..
@[simp] theorem State.dbg_onVe (s : State) (t : Nat) (f : VeState → VeState) : (s.onVe t f).dbg = s.dbg :=
    State.dbg_onTile ..
@[simp] theorem State.host_onVe (s : State) (t : Nat) (f : VeState → VeState) : (s.onVe t f).host = s.host :=
    State.host_onTile ..
@[simp] theorem State.otp_onVe (s : State) (t : Nat) (f : VeState → VeState) : (s.onVe t f).otp = s.otp :=
    State.otp_onTile ..
@[simp] theorem State.sec_onVe (s : State) (t : Nat) (f : VeState → VeState) : (s.onVe t f).sec = s.sec :=
    State.sec_onTile ..
@[simp] theorem State.pwr_onVe (s : State) (t : Nat) (f : VeState → VeState) : (s.onVe t f).pwr = s.pwr :=
    State.pwr_onTile ..
@[simp] theorem State.jtag_onVe (s : State) (t : Nat) (f : VeState → VeState) : (s.onVe t f).jtag = s.jtag :=
    State.jtag_onTile ..
@[simp] theorem State.ready_onVe (s : State) (t : Nat) (f : VeState → VeState) : (s.onVe t f).ready = s.ready :=
    State.ready_onTile ..
@[simp] theorem State.hoop_onVe (s : State) (t : Nat) (f : VeState → VeState) : (s.onVe t f).hoop = s.hoop :=
    State.hoop_onTile ..
@[simp] theorem State.free_onVe (s : State) (t : Nat) (f : VeState → VeState) : (s.onVe t f).free = s.free :=
    State.free_onTile ..
@[simp] theorem State.pending_onVe (s : State) (t : Nat) (f : VeState → VeState) : (s.onVe t f).pending = s.pending :=
    State.pending_onTile ..

/-! ### `State.setCtx` changes tiles and regs only -/

@[simp] theorem State.rims_setCtx (s : State) (t c : Nat) (k : SeCtx) : (s.setCtx t c k).rims = s.rims :=
    (State.rims_setF ..).trans (State.rims_onTile ..)
@[simp] theorem State.sync_setCtx (s : State) (t c : Nat) (k : SeCtx) : (s.setCtx t c k).sync = s.sync :=
    (State.sync_setF ..).trans (State.sync_onTile ..)
@[simp] theorem State.mem_setCtx (s : State) (t c : Nat) (k : SeCtx) : (s.setCtx t c k).mem = s.mem :=
    (State.mem_setF ..).trans (State.mem_onTile ..)
@[simp] theorem State.parts_setCtx (s : State) (t c : Nat) (k : SeCtx) : (s.setCtx t c k).parts = s.parts :=
    (State.parts_setF ..).trans (State.parts_onTile ..)
@[simp] theorem State.faults_setCtx (s : State) (t c : Nat) (k : SeCtx) : (s.setCtx t c k).faults = s.faults :=
    (State.faults_setF ..).trans (State.faults_onTile ..)
@[simp] theorem State.ports_setCtx (s : State) (t c : Nat) (k : SeCtx) : (s.setCtx t c k).ports = s.ports :=
    (State.ports_setF ..).trans (State.ports_onTile ..)
@[simp] theorem State.fab_setCtx (s : State) (t c : Nat) (k : SeCtx) : (s.setCtx t c k).fab = s.fab :=
    (State.fab_setF ..).trans (State.fab_onTile ..)
@[simp] theorem State.coll_setCtx (s : State) (t c : Nat) (k : SeCtx) : (s.setCtx t c k).coll = s.coll :=
    (State.coll_setF ..).trans (State.coll_onTile ..)
@[simp] theorem State.dbg_setCtx (s : State) (t c : Nat) (k : SeCtx) : (s.setCtx t c k).dbg = s.dbg :=
    (State.dbg_setF ..).trans (State.dbg_onTile ..)
@[simp] theorem State.host_setCtx (s : State) (t c : Nat) (k : SeCtx) : (s.setCtx t c k).host = s.host :=
    (State.host_setF ..).trans (State.host_onTile ..)
@[simp] theorem State.otp_setCtx (s : State) (t c : Nat) (k : SeCtx) : (s.setCtx t c k).otp = s.otp :=
    (State.otp_setF ..).trans (State.otp_onTile ..)
@[simp] theorem State.sec_setCtx (s : State) (t c : Nat) (k : SeCtx) : (s.setCtx t c k).sec = s.sec :=
    (State.sec_setF ..).trans (State.sec_onTile ..)
@[simp] theorem State.pwr_setCtx (s : State) (t c : Nat) (k : SeCtx) : (s.setCtx t c k).pwr = s.pwr :=
    (State.pwr_setF ..).trans (State.pwr_onTile ..)
@[simp] theorem State.jtag_setCtx (s : State) (t c : Nat) (k : SeCtx) : (s.setCtx t c k).jtag = s.jtag :=
    (State.jtag_setF ..).trans (State.jtag_onTile ..)
@[simp] theorem State.ready_setCtx (s : State) (t c : Nat) (k : SeCtx) : (s.setCtx t c k).ready = s.ready :=
    (State.ready_setF ..).trans (State.ready_onTile ..)
@[simp] theorem State.hoop_setCtx (s : State) (t c : Nat) (k : SeCtx) : (s.setCtx t c k).hoop = s.hoop :=
    (State.hoop_setF ..).trans (State.hoop_onTile ..)
@[simp] theorem State.free_setCtx (s : State) (t c : Nat) (k : SeCtx) : (s.setCtx t c k).free = s.free :=
    (State.free_setF ..).trans (State.free_onTile ..)
@[simp] theorem State.pending_setCtx (s : State) (t c : Nat) (k : SeCtx) : (s.setCtx t c k).pending = s.pending :=
    (State.pending_setF ..).trans (State.pending_onTile ..)

/-! ### `State.setQueue` changes tiles and regs only -/

@[simp] theorem State.rims_setQueue (s : State) (t e : Nat) (q : List Cmd) : (s.setQueue t e q).rims = s.rims := by
  unfold State.setQueue; dsimp only; split
  · simp only [State.rims_setF, State.rims_onTile]
  · split <;> simp only [State.rims_setF, State.rims_onTile]
@[simp] theorem State.sync_setQueue (s : State) (t e : Nat) (q : List Cmd) : (s.setQueue t e q).sync = s.sync := by
  unfold State.setQueue; dsimp only; split
  · simp only [State.sync_setF, State.sync_onTile]
  · split <;> simp only [State.sync_setF, State.sync_onTile]
@[simp] theorem State.mem_setQueue (s : State) (t e : Nat) (q : List Cmd) : (s.setQueue t e q).mem = s.mem := by
  unfold State.setQueue; dsimp only; split
  · simp only [State.mem_setF, State.mem_onTile]
  · split <;> simp only [State.mem_setF, State.mem_onTile]
@[simp] theorem State.parts_setQueue (s : State) (t e : Nat) (q : List Cmd) : (s.setQueue t e q).parts = s.parts := by
  unfold State.setQueue; dsimp only; split
  · simp only [State.parts_setF, State.parts_onTile]
  · split <;> simp only [State.parts_setF, State.parts_onTile]
@[simp] theorem State.faults_setQueue (s : State) (t e : Nat) (q : List Cmd) :
    (s.setQueue t e q).faults = s.faults := by
  unfold State.setQueue; dsimp only; split
  · simp only [State.faults_setF, State.faults_onTile]
  · split <;> simp only [State.faults_setF, State.faults_onTile]
@[simp] theorem State.ports_setQueue (s : State) (t e : Nat) (q : List Cmd) : (s.setQueue t e q).ports = s.ports := by
  unfold State.setQueue; dsimp only; split
  · simp only [State.ports_setF, State.ports_onTile]
  · split <;> simp only [State.ports_setF, State.ports_onTile]
@[simp] theorem State.fab_setQueue (s : State) (t e : Nat) (q : List Cmd) : (s.setQueue t e q).fab = s.fab := by
  unfold State.setQueue; dsimp only; split
  · simp only [State.fab_setF, State.fab_onTile]
  · split <;> simp only [State.fab_setF, State.fab_onTile]
@[simp] theorem State.coll_setQueue (s : State) (t e : Nat) (q : List Cmd) : (s.setQueue t e q).coll = s.coll := by
  unfold State.setQueue; dsimp only; split
  · simp only [State.coll_setF, State.coll_onTile]
  · split <;> simp only [State.coll_setF, State.coll_onTile]
@[simp] theorem State.dbg_setQueue (s : State) (t e : Nat) (q : List Cmd) : (s.setQueue t e q).dbg = s.dbg := by
  unfold State.setQueue; dsimp only; split
  · simp only [State.dbg_setF, State.dbg_onTile]
  · split <;> simp only [State.dbg_setF, State.dbg_onTile]
@[simp] theorem State.host_setQueue (s : State) (t e : Nat) (q : List Cmd) : (s.setQueue t e q).host = s.host := by
  unfold State.setQueue; dsimp only; split
  · simp only [State.host_setF, State.host_onTile]
  · split <;> simp only [State.host_setF, State.host_onTile]
@[simp] theorem State.otp_setQueue (s : State) (t e : Nat) (q : List Cmd) : (s.setQueue t e q).otp = s.otp := by
  unfold State.setQueue; dsimp only; split
  · simp only [State.otp_setF, State.otp_onTile]
  · split <;> simp only [State.otp_setF, State.otp_onTile]
@[simp] theorem State.sec_setQueue (s : State) (t e : Nat) (q : List Cmd) : (s.setQueue t e q).sec = s.sec := by
  unfold State.setQueue; dsimp only; split
  · simp only [State.sec_setF, State.sec_onTile]
  · split <;> simp only [State.sec_setF, State.sec_onTile]
@[simp] theorem State.pwr_setQueue (s : State) (t e : Nat) (q : List Cmd) : (s.setQueue t e q).pwr = s.pwr := by
  unfold State.setQueue; dsimp only; split
  · simp only [State.pwr_setF, State.pwr_onTile]
  · split <;> simp only [State.pwr_setF, State.pwr_onTile]
@[simp] theorem State.jtag_setQueue (s : State) (t e : Nat) (q : List Cmd) : (s.setQueue t e q).jtag = s.jtag := by
  unfold State.setQueue; dsimp only; split
  · simp only [State.jtag_setF, State.jtag_onTile]
  · split <;> simp only [State.jtag_setF, State.jtag_onTile]
@[simp] theorem State.ready_setQueue (s : State) (t e : Nat) (q : List Cmd) : (s.setQueue t e q).ready = s.ready := by
  unfold State.setQueue; dsimp only; split
  · simp only [State.ready_setF, State.ready_onTile]
  · split <;> simp only [State.ready_setF, State.ready_onTile]
@[simp] theorem State.hoop_setQueue (s : State) (t e : Nat) (q : List Cmd) : (s.setQueue t e q).hoop = s.hoop := by
  unfold State.setQueue; dsimp only; split
  · simp only [State.hoop_setF, State.hoop_onTile]
  · split <;> simp only [State.hoop_setF, State.hoop_onTile]
@[simp] theorem State.free_setQueue (s : State) (t e : Nat) (q : List Cmd) : (s.setQueue t e q).free = s.free := by
  unfold State.setQueue; dsimp only; split
  · simp only [State.free_setF, State.free_onTile]
  · split <;> simp only [State.free_setF, State.free_onTile]
@[simp] theorem State.pending_setQueue (s : State) (t e : Nat) (q : List Cmd) :
    (s.setQueue t e q).pending = s.pending := by
  unfold State.setQueue; dsimp only; split
  · simp only [State.pending_setF, State.pending_onTile]
  · split <;> simp only [State.pending_setF, State.pending_onTile]

/-! ### `State.onPart` changes parts only -/

@[simp] theorem State.regs_onPart (s : State) (p : Nat) (f : Part → Part) : (s.onPart p f).regs = s.regs := rfl
@[simp] theorem State.tiles_onPart (s : State) (p : Nat) (f : Part → Part) : (s.onPart p f).tiles = s.tiles := rfl
@[simp] theorem State.rims_onPart (s : State) (p : Nat) (f : Part → Part) : (s.onPart p f).rims = s.rims := rfl
@[simp] theorem State.sync_onPart (s : State) (p : Nat) (f : Part → Part) : (s.onPart p f).sync = s.sync := rfl
@[simp] theorem State.mem_onPart (s : State) (p : Nat) (f : Part → Part) : (s.onPart p f).mem = s.mem := rfl
@[simp] theorem State.faults_onPart (s : State) (p : Nat) (f : Part → Part) : (s.onPart p f).faults = s.faults := rfl
@[simp] theorem State.ports_onPart (s : State) (p : Nat) (f : Part → Part) : (s.onPart p f).ports = s.ports := rfl
@[simp] theorem State.fab_onPart (s : State) (p : Nat) (f : Part → Part) : (s.onPart p f).fab = s.fab := rfl
@[simp] theorem State.coll_onPart (s : State) (p : Nat) (f : Part → Part) : (s.onPart p f).coll = s.coll := rfl
@[simp] theorem State.dbg_onPart (s : State) (p : Nat) (f : Part → Part) : (s.onPart p f).dbg = s.dbg := rfl
@[simp] theorem State.host_onPart (s : State) (p : Nat) (f : Part → Part) : (s.onPart p f).host = s.host := rfl
@[simp] theorem State.otp_onPart (s : State) (p : Nat) (f : Part → Part) : (s.onPart p f).otp = s.otp := rfl
@[simp] theorem State.sec_onPart (s : State) (p : Nat) (f : Part → Part) : (s.onPart p f).sec = s.sec := rfl
@[simp] theorem State.pwr_onPart (s : State) (p : Nat) (f : Part → Part) : (s.onPart p f).pwr = s.pwr := rfl
@[simp] theorem State.jtag_onPart (s : State) (p : Nat) (f : Part → Part) : (s.onPart p f).jtag = s.jtag := rfl
@[simp] theorem State.ready_onPart (s : State) (p : Nat) (f : Part → Part) : (s.onPart p f).ready = s.ready := rfl
@[simp] theorem State.hoop_onPart (s : State) (p : Nat) (f : Part → Part) : (s.onPart p f).hoop = s.hoop := rfl
@[simp] theorem State.free_onPart (s : State) (p : Nat) (f : Part → Part) : (s.onPart p f).free = s.free := rfl
@[simp] theorem State.pending_onPart (s : State) (p : Nat) (f : Part → Part) :
    (s.onPart p f).pending = s.pending := rfl

/-! ### `State.onHost` changes host only -/

@[simp] theorem State.regs_onHost (s : State) (f : HostIf → HostIf) : (s.onHost f).regs = s.regs := rfl
@[simp] theorem State.tiles_onHost (s : State) (f : HostIf → HostIf) : (s.onHost f).tiles = s.tiles := rfl
@[simp] theorem State.rims_onHost (s : State) (f : HostIf → HostIf) : (s.onHost f).rims = s.rims := rfl
@[simp] theorem State.sync_onHost (s : State) (f : HostIf → HostIf) : (s.onHost f).sync = s.sync := rfl
@[simp] theorem State.mem_onHost (s : State) (f : HostIf → HostIf) : (s.onHost f).mem = s.mem := rfl
@[simp] theorem State.parts_onHost (s : State) (f : HostIf → HostIf) : (s.onHost f).parts = s.parts := rfl
@[simp] theorem State.faults_onHost (s : State) (f : HostIf → HostIf) : (s.onHost f).faults = s.faults := rfl
@[simp] theorem State.ports_onHost (s : State) (f : HostIf → HostIf) : (s.onHost f).ports = s.ports := rfl
@[simp] theorem State.fab_onHost (s : State) (f : HostIf → HostIf) : (s.onHost f).fab = s.fab := rfl
@[simp] theorem State.coll_onHost (s : State) (f : HostIf → HostIf) : (s.onHost f).coll = s.coll := rfl
@[simp] theorem State.dbg_onHost (s : State) (f : HostIf → HostIf) : (s.onHost f).dbg = s.dbg := rfl
@[simp] theorem State.otp_onHost (s : State) (f : HostIf → HostIf) : (s.onHost f).otp = s.otp := rfl
@[simp] theorem State.sec_onHost (s : State) (f : HostIf → HostIf) : (s.onHost f).sec = s.sec := rfl
@[simp] theorem State.pwr_onHost (s : State) (f : HostIf → HostIf) : (s.onHost f).pwr = s.pwr := rfl
@[simp] theorem State.jtag_onHost (s : State) (f : HostIf → HostIf) : (s.onHost f).jtag = s.jtag := rfl
@[simp] theorem State.ready_onHost (s : State) (f : HostIf → HostIf) : (s.onHost f).ready = s.ready := rfl
@[simp] theorem State.hoop_onHost (s : State) (f : HostIf → HostIf) : (s.onHost f).hoop = s.hoop := rfl
@[simp] theorem State.free_onHost (s : State) (f : HostIf → HostIf) : (s.onHost f).free = s.free := rfl
@[simp] theorem State.pending_onHost (s : State) (f : HostIf → HostIf) : (s.onHost f).pending = s.pending := rfl

/-! ### `State.onPort` changes ports only -/

@[simp] theorem State.regs_onPort (s : State) (p : Nat) (f : Port → Port) : (s.onPort p f).regs = s.regs := rfl
@[simp] theorem State.tiles_onPort (s : State) (p : Nat) (f : Port → Port) : (s.onPort p f).tiles = s.tiles := rfl
@[simp] theorem State.rims_onPort (s : State) (p : Nat) (f : Port → Port) : (s.onPort p f).rims = s.rims := rfl
@[simp] theorem State.sync_onPort (s : State) (p : Nat) (f : Port → Port) : (s.onPort p f).sync = s.sync := rfl
@[simp] theorem State.mem_onPort (s : State) (p : Nat) (f : Port → Port) : (s.onPort p f).mem = s.mem := rfl
@[simp] theorem State.parts_onPort (s : State) (p : Nat) (f : Port → Port) : (s.onPort p f).parts = s.parts := rfl
@[simp] theorem State.faults_onPort (s : State) (p : Nat) (f : Port → Port) : (s.onPort p f).faults = s.faults := rfl
@[simp] theorem State.fab_onPort (s : State) (p : Nat) (f : Port → Port) : (s.onPort p f).fab = s.fab := rfl
@[simp] theorem State.coll_onPort (s : State) (p : Nat) (f : Port → Port) : (s.onPort p f).coll = s.coll := rfl
@[simp] theorem State.dbg_onPort (s : State) (p : Nat) (f : Port → Port) : (s.onPort p f).dbg = s.dbg := rfl
@[simp] theorem State.host_onPort (s : State) (p : Nat) (f : Port → Port) : (s.onPort p f).host = s.host := rfl
@[simp] theorem State.otp_onPort (s : State) (p : Nat) (f : Port → Port) : (s.onPort p f).otp = s.otp := rfl
@[simp] theorem State.sec_onPort (s : State) (p : Nat) (f : Port → Port) : (s.onPort p f).sec = s.sec := rfl
@[simp] theorem State.pwr_onPort (s : State) (p : Nat) (f : Port → Port) : (s.onPort p f).pwr = s.pwr := rfl
@[simp] theorem State.jtag_onPort (s : State) (p : Nat) (f : Port → Port) : (s.onPort p f).jtag = s.jtag := rfl
@[simp] theorem State.ready_onPort (s : State) (p : Nat) (f : Port → Port) : (s.onPort p f).ready = s.ready := rfl
@[simp] theorem State.hoop_onPort (s : State) (p : Nat) (f : Port → Port) : (s.onPort p f).hoop = s.hoop := rfl
@[simp] theorem State.free_onPort (s : State) (p : Nat) (f : Port → Port) : (s.onPort p f).free = s.free := rfl
@[simp] theorem State.pending_onPort (s : State) (p : Nat) (f : Port → Port) :
    (s.onPort p f).pending = s.pending := rfl

/-! ### `State.onDdrLog` changes otp only -/

@[simp] theorem State.regs_onDdrLog (s : State) (f : DdrLog → DdrLog) : (s.onDdrLog f).regs = s.regs := rfl
@[simp] theorem State.tiles_onDdrLog (s : State) (f : DdrLog → DdrLog) : (s.onDdrLog f).tiles = s.tiles := rfl
@[simp] theorem State.rims_onDdrLog (s : State) (f : DdrLog → DdrLog) : (s.onDdrLog f).rims = s.rims := rfl
@[simp] theorem State.sync_onDdrLog (s : State) (f : DdrLog → DdrLog) : (s.onDdrLog f).sync = s.sync := rfl
@[simp] theorem State.mem_onDdrLog (s : State) (f : DdrLog → DdrLog) : (s.onDdrLog f).mem = s.mem := rfl
@[simp] theorem State.parts_onDdrLog (s : State) (f : DdrLog → DdrLog) : (s.onDdrLog f).parts = s.parts := rfl
@[simp] theorem State.faults_onDdrLog (s : State) (f : DdrLog → DdrLog) : (s.onDdrLog f).faults = s.faults := rfl
@[simp] theorem State.ports_onDdrLog (s : State) (f : DdrLog → DdrLog) : (s.onDdrLog f).ports = s.ports := rfl
@[simp] theorem State.fab_onDdrLog (s : State) (f : DdrLog → DdrLog) : (s.onDdrLog f).fab = s.fab := rfl
@[simp] theorem State.coll_onDdrLog (s : State) (f : DdrLog → DdrLog) : (s.onDdrLog f).coll = s.coll := rfl
@[simp] theorem State.dbg_onDdrLog (s : State) (f : DdrLog → DdrLog) : (s.onDdrLog f).dbg = s.dbg := rfl
@[simp] theorem State.host_onDdrLog (s : State) (f : DdrLog → DdrLog) : (s.onDdrLog f).host = s.host := rfl
@[simp] theorem State.sec_onDdrLog (s : State) (f : DdrLog → DdrLog) : (s.onDdrLog f).sec = s.sec := rfl
@[simp] theorem State.pwr_onDdrLog (s : State) (f : DdrLog → DdrLog) : (s.onDdrLog f).pwr = s.pwr := rfl
@[simp] theorem State.jtag_onDdrLog (s : State) (f : DdrLog → DdrLog) : (s.onDdrLog f).jtag = s.jtag := rfl
@[simp] theorem State.ready_onDdrLog (s : State) (f : DdrLog → DdrLog) : (s.onDdrLog f).ready = s.ready := rfl
@[simp] theorem State.hoop_onDdrLog (s : State) (f : DdrLog → DdrLog) : (s.onDdrLog f).hoop = s.hoop := rfl
@[simp] theorem State.free_onDdrLog (s : State) (f : DdrLog → DdrLog) : (s.onDdrLog f).free = s.free := rfl
@[simp] theorem State.pending_onDdrLog (s : State) (f : DdrLog → DdrLog) : (s.onDdrLog f).pending = s.pending := rfl

/-! ### `State.l2Put` changes mem only -/

@[simp] theorem State.regs_l2Put (s : State) (o w : Nat) (l : Option L2Line) : (s.l2Put o w l).regs = s.regs := rfl
@[simp] theorem State.tiles_l2Put (s : State) (o w : Nat) (l : Option L2Line) : (s.l2Put o w l).tiles = s.tiles := rfl
@[simp] theorem State.rims_l2Put (s : State) (o w : Nat) (l : Option L2Line) : (s.l2Put o w l).rims = s.rims := rfl
@[simp] theorem State.sync_l2Put (s : State) (o w : Nat) (l : Option L2Line) : (s.l2Put o w l).sync = s.sync := rfl
@[simp] theorem State.parts_l2Put (s : State) (o w : Nat) (l : Option L2Line) : (s.l2Put o w l).parts = s.parts := rfl
@[simp] theorem State.faults_l2Put (s : State) (o w : Nat) (l : Option L2Line) : (s.l2Put o w l).faults = s.faults := rfl
@[simp] theorem State.ports_l2Put (s : State) (o w : Nat) (l : Option L2Line) : (s.l2Put o w l).ports = s.ports := rfl
@[simp] theorem State.fab_l2Put (s : State) (o w : Nat) (l : Option L2Line) : (s.l2Put o w l).fab = s.fab := rfl
@[simp] theorem State.coll_l2Put (s : State) (o w : Nat) (l : Option L2Line) : (s.l2Put o w l).coll = s.coll := rfl
@[simp] theorem State.dbg_l2Put (s : State) (o w : Nat) (l : Option L2Line) : (s.l2Put o w l).dbg = s.dbg := rfl
@[simp] theorem State.host_l2Put (s : State) (o w : Nat) (l : Option L2Line) : (s.l2Put o w l).host = s.host := rfl
@[simp] theorem State.otp_l2Put (s : State) (o w : Nat) (l : Option L2Line) : (s.l2Put o w l).otp = s.otp := rfl
@[simp] theorem State.sec_l2Put (s : State) (o w : Nat) (l : Option L2Line) : (s.l2Put o w l).sec = s.sec := rfl
@[simp] theorem State.pwr_l2Put (s : State) (o w : Nat) (l : Option L2Line) : (s.l2Put o w l).pwr = s.pwr := rfl
@[simp] theorem State.jtag_l2Put (s : State) (o w : Nat) (l : Option L2Line) : (s.l2Put o w l).jtag = s.jtag := rfl
@[simp] theorem State.ready_l2Put (s : State) (o w : Nat) (l : Option L2Line) : (s.l2Put o w l).ready = s.ready := rfl
@[simp] theorem State.hoop_l2Put (s : State) (o w : Nat) (l : Option L2Line) : (s.l2Put o w l).hoop = s.hoop := rfl
@[simp] theorem State.free_l2Put (s : State) (o w : Nat) (l : Option L2Line) : (s.l2Put o w l).free = s.free := rfl
@[simp] theorem State.pending_l2Put (s : State) (o w : Nat) (l : Option L2Line) : (s.l2Put o w l).pending = s.pending := rfl

/-! ### Readers of a part that an update leaves alone -/

@[simp] theorem State.rd_post (s : State) (k c e a : Nat) (b : Nat) : (s.post k c e a).rd b = s.rd b := by
  simp only [State.rd, State.regs_post]
@[simp] theorem State.rd_postMp (s : State) (c e a : Nat) (b : Nat) : (s.postMp c e a).rd b = s.rd b := by
  simp only [State.rd, State.regs_postMp]
@[simp] theorem State.rd_setTile (s : State) (t : Nat) (x : Tile) (b : Nat) : (s.setTile t x).rd b = s.rd b := by
  simp only [State.rd, State.regs_setTile]
@[simp] theorem State.rd_onTile (s : State) (t : Nat) (f : Tile → Tile) (b : Nat) : (s.onTile t f).rd b = s.rd b := by
  simp only [State.rd, State.regs_onTile]
@[simp] theorem State.rd_onSeq (s : State) (t : Nat) (f : SeqState → SeqState) (b : Nat) :
    (s.onSeq t f).rd b = s.rd b := by
  simp only [State.rd, State.regs_onSeq]
@[simp] theorem State.rd_onArray (s : State) (t m : Nat) (f : ArrayState → ArrayState) (b : Nat) :
    (s.onArray t m f).rd b = s.rd b := by
  simp only [State.rd, State.regs_onArray]
@[simp] theorem State.rd_onVe (s : State) (t : Nat) (f : VeState → VeState) (b : Nat) :
    (s.onVe t f).rd b = s.rd b := by
  simp only [State.rd, State.regs_onVe]
@[simp] theorem State.rd_onPart (s : State) (p : Nat) (f : Part → Part) (b : Nat) : (s.onPart p f).rd b = s.rd b := by
  simp only [State.rd, State.regs_onPart]
@[simp] theorem State.rd_onHost (s : State) (f : HostIf → HostIf) (b : Nat) : (s.onHost f).rd b = s.rd b := by
  simp only [State.rd, State.regs_onHost]
@[simp] theorem State.rd_onPort (s : State) (p : Nat) (f : Port → Port) (b : Nat) : (s.onPort p f).rd b = s.rd b := by
  simp only [State.rd, State.regs_onPort]
@[simp] theorem State.tile_wr (s : State) (a : Nat) (v : W64) (u : Nat) : (s.wr a v).tile u = s.tile u := by
  simp only [State.tile, State.tiles_wr]
@[simp] theorem State.tile_wrN (s : State) (a v : Nat) (u : Nat) : (s.wrN a v).tile u = s.tile u := by
  simp only [State.tile, State.tiles_wrN]
@[simp] theorem State.tile_setF (s : State) (a hi lo x : Nat) (u : Nat) : (s.setF a hi lo x).tile u = s.tile u := by
  simp only [State.tile, State.tiles_setF]
@[simp] theorem State.tile_cnt (s : State) (a n : Nat) (u : Nat) : (s.cnt a n).tile u = s.tile u := by
  simp only [State.tile, State.tiles_cnt]
@[simp] theorem State.tile_resetRegs (s : State) (lo hi : Nat) (u : Nat) : (s.resetRegs lo hi).tile u = s.tile u := by
  simp only [State.tile, State.tiles_resetRegs]
@[simp] theorem State.tile_setSq (s : State) (t st c : Nat) (u : Nat) : (s.setSq t st c).tile u = s.tile u := by
  simp only [State.tile, State.tiles_setSq]
@[simp] theorem State.tile_setSreg (s : State) (t n v : Nat) (u : Nat) : (s.setSreg t n v).tile u = s.tile u := by
  simp only [State.tile, State.tiles_setSreg]
@[simp] theorem State.tile_post (s : State) (k c e a : Nat) (u : Nat) : (s.post k c e a).tile u = s.tile u := by
  simp only [State.tile, State.tiles_post]
@[simp] theorem State.tile_postMp (s : State) (c e a : Nat) (u : Nat) : (s.postMp c e a).tile u = s.tile u := by
  simp only [State.tile, State.tiles_postMp]
@[simp] theorem State.tile_onPart (s : State) (p : Nat) (f : Part → Part) (u : Nat) :
    (s.onPart p f).tile u = s.tile u := by
  simp only [State.tile, State.tiles_onPart]
@[simp] theorem State.tile_onHost (s : State) (f : HostIf → HostIf) (u : Nat) : (s.onHost f).tile u = s.tile u := by
  simp only [State.tile, State.tiles_onHost]
@[simp] theorem State.tile_onPort (s : State) (p : Nat) (f : Port → Port) (u : Nat) :
    (s.onPort p f).tile u = s.tile u := by
  simp only [State.tile, State.tiles_onPort]
@[simp] theorem State.part_wr (s : State) (a : Nat) (v : W64) (q : Nat) : (s.wr a v).part q = s.part q := by
  simp only [State.part, State.parts_wr]
@[simp] theorem State.part_wrN (s : State) (a v : Nat) (q : Nat) : (s.wrN a v).part q = s.part q := by
  simp only [State.part, State.parts_wrN]
@[simp] theorem State.part_setF (s : State) (a hi lo x : Nat) (q : Nat) : (s.setF a hi lo x).part q = s.part q := by
  simp only [State.part, State.parts_setF]
@[simp] theorem State.part_cnt (s : State) (a n : Nat) (q : Nat) : (s.cnt a n).part q = s.part q := by
  simp only [State.part, State.parts_cnt]
@[simp] theorem State.part_resetRegs (s : State) (lo hi : Nat) (q : Nat) : (s.resetRegs lo hi).part q = s.part q := by
  simp only [State.part, State.parts_resetRegs]
@[simp] theorem State.part_setSq (s : State) (t st c : Nat) (q : Nat) : (s.setSq t st c).part q = s.part q := by
  simp only [State.part, State.parts_setSq]
@[simp] theorem State.part_setSreg (s : State) (t n v : Nat) (q : Nat) : (s.setSreg t n v).part q = s.part q := by
  simp only [State.part, State.parts_setSreg]
@[simp] theorem State.part_post (s : State) (k c e a : Nat) (q : Nat) : (s.post k c e a).part q = s.part q := by
  simp only [State.part, State.parts_post]
@[simp] theorem State.part_postMp (s : State) (c e a : Nat) (q : Nat) : (s.postMp c e a).part q = s.part q := by
  simp only [State.part, State.parts_postMp]
@[simp] theorem State.part_setTile (s : State) (t : Nat) (x : Tile) (q : Nat) :
    (s.setTile t x).part q = s.part q := by
  simp only [State.part, State.parts_setTile]
@[simp] theorem State.part_onTile (s : State) (t : Nat) (f : Tile → Tile) (q : Nat) :
    (s.onTile t f).part q = s.part q := by
  simp only [State.part, State.parts_onTile]
@[simp] theorem State.part_onSeq (s : State) (t : Nat) (f : SeqState → SeqState) (q : Nat) :
    (s.onSeq t f).part q = s.part q := by
  simp only [State.part, State.parts_onSeq]
@[simp] theorem State.part_onArray (s : State) (t m : Nat) (f : ArrayState → ArrayState) (q : Nat) :
    (s.onArray t m f).part q = s.part q := by
  simp only [State.part, State.parts_onArray]
@[simp] theorem State.part_onVe (s : State) (t : Nat) (f : VeState → VeState) (q : Nat) :
    (s.onVe t f).part q = s.part q := by
  simp only [State.part, State.parts_onVe]
@[simp] theorem State.part_setCtx (s : State) (t c : Nat) (k : SeCtx) (q : Nat) :
    (s.setCtx t c k).part q = s.part q := by
  simp only [State.part, State.parts_setCtx]
@[simp] theorem State.part_setQueue (s : State) (t e : Nat) (q : List Cmd) (q' : Nat) :
    (s.setQueue t e q).part q' = s.part q' := by
  simp only [State.part, State.parts_setQueue]
@[simp] theorem State.part_onHost (s : State) (f : HostIf → HostIf) (q : Nat) : (s.onHost f).part q = s.part q := by
  simp only [State.part, State.parts_onHost]
@[simp] theorem State.part_onPort (s : State) (p : Nat) (f : Port → Port) (q : Nat) :
    (s.onPort p f).part q = s.part q := by
  simp only [State.part, State.parts_onPort]
@[simp] theorem State.port_wr (s : State) (a : Nat) (v : W64) (q : Nat) : (s.wr a v).port q = s.port q := by
  simp only [State.port, State.ports_wr]
@[simp] theorem State.port_wrN (s : State) (a v : Nat) (q : Nat) : (s.wrN a v).port q = s.port q := by
  simp only [State.port, State.ports_wrN]
@[simp] theorem State.port_setF (s : State) (a hi lo x : Nat) (q : Nat) : (s.setF a hi lo x).port q = s.port q := by
  simp only [State.port, State.ports_setF]
@[simp] theorem State.port_cnt (s : State) (a n : Nat) (q : Nat) : (s.cnt a n).port q = s.port q := by
  simp only [State.port, State.ports_cnt]
@[simp] theorem State.port_resetRegs (s : State) (lo hi : Nat) (q : Nat) : (s.resetRegs lo hi).port q = s.port q := by
  simp only [State.port, State.ports_resetRegs]
@[simp] theorem State.port_setSq (s : State) (t st c : Nat) (q : Nat) : (s.setSq t st c).port q = s.port q := by
  simp only [State.port, State.ports_setSq]
@[simp] theorem State.port_setSreg (s : State) (t n v : Nat) (q : Nat) : (s.setSreg t n v).port q = s.port q := by
  simp only [State.port, State.ports_setSreg]
@[simp] theorem State.port_post (s : State) (k c e a : Nat) (q : Nat) : (s.post k c e a).port q = s.port q := by
  simp only [State.port, State.ports_post]
@[simp] theorem State.port_postMp (s : State) (c e a : Nat) (q : Nat) : (s.postMp c e a).port q = s.port q := by
  simp only [State.port, State.ports_postMp]
@[simp] theorem State.port_setTile (s : State) (t : Nat) (x : Tile) (q : Nat) :
    (s.setTile t x).port q = s.port q := by
  simp only [State.port, State.ports_setTile]
@[simp] theorem State.port_onTile (s : State) (t : Nat) (f : Tile → Tile) (q : Nat) :
    (s.onTile t f).port q = s.port q := by
  simp only [State.port, State.ports_onTile]
@[simp] theorem State.port_onSeq (s : State) (t : Nat) (f : SeqState → SeqState) (q : Nat) :
    (s.onSeq t f).port q = s.port q := by
  simp only [State.port, State.ports_onSeq]
@[simp] theorem State.port_onArray (s : State) (t m : Nat) (f : ArrayState → ArrayState) (q : Nat) :
    (s.onArray t m f).port q = s.port q := by
  simp only [State.port, State.ports_onArray]
@[simp] theorem State.port_onVe (s : State) (t : Nat) (f : VeState → VeState) (q : Nat) :
    (s.onVe t f).port q = s.port q := by
  simp only [State.port, State.ports_onVe]
@[simp] theorem State.port_setCtx (s : State) (t c : Nat) (k : SeCtx) (q : Nat) :
    (s.setCtx t c k).port q = s.port q := by
  simp only [State.port, State.ports_setCtx]
@[simp] theorem State.port_setQueue (s : State) (t e : Nat) (q : List Cmd) (q' : Nat) :
    (s.setQueue t e q).port q' = s.port q' := by
  simp only [State.port, State.ports_setQueue]
@[simp] theorem State.port_onPart (s : State) (p : Nat) (f : Part → Part) (q : Nat) :
    (s.onPart p f).port q = s.port q := by
  simp only [State.port, State.ports_onPart]
@[simp] theorem State.port_onHost (s : State) (f : HostIf → HostIf) (q : Nat) : (s.onHost f).port q = s.port q := by
  simp only [State.port, State.ports_onHost]

/-! ### Readers of the part that an update replaces -/

theorem State.tile_setTile (s : State) (t u : Nat) (x : Tile) :
    (s.setTile t x).tile u = if u = t then x else s.tile u := by
  simp only [State.tile, State.setTile, mapGet_mapPut]

theorem State.tile_onTile (s : State) (t u : Nat) (f : Tile → Tile) :
    (s.onTile t f).tile u = if u = t then f (s.tile t) else s.tile u := State.tile_setTile ..

@[simp] theorem State.tile_onTile_same (s : State) (t : Nat) (f : Tile → Tile) :
    (s.onTile t f).tile t = f (s.tile t) := by
  simp [State.tile_onTile]

theorem State.part_onPart (s : State) (p q : Nat) (f : Part → Part) :
    (s.onPart p f).part q = if q = p then f (s.part p) else s.part q := by
  simp only [State.part, State.onPart, mapGet_mapPut]

@[simp] theorem State.part_onPart_same (s : State) (p : Nat) (f : Part → Part) :
    (s.onPart p f).part p = f (s.part p) := by
  simp [State.part_onPart]

theorem State.port_onPort (s : State) (p q : Nat) (f : Port → Port) :
    (s.onPort p f).port q = if q = p then f (s.port p) else s.port q := by
  simp only [State.port, State.onPort, mapGet_mapPut]

@[simp] theorem State.port_onPort_same (s : State) (p : Nat) (f : Port → Port) :
    (s.onPort p f).port p = f (s.port p) := by
  simp [State.port_onPort]

@[simp] theorem State.host_onHost (s : State) (f : HostIf → HostIf) : (s.onHost f).host = f s.host := rfl

theorem State.rim_post (s : State) (k j c e a : Nat) :
    mapGet {} (s.post k c e a).rims j =
      if j = k then (mapGet {} s.rims k).push (rimEntry s.hoop c e a) else mapGet {} s.rims j := by
  simp only [State.post, mapGet_mapPut]

end Sys2Proof.Machine
end

