-- ==== Sys2Proof/WellFormed.lean ====
section
/-! DEFINITION. Which commands could reach the block at all: lengths of writes, buffers, flits, packets and messages, and
ranges of numbers. `exec` has a meaning for the others too. -/
namespace Sys2Proof

/-- A posted write of the host: 1 to 512 bytes, the largest payload (R449). -/
def writeOk (data : List Byte) : Bool := decide (1 ≤ data.length ∧ data.length ≤ 512)

/-- A host buffer: at most 16 MiB (R458). -/
def bufferOk (d : Option (List Byte)) : Bool := match d with | some l => decide (l.length ≤ 2 ^ 24) | none => true

/-- A flit: 256 bytes, lanes 0–8 (R345, R346). -/
def Flit.wf (f : Flit) : Bool := decide (f.bytes.length = 256) && f.words.all (fun c => decide (c.1 < 9))

/-- A packet: a payload of whole units, as many as its header says, at most sixteen (R383). -/
def Packet.wf (p : Packet) : Bool := decide (p.payload.length = 16 * ((p.u0.toNat / 2 ^ 16) % 32) ∧ p.payload.length ≤ 256)

/-- An authentication message: at most 16 fragments of 256 bytes (R541). -/
def messageOk (m : List Byte) : Bool := decide (1 ≤ m.length ∧ m.length ≤ 4096)

/-- Symbol errors of a codeword: each at its own place, and each a change. -/
def symErrsOk (e : SymErrs) : Bool := decide ((e.map (·.1)).Nodup) && e.all (fun x => decide (x.2 ≠ 0))

/-- A 32-bit write carries 32 bits. -/
def widthOk (wide : Bool) (data : BitVec 64) : Bool := wide || decide (data.toNat < 2 ^ 32)

/-- The checks of a command. -/
def Instr.wf : Instr → Bool
  | .apertureWrite _ data => writeOk data
  | .loadImageData dma | .waleConfigure dma | .fabricPlan dma | .routeLoad dma | .groups dma | .debugUnlock dma
  | .memCopy dma => bufferOk dma
  | .interruptCoalTimeout v => decide (v.val < 18)
  | .registerWrite _ _ wide data => widthOk wide data
  | .veRngCtrWrite _ _ _ _ half data => widthOk half.isNone data
  | .slathFetchReturn _ block errs _ => decide (block < 65536) && errs.all symErrsOk
  | .correctedWriteBack _ _ _ errs | .uncorrectableRead _ _ _ _ errs => symErrsOk errs
  | .l2Access _ errs _ | .patrolScrubRead _ errs => errs.all symErrsOk
  | .dataFlitReceive _ f | .idleFlitReceive _ f | .credit _ f | .initParam _ f | .initDone _ f | .echoReq _ f
  | .echoResp _ f | .laneMap _ f | .laneAck _ f | .retrainReq _ f => f.wf
  | .hello _ m | .chain _ m | .proof _ m | .result _ m => messageOk m
  | .explore _ k | .read _ k | .write _ k | .signal _ k | .set _ k | .resp _ k | .coll _ k | .time _ k => k.wf
  | .tpTimeout ctx => decide (ctx < 8192)
  | .wakeEvent c => decide (1 ≤ c.val ∧ c.val ≤ 5)
  | _ => true

end Sys2Proof
end

