-- ==== Sys2Proof/Tests/Slice0.lean ====
section
/-! SUPPORT. Tests: ill-formed commands, the queue, worked examples of the spec, published vectors of its algorithms; and for
each statement of `Obligations` a theorem `witness_<Name>`: for each of its clauses, a state and operands that meet the
clause's hypotheses together. -/
namespace Sys2Proof.Tests
set_option Elab.async false
open Sys2Proof Sys2Proof.Machine

/-- One register more, in the order of addresses. -/
def ins (x : Nat × Nat) : List (Nat × W64) → List (Nat × W64)
  | [] => [(x.1, BitVec.ofNat 64 x.2)]
  | e :: l => if x.1 < e.1 then (x.1, BitVec.ofNat 64 x.2) :: e :: l else e :: ins x l

/-- The state after reset with some registers given. -/
def st (l : List (Nat × Nat)) : State := { State.reset with regs := ((aDbgFreezeStatus, 0) :: l).foldr ins [] }

/-- That state with one tile, tile 3, given. -/
def st3 (l : List (Nat × Nat)) (x : Tile) : State := { st l with tiles := [(3, x)] }

/-- A slath entry of a kind: target, payload, and the bits below bit 25. -/
def ent (kind target payload low : Nat) : Nat := low + target * 2 ^ 25 + kind * 2 ^ 28 + payload * 2 ^ 192

/-- Tile 3 runs and stands before entry e, at place 5. -/
def at5 (e : Nat) (l : List (Nat × Nat)) (x : Tile) : State :=
  st3 ((aSqStatus 3, sqRun) :: (aSqPc 3, 5) :: l) { x with slath := [(5, (5, e))] }

/-- A command of an engine. -/
def cmd (target payload : Nat) : Cmd :=
  { entry := 5, issue := 0, target := target, payload := payload, bh := false, guardVal := 0, origin := 3, dev := 0, sigs := [],
    started := true, waited := 0, ran := 0 }

/-- A MAC payload: formats INT8, two rows and columns, with its accumulator base, its rows, its drain rows, and further bits. -/
def macPay (cen accBase rows drain more : Nat) : Nat :=
  cen * 2 ^ 105 + 9 * 2 ^ 108 + 9 * 2 ^ 112 + accBase * 2 ^ 119 + rows * 2 ^ 128 + 2 * 2 ^ 138 + 2 * 2 ^ 143 +
  drain * 2 ^ 148 + more

/-- A committed MAC command in a stage. -/
def macRun (payload : Nat) (g : MacStage) : MacRun :=
  { cmd := cmd 2 payload, stage := g, handles := [], zero := none, parity := none, reported := false }

/-- A VE RUN with one step and one iteration. -/
def veRun (payload : Nat) : VeRun :=
  { cmd := cmd 4 payload, handles := [], zero := none, nest := [], pats := List.replicate 4 (List.replicate 6 ⟨0, 1⟩),
    bases := [0, 0, 0, 0], group := 0, slot := 0, window := 0, iters := 1, issued := 0, parity := none, stopped := false,
    originDue := false }

/-- A VE instruction word: opcode, format, vd, and the modifier; va is V1, vb is V2, vc is V3. -/
def ins4 (op fmt vd mod : Nat) : Nat :=
  op * 2 ^ 58 + fmt * 2 ^ 50 + vd * 2 ^ 44 + 1 * 2 ^ 38 + 2 * 2 ^ 32 + 3 * 2 ^ 26 + mod

/-- Tile 3 runs a RUN whose next instruction is word w. -/
def veS (w : Nat) : State :=
  st3 [(aVeFpStatus 3, 0), (aVeRngKey 3 5, 12345), (aVeRngCtrLo 3 5, 2 ^ 64 - 1), (aVeRngCtrHi 3 5, 2 ^ 64 - 1)]
    { spad := [(0, 7), (3, 63)],
      ve := { regs := [(1, BitVec.ofNat 1024 0x42280000BF80000040490FDB3F800000), (2, BitVec.ofNat 1024 0xC01000003F8000003DCCCCCD40000000),
                (3, BitVec.ofNat 1024 0x7F808182), (4, BitVec.ofNat 1024 (2 ^ 1024 - 1))],
              kmem := [(0, BitVec.ofNat 64 w)], run := some (veRun 0) } }

/-- The context in which that instruction issues. -/
def veC (w : Nat) : VeCtx :=
  { run := veRun 0, f := 1, word := w, iter := 0, win := 0, idx0 := 0, idx1 := 0, last0 := true }

/-- A COPY payload on context 7, 32 bytes a step: source kind and base, destination kind and base, and further bits. -/
def cpy (sk b0 dk b1 more : Nat) : Nat := 7 * 2 ^ 127 + dk * 2 ^ 112 + sk * 2 ^ 110 + b1 * 2 ^ 48 + b0 + more

/-- Context 7 with that command and one step to do. -/
def ctx7 (sk b0 dk b1 : Nat) : SeCtx :=
  { state := .running, cmd := some (cmd 5 (cpy sk b0 dk b1 0)), srcPat := List.replicate 6 ⟨0, 1⟩,
    dstPat := List.replicate 6 ⟨0, 1⟩, srcBase := b0, dstBase := b1, units := 1 }

/-- Partition 0, with all of its resources, is resident on the first tile group of a device with 16 × 64 GiB. -/
def dev0 (l : List (Nat × Nat)) (x : Tile) : State :=
  { st3 ((aMpPartStatus 0, 0xC0000001) :: (aDdrStatus, 0x93) :: (aFabId, 0) :: l) x with
    parts := [(0, { ddrLen := 2 ^ 40, syncCount := 16384, groupCount := 1024 })] }

/-- A page of partition 0: its first 2 MiB, at offset 2 MiB of DDR. -/
def page0 (wr : Bool) : XlEntry := { part := 0, page := 0, big := false, dev := 0, space := 0, base := 2 ^ 21, wr := wr }

/-- A request of context 7 of tile 3. -/
def req7 (id : Nat) (write : Bool) (stage : ReqStage) : Req :=
  { id := id, origin := .ctx 3 7, step := 0, pos := 0, va := 0x100, write := write, prefetch := false, dev := 0, space := 0,
    off := 0x200100, len := 32, data := [], poison := 0, cls := 0, reuse := 0, part := 0, lane := 0, stage := stage,
    bank := none, status := 0, win := none }

/-- That device with requests at the memory edge; one remap entry maps the page of their offset to itself. -/
def edge (l : List (Nat × Nat)) (rs : List Req) (ws : List CapWaiter) : State :=
  { dev0 ((aDdrRemap 0, 2 ^ 63 + 2 ^ 42 + 2 ^ 21) :: (aL2cSlotCap 0, 1) :: l) { ctxs := [(7, ctx7 2 0x100 0 0)] } with
    mem := { reqs := rs, waiters := ws } }

/-- A flit with a header and a payload, whole on the wire. -/
def flit (h : Nat) (payload : List Byte) : Flit :=
  let b := leBytes 8 h ++ fit 240 payload
  { bytes := b ++ leBytes 8 (crc64 b), words := [] }

/-- Port 9 in a link state, with its private contents. -/
def port9 (lk : Nat) (l : List (Nat × Nat)) (x : Port) : State :=
  { st ((aLnkStatus 9, lk * 2 ^ 8) :: l) with ports := [(9, x)], pwr := { released := 8, deasserted := true } }

/-- A packet from its header units. -/
def pkt (u0 u1 : Nat) (payload : List Byte) : Packet := { u0 := BitVec.ofNat 128 u0, u1 := BitVec.ofNat 128 u1, payload := payload }

/-- Device 261 with port 9 ACTIVE and a context 7 with device 515. -/
def fab7 (l : List (Nat × Nat)) (x : PeerCtx) : State :=
  { st ((aFabId, 2 ^ 31 + 261) :: (aLnkStatus 9, lkActive * 2 ^ 8) :: (aFabRouteRegion 2, 16 + 9) :: l) with
    fab := { ctxs := [(7, some x)] } }

/-- Its context, open at epoch 4, with what its send and receive halves hold. -/
def ctxOpen (outs : List Outstanding) (recs : List (Nat × Option Nat)) : PeerCtx :=
  { peer := 515, isOpen := true, epoch := 4, outs := outs, rx := some { epoch := 4, high := 65535, recs := recs } }

/-- A packet of a type from device 515, with its sequence number, its status, its address and its operand. -/
def from515 (ty seq status plen addr operand : Nat) (payload : List Byte) : Packet :=
  pkt (mkU0 261 515 3 7 4 seq false status plen ty) (mkU1 addr operand 0 none 0 0) payload

/-- A request of context 7 of tile 3 that waits for its answer. -/
def out9 (tries : Nat) : Outstanding :=
  { seq := 3, syn := true, tries := tries, sent := 0,
    req := { id := 9, asker := .ctx 3 7 0, hub := false, unit := 3, dev := 515, ptype := 1, addr := 515 * 2 ^ 48, operand := 4,
             data := [], poison := 0, cls := 0, reuse := 0 } }

/-- An armed descriptor: an all-reduce of one FP32 element over group 5. -/
def ce5 (run : Option CeRun) : CeOp :=
  { group := 5, op := 3, fmt := 1, count := 1, src := 0x100, dst := 0x200, trig := 1, done := 2, trigInc := 1, trigBase := 0,
    doneAmt := 1, segTable := 0, run := run }

/-- Partition 0 with that descriptor at place 1,023, its table at offset 0 with one big page. -/
def ceS (l : List (Nat × Nat)) (o : CeOp) : State :=
  { dev0 ((aSeXlateBase 0, 1) :: (aDdrRemap 0, 2 ^ 63) :: l) {} with
    mem := { ddr := [(0, 9), (0x102, 0x80), (0x103, 0x3F)] }, sync := { objs := [(1, 1)] },
    parts := [(0, { ddrLen := 2 ^ 40, syncCount := 16384, groupCount := 1024, ce := [(1023, some o)] })] }

/-- A command packet of 64 bytes: its opcode, its partition, and its further bytes as one number. -/
def hp (op part rest : Nat) : List Byte := leBytes 64 (op + 7 * 2 ^ 16 + part * 2 ^ 32 + rest)

/-- A command packet of 128 bytes. -/
def hp2 (op part rest : Nat) : List Byte := leBytes 128 (op + 7 * 2 ^ 16 + part * 2 ^ 32 + 2 ^ 40 + rest)

/-- The device with one partition, and a packet in the FIFO, while no ring is set. -/
def hs (l : List (Nat × Nat)) (k : List (List Byte)) : State :=
  { dev0 ((aHifStatus, 1) :: (aHifRingCtrl, 0) :: (aPwrStatus, 0) :: l) {} with
    pwr := { released := 8, deasserted := true }, host := { fifo := k }, hoop := 100 }

/-- That device with another partition 0. -/
def hsP (l : List (Nat × Nat)) (k : List Byte) (x : Part) : State :=
  { hs l [k] with parts := [(0, { x with ddrLen := 2 ^ 40, syncCount := 16384, groupCount := 1024 })] }

/-- The encoding of the neutral point as a key, and a signature that holds under it. -/
def key1 : List Byte := fit 57 [1]
def sig1 : List Byte := fit 114 [1]

/-- The hash of that key, which no proof needs to compute. -/
@[irreducible] def hash1 : List Byte := keyHash key1
theorem keyHash_key1 : keyHash key1 = hash1 := by unfold hash1; rfl

/-- A firmware image of 256 bytes under that key, with anti-rollback number 3. -/
def fwImage : List Byte :=
  fit 256 (ascii "QKFW" ++ leBytes 4 1 ++ leBytes 4 256 ++ [3, 0, 7, 0] ++ key1 ++ sig1)

/-- Its bytes as cells, and the load that has received it. -/
def fwCells : List Host.Cell := (fwImage.zipIdx.map (fun x => (x.2, x.1))).filter (fun x => x.2 ≠ 0)
def fwLoad : Load := { len := 256, got := [(0, 256)], data := fwCells }

/-- Byte i of the own serial, and the serial in these bytes. -/
def sb (i : Nat) : Byte := (fit 16 Config.serial).getD i 0
def serial16 : List Byte := (List.range 16).map sb

/-- A plan body for the own serial, with one device and no port. -/
def planBody : List Byte :=
  fit 32 (leBytes 4 1 ++ leBytes 4 3408 ++ leBytes 8 77 ++ leBytes 4 1) ++ serial16 ++ List.replicate 3360 0

/-- A response to the challenge of nines, from slot 0 under that key, with a scope and slot 3 as its target. -/
def unlock (scope : Nat) : List Byte :=
  fit 8 [1, 0, 0, BitVec.ofNat 8 scope] ++ List.replicate 16 9 ++ serial16 ++ key1 ++ [3, 4, 0] ++
    List.replicate 32 0x55 ++ List.replicate 4 0 ++ sig1

/-- Partition 0 with its table at offset 0 and one big page, so that its addresses are offsets of DDR, and some bytes of it. -/
def hsX (l : List (Nat × Nat)) (k : List Byte) (ddr : List Host.Cell) : State :=
  { hs ((aSeXlateBase 0, 1) :: (aDdrRemap 0, 2 ^ 63) :: (aMacRampStatus, 0) :: l) [k] with mem := { ddr := (0, 9) :: ddr } }

/-- The record of a complete wale of step 9, without regions and cursors; its CRC stands at offset 0x38. -/
def rec9 : List Byte :=
  (leBytes 4 (1 + 2 ^ 24) ++ leBytes 4 256 ++ leBytes 8 9) ++ List.replicate 40 0 ++ leBytes 8 15270467687055719082 ++
    List.replicate 192 0

/-- Partition 0 with that record in slot 0 of its wale area, at offset 0. -/
def hsR (l : List (Nat × Nat)) (k : List Byte) (x : Part) : State :=
  { hs (l ++ [(aDdrRemap 0, 2 ^ 63), (aMacRampStatus, 0), (aMpWaleCfg 0, 2 ^ 16), (aMpWaleStatus 0, 0), (aMpWaleObj 0, 0), (aMpWaleArea 0, 0),
      (aCeOpCount 0, 0), (aCeOpBase 0, 0)]) [k] with
    mem := { ddr := (rec9.zipIdx.map (fun x => (x.2, x.1))).filter (fun x => x.2 ≠ 0) },
    parts := [(0, { x with ddrLen := 2 ^ 40, syncCount := 16384, groupCount := 1024, wale := { slots := [(0, some 9)] } })] }

/-- A kept load of tile 5, by index, with the configuration block of a slath of one entry. -/
def slk : SlathKept := { image := 1024, first := 5, count := 1, cfg := fit 1024 [1, 0, 1, 0, 1] }

/-- The record of a complete wale of step 9 with five cursors, all zero. -/
def rec5 : List Byte :=
  (leBytes 4 (1 + 2 ^ 24) ++ leBytes 4 336 ++ leBytes 8 9) ++ List.replicate 34 0 ++ [5] ++ List.replicate 5 0 ++
    leBytes 8 10532641973102921615 ++ List.replicate 272 0

/-! ### Signatures, hashes and codes in the witnesses -/

theorem edMul_zero_point : ∀ k n, edMul k n edZero = edZero
  | 0, _ => rfl
  | k + 1, n => by
    have h : edZero.add edZero = edZero := by decide +kernel
    simp only [edMul, h, edMul_zero_point k, ite_self]

/-- The signature of the neutral point holds under the neutral key, whatever was signed. -/
theorem edVerify_neutral (ctx msg : List Byte) : edVerify key1 ctx msg sig1 = true := by
  have h1 : edDecode key1 = some edZero := by decide +kernel
  have h2 : edDecode (sig1.take 57) = some edZero := by decide +kernel
  have h3 : leVal (sig1.drop 57) = 0 := by decide +kernel
  have h4 : edMul 448 0 edBase = edZero := by decide +kernel
  have h5 : edZero.add edZero = edZero := by decide +kernel
  simp only [edVerify, h1, h2, h3, h4, h5, edMul_zero_point]
  decide +kernel

theorem hash1_ne : hash1 ≠ [] := by decide +kernel

theorem leVal_leBytes : ∀ n v, leVal (leBytes n v) = v % 256 ^ n
  | 0, v => by simp [leBytes, leVal, Nat.mod_one]
  | n + 1, v => by
    simp only [leBytes, leVal, leVal_leBytes n, BitVec.toNat_ofNat]
    rw [show 256 ^ (n + 1) = 256 * 256 ^ n from Nat.pow_succ']
    exact Nat.mod_mul.symm

theorem leBytes_length : ∀ n v, (leBytes n v).length = n
  | 0, _ => rfl
  | n + 1, v => by simp [leBytes, leBytes_length n]

theorem fit_length (n : Nat) (l : List Byte) : (fit n l).length = n := by simp [fit]

theorem leVal_lt : ∀ l : List Byte, leVal l < 256 ^ l.length
  | [] => by simp [leVal]
  | b :: l => by
    have h := leVal_lt l
    have hb := b.isLt
    simp only [leVal, List.length_cons, Nat.pow_succ']
    omega

theorem crcShift_lt : ∀ n c, c < 2 ^ 64 → crcShift n c < 2 ^ 64
  | 0, _, h => h
  | n + 1, c, h => by
    rw [crcShift]
    refine crcShift_lt n _ ?_
    split
    · exact Nat.xor_lt_two_pow (Nat.mod_lt _ (by decide)) (by decide)
    · omega

theorem crcFold_lt : ∀ (l : List Byte) (c : Nat), c < 2 ^ 64 →
    l.foldl (fun c b => crcShift 8 (c ^^^ (b.toNat <<< 56))) c < 2 ^ 64
  | [], _, h => h
  | b :: l, c, h => by
    have hb : b.toNat <<< 56 < 2 ^ 64 := by
      have := b.isLt
      rw [Nat.shiftLeft_eq]
      omega
    rw [List.foldl_cons]
    exact crcFold_lt l _ (crcShift_lt _ _ (Nat.xor_lt_two_pow h hb))

theorem crc64_lt (l : List Byte) : crc64 l < 2 ^ 64 := by
  unfold crc64
  exact Nat.xor_lt_two_pow (crcFold_lt l _ (by omega)) (by omega)

/-- A flit of the tests is whole. -/
theorem flit_good (h : Nat) (payload : List Byte) : flitGood (flit h payload).bytes = true := by
  have hb : (leBytes 8 h ++ fit 240 payload).length = 248 := by simp [leBytes_length, fit_length]
  have hc := crc64_lt (leBytes 8 h ++ fit 240 payload)
  have hm : leVal (leBytes 8 (crc64 (leBytes 8 h ++ fit 240 payload))) = crc64 (leBytes 8 h ++ fit 240 payload) := by
    rw [leVal_leBytes]
    exact Nat.mod_eq_of_lt hc
  simp only [flitGood, flit, List.length_append, leBytes_length, fit_length, List.drop_left' hb, List.take_left' hb, hm]
  simp

theorem gfMulAux_zero_right : ∀ k a, gfMulAux k a 0 = 0
  | 0, _ => rfl
  | k + 1, a => by simp [gfMulAux, gfMulAux_zero_right k]

theorem gfMulAux_zero_left : ∀ k b, gfMulAux k 0 b = 0
  | 0, _ => rfl
  | k + 1, b => by simp [gfMulAux, gfMulAux_zero_left k]

/-- Four wrong symbols whose first three syndromes are zero. -/
def errs4 : SymErrs := [(32, 1), (33, 7), (34, 14), (35, 8)]

theorem errValue_zero (x : Nat) (o : List Nat) (h : o.length ≤ 2) : errValue [0, 0, 0, 159] x o = 0 := by
  match o, h with
  | [], _ => simp [errValue, locPoly, gfMul, gfMulAux_zero_left, gfMulAux_zero_right, nth, List.range_succ]
  | [a], _ => simp [errValue, locPoly, gfMul, gfMulAux_zero_left, gfMulAux_zero_right, nth, List.range_succ]
  | [a, b], _ => simp [errValue, locPoly, gfMul, gfMulAux_zero_left, gfMulAux_zero_right, nth, List.range_succ]

theorem find_none (l : List (List Nat)) (ok : List Nat → Bool) (h : ∀ ps ∈ l, ok ps = false) : l.find? ok = none :=
  List.find?_eq_none.2 (fun ps hp => by rw [h ps hp]; exact Bool.false_ne_true)

theorem posSets_length (n : Nat) (ps : List Nat) (h : ps ∈ posSets n 2 []) : ps.length ≤ 2 := by
  simp only [posSets, Nat.le_refl, if_true, show 1 ≤ 2 from by omega, List.mem_append, List.mem_singleton, List.mem_map,
    List.mem_flatMap] at h
  obtain (rfl | ⟨p, _, rfl⟩) | ⟨p, _, q, _, rfl⟩ := h
  · exact Nat.zero_le _
  · exact Nat.le_succ _
  · exact Nat.le_refl _

theorem solveAt_zero (ps : List Nat) (h : ps.length ≤ 2) : ∀ e ∈ solveAt 36 [0, 0, 0, 159] ps, e.2 = 0 := by
  intro e he
  obtain ⟨p, _, rfl⟩ := List.mem_map.1 he
  refine errValue_zero _ _ ?_
  rw [List.length_map]
  exact Nat.le_trans (List.length_filter_le ..) h

theorem rs_ok_false (ps : List Nat) (h : ps.length ≤ 2) :
    ((syndromes 36 (solveAt 36 [0, 0, 0, 159] ps) == [0, 0, 0, 159]) &&
      (solveAt 36 [0, 0, 0, 159] ps).all (fun e => ([] : List Nat).contains e.1 || e.2 ≠ 0)) = false := by
  have hz := solveAt_zero ps h
  generalize solveAt 36 [0, 0, 0, 159] ps = l at hz
  cases l with
  | nil => decide
  | cons e r =>
    have := hz e (List.mem_cons_self ..)
    simp [this]

theorem rsDecode_none (n : Nat) (syn : List Nat) (h : syn.all (· == 0) = false)
    (hf : ∀ ps ∈ posSets n 2 [], ((syndromes n (solveAt n syn ps) == syn) &&
      (solveAt n syn ps).all (fun e => ([] : List Nat).contains e.1 || e.2 ≠ 0)) = false) :
    rsDecode n [] syn = .uncorrectable := by
  have hn := find_none (posSets n 2 []) _ hf
  unfold rsDecode
  rw [if_neg (by rw [h]; exact Bool.false_ne_true)]
  simp only [List.nil_append, List.length_nil, Nat.sub_zero, Nat.reduceDiv, hn]

theorem errs4_uncorrectable : strongDecode (symErrs errs4) = .uncorrectable := by
  have hs : syndromes 36 (symErrs errs4) = [0, 0, 0, 159] := by decide +kernel
  unfold strongDecode
  rw [hs]
  exact rsDecode_none 36 _ (by decide) (fun ps hp => rs_ok_false ps (posSets_length 36 ps hp))

theorem serial16_eq : serial16 = fit 16 Config.serial := by
  have h := fit_length 16 Config.serial
  refine List.ext_getElem (by rw [h]; rfl) (fun i h1 h2 => ?_)
  simp only [serial16, List.getElem_map, List.getElem_range, sb]
  exact (List.getElem_eq_getD 0).symm

theorem image_ok (s : State) (h0 : s.otp.vendor0 = hash1) (h1 : s.otp.revoke0 = false) (h2 : s.otp.arb ≤ 3) :
    s.imageCheck fwImage = 0 := by
  have a1 : imgField fwImage 0xD 1 = 0 := by decide +kernel
  have a2 : (fwImage.drop 0x10).take 57 = key1 := by decide +kernel
  have a3 : (fwImage.drop 0x49).take 114 = sig1 := by decide +kernel
  have a4 : imgField fwImage 0xC 1 = 3 := by decide +kernel
  have a5 : ¬(fwImage.take 4 ≠ ascii "QKFW" ∨ imgField fwImage 4 2 ≠ 1 ∨ fwImage.length < 256 ∨
      imgField fwImage 8 4 ≠ fwImage.length ∨ 2 ^ 25 < fwImage.length) := by decide +kernel
  unfold State.imageCheck
  simp only [a1, a2, a3, a4, edVerify_neutral, keyHash_key1, State.vendorSlot, h0, h1]
  rw [if_neg a5]
  simp
  omega

theorem unlock_facts (scope : Nat) (h : scope < 256) :
    recByte (fit 256 (unlock scope)) 2 = 0 ∧ recByte (fit 256 (unlock scope)) 3 = scope ∧
    ((fit 256 (unlock scope)).drop 8).take 16 = List.replicate 16 9 ∧
    ((fit 256 (unlock scope)).drop 0x18).take 16 = serial16 ∧ ((fit 256 (unlock scope)).drop 0x28).take 57 = key1 ∧
    ((fit 256 (unlock scope)).drop 0x88).take 114 = sig1 := by
  refine ⟨rfl, ?_, rfl, rfl, rfl, rfl⟩
  show (BitVec.ofNat 8 scope).toNat = scope
  rw [BitVec.toNat_ofNat, Nat.mod_eq_of_lt h]

theorem unlock_ok (s : State) (scope at_ : Nat) (h : scope < 8) (hc : s.sec.challenge = some (List.replicate 16 9, at_))
    (ht : s.hoop - at_ ≤ 72000000000) (ho : s.opSlot 0 = { hash := hash1, roles := 7 }) :
    s.responseCheck (fit 256 (unlock scope)) = 0 := by
  obtain ⟨a1, a2, a3, a4, a5, a6⟩ := unlock_facts scope (by omega)
  unfold State.responseCheck
  simp only [a1, a2, a3, a4, a5, a6, hc, ho, edVerify_neutral, keyHash_key1, serial16_eq, ht]
  have hb : bit 7 1 = true ∧ bit 7 2 = true := by decide
  have hk : hash1.isEmpty = false := by
    cases hh : hash1 with
    | nil => exact absurd hh hash1_ne
    | cons a r => rfl
  simp [hb.1, hb.2, hk]
  omega

/-- Body, slot, key and signature in the buffer of FABRIC_PLAN, for a body whose length field says 3,408. -/
theorem plan_facts_of (b : List Byte) (hl : b.length = 3408) (hp : ∀ l, planLen (b ++ l) = 3408) :
    let d := fit 3584 (b ++ [0] ++ key1 ++ sig1)
    planLen d = 3408 ∧ d.take 3408 = b ∧ recByte (fit 172 (d.drop 3408)) 0 = 0 ∧
    ((fit 172 (d.drop 3408)).drop 1).take 57 = key1 ∧ (fit 172 (d.drop 3408)).drop 58 = sig1 := by
  have hd : fit 3584 (b ++ [0] ++ key1 ++ sig1) = b ++ ([0] ++ key1 ++ sig1 ++ List.replicate 4 0) := by
    have h2 : (List.replicate 3584 (0 : Byte)) = List.replicate 4 0 ++ List.replicate 3580 0 := by
      rw [List.replicate_append_replicate]
    unfold fit
    rw [h2]
    have : b ++ [0] ++ key1 ++ sig1 ++ (List.replicate 4 0 ++ List.replicate 3580 0) =
        (b ++ ([0] ++ key1 ++ sig1 ++ List.replicate 4 0)) ++ List.replicate 3580 0 := by
      simp only [List.append_assoc]
    rw [this]
    refine List.take_left' ?_
    rw [List.length_append, hl]
    decide +kernel
  rw [hd]
  dsimp only
  rw [List.take_left' hl, List.drop_left' hl]
  exact ⟨hp _, rfl, by decide +kernel, by decide +kernel, by decide +kernel⟩

/-- A body of format version 2. -/
def planBad : List Byte := 2 :: planBody.tail

theorem plan_len (x : Byte) (l : List Byte) : planLen (x :: planBody.tail ++ l) = 3408 := by
  show leVal [16 + 64, 13, 0, 0] = 3408
  decide

theorem plan_serial : (planBody.drop 0x20).take 16 = serial16 := by
  have h32 : (fit 32 (leBytes 4 1 ++ leBytes 4 3408 ++ leBytes 8 77 ++ leBytes 4 1)).length = 32 := fit_length ..
  unfold planBody
  rw [List.append_assoc, List.drop_left' h32, List.take_left' (by decide +kernel)]

theorem plan_facts : let d := fit 3584 (planBody ++ [0] ++ key1 ++ sig1)
    planLen d = 3408 ∧ d.take 3408 = planBody ∧ recByte (fit 172 (d.drop 3408)) 0 = 0 ∧
    ((fit 172 (d.drop 3408)).drop 1).take 57 = key1 ∧ (fit 172 (d.drop 3408)).drop 58 = sig1 :=
  plan_facts_of planBody (by decide +kernel) (plan_len 1)

theorem plan_facts_bad : let d := fit 3584 (planBad ++ [0] ++ key1 ++ sig1)
    planLen d = 3408 ∧ d.take 3408 = planBad ∧ recByte (fit 172 (d.drop 3408)) 0 = 0 ∧
    ((fit 172 (d.drop 3408)).drop 1).take 57 = key1 ∧ (fit 172 (d.drop 3408)).drop 58 = sig1 :=
  plan_facts_of planBad (by decide +kernel) (plan_len 2)

theorem plan_bytes : (List.range 0xD50).all (fun i => recByte planBody i == 0 ||
    planUsed.any (fun u => decide (u.1 ≤ i ∧ i < u.1 + u.2))) = true := by
  have hA : (fit 32 (leBytes 4 1 ++ leBytes 4 3408 ++ leBytes 8 77 ++ leBytes 4 1)).length = 32 := fit_length ..
  have hd : ∀ i < 32, (recByte (fit 32 (leBytes 4 1 ++ leBytes 4 3408 ++ leBytes 8 77 ++ leBytes 4 1)) i == 0 ||
    planUsed.any (fun u => decide (u.1 ≤ i ∧ i < u.1 + u.2))) = true := by decide +kernel
  refine List.all_eq_true.2 (fun i _ => ?_)
  by_cases hs : 32 ≤ i ∧ i < 48
  · rw [Bool.or_eq_true]
    refine Or.inr (List.any_eq_true.2 ⟨(0x20, 0x1F), ?_, decide_eq_true (by omega)⟩)
    simp [planUsed]
  · by_cases h : i < 32
    · have : recByte planBody i = recByte (fit 32 (leBytes 4 1 ++ leBytes 4 3408 ++ leBytes 8 77 ++ leBytes 4 1)) i := by
        unfold recByte planBody
        rw [List.append_assoc, List.getD_eq_getElem?_getD, List.getElem?_append_left (by rw [hA]; exact h),
          ← List.getD_eq_getElem?_getD]
      rw [this]
      exact hd i h
    · have hB : (fit 32 (leBytes 4 1 ++ leBytes 4 3408 ++ leBytes 8 77 ++ leBytes 4 1) ++ serial16).length = 48 := by
        rw [List.length_append, hA]
        rfl
      have : recByte planBody i = 0 := by
        unfold recByte planBody
        rw [List.getD_eq_getElem?_getD, List.getElem?_append_right (by rw [hB]; omega), List.getElem?_replicate]
        split <;> rfl
      rw [this]
      rfl

theorem plan_ok : planOk planBody = true := by
  unfold planOk
  rw [plan_bytes]
  decide +kernel

theorem ownHash_lt : ownHash < 2 ^ 64 := by
  refine Nat.lt_of_lt_of_le (leVal_lt _) ?_
  have : (shake256 (fit 16 Config.serial) 8).length ≤ 8 := by
    unfold shake256
    exact List.length_take_le ..
  exact Nat.pow_le_pow_right (by omega) this

/-- Fields of an EXPLORE with an address and an origin of 0xFFFE. -/
theorem explore_facts (h : Nat) (hh : h < 2 ^ 64) :
    pkAddr (BitVec.ofNat 128 (mkU1 h 0xFFFE 0 none 0 0)).toNat = h ∧
    pkOperand (BitVec.ofNat 128 (mkU1 h 0xFFFE 0 none 0 0)).toNat = 0xFFFE := by
  have e : mkU1 h 0xFFFE 0 none 0 0 = h * 2 ^ 64 + 0xFFFE * 2 ^ 32 := by simp [mkU1]
  have e2 : (BitVec.ofNat 128 (mkU1 h 0xFFFE 0 none 0 0)).toNat = h * 2 ^ 64 + 0xFFFE * 2 ^ 32 := by
    rw [BitVec.toNat_ofNat, e]
    omega
  rw [e2]
  simp only [pkAddr, pkOperand, bits, Nat.shiftRight_eq_div_pow]
  omega

theorem pair_eta {α β : Type} {o : α × β} {a : α} (h : o.1 = a) : o = (a, o.2) := by
  subst h
  rfl

theorem some_pair {α β : Type} (o : Option α × β) (h : o.1.isSome = true) : o = (some (o.1.get h), o.2) :=
  pair_eta (Option.some_get h).symm

/-- The state of the CRC after some bytes. -/
def crcRun (c : Nat) (l : List Byte) : Nat := l.foldl (fun c b => crcShift 8 (c ^^^ (b.toNat <<< 56))) c

theorem crcRun_append (c : Nat) (l m : List Byte) : crcRun c (l ++ m) = crcRun (crcRun c l) m := List.foldl_append

theorem crc64_eq (l : List Byte) : crc64 l = crcRun (2 ^ 64 - 1) l ^^^ (2 ^ 64 - 1) := rfl

theorem crc_head : crcRun (2 ^ 64 - 1) (leBytes 4 (1 + 2 ^ 24) ++ leBytes 4 256 ++ leBytes 8 9) = 13283027115948224753 := by decide +kernel
theorem crc_z0 : crcRun 13283027115948224753 (List.replicate 48 0) = 7623638781804274938 := by decide +kernel
theorem crc_z1 : crcRun 7623638781804274938 (List.replicate 48 0) = 467758883042680698 := by decide +kernel
theorem crc_z2 : crcRun 467758883042680698 (List.replicate 48 0) = 14816158959379876073 := by decide +kernel
theorem crc_z3 : crcRun 14816158959379876073 (List.replicate 48 0) = 5683533085619762441 := by decide +kernel
theorem crc_z4 : crcRun 5683533085619762441 (List.replicate 48 0) = 3176276386653832533 := by decide +kernel

theorem crc_rec9 : crc64 (rec9.take 0x38 ++ List.replicate 8 0 ++ rec9.drop 0x40) = 15270467687055719082 := by
  have h : rec9.take 0x38 ++ List.replicate 8 0 ++ rec9.drop 0x40 = (leBytes 4 (1 + 2 ^ 24) ++ leBytes 4 256 ++ leBytes 8 9) ++
      (List.replicate 48 0 ++ (List.replicate 48 0 ++ (List.replicate 48 0 ++ (List.replicate 48 0 ++ List.replicate 48 0)))) := by
    decide +kernel
  rw [h, crc64_eq, crcRun_append, crcRun_append, crcRun_append, crcRun_append, crcRun_append, crc_head, crc_z0, crc_z1, crc_z2,
    crc_z3, crc_z4]
  decide +kernel

theorem record_rec9 : recordOk rec9 9 = some rec9 := by
  have h : pktField rec9 4 4 = 256 := by decide +kernel
  have ht : rec9.take 256 = rec9 := by decide +kernel
  unfold recordOk
  simp only [h, ht, crc_rec9]
  exact if_pos (by decide +kernel)

theorem crc_head5 : crcRun (2 ^ 64 - 1) (leBytes 4 (1 + 2 ^ 24) ++ leBytes 4 336 ++ leBytes 8 9 ++ List.replicate 34 0 ++ [5] ++
    List.replicate 5 0) = 936045189858633566 := by decide +kernel
theorem crc_y0 : crcRun 936045189858633566 (List.replicate 56 0) = 16687168215160144343 := by decide +kernel
theorem crc_y1 : crcRun 16687168215160144343 (List.replicate 56 0) = 14279965482558490598 := by decide +kernel
theorem crc_y2 : crcRun 14279965482558490598 (List.replicate 56 0) = 6298860938534830510 := by decide +kernel
theorem crc_y3 : crcRun 6298860938534830510 (List.replicate 56 0) = 15513620215094042027 := by decide +kernel
theorem crc_y4 : crcRun 15513620215094042027 (List.replicate 56 0) = 7914102100606630000 := by decide +kernel

theorem crc_rec5 : crc64 (rec5.take 0x38 ++ List.replicate 8 0 ++ rec5.drop 0x40) = 10532641973102921615 := by
  have h : rec5.take 0x38 ++ List.replicate 8 0 ++ rec5.drop 0x40 = (leBytes 4 (1 + 2 ^ 24) ++ leBytes 4 336 ++ leBytes 8 9 ++
      List.replicate 34 0 ++ [5] ++ List.replicate 5 0) ++
      (List.replicate 56 0 ++ (List.replicate 56 0 ++ (List.replicate 56 0 ++ (List.replicate 56 0 ++ List.replicate 56 0)))) := by
    decide +kernel
  rw [h, crc64_eq, crcRun_append, crcRun_append _ (List.replicate 56 0), crcRun_append _ (List.replicate 56 0),
    crcRun_append _ (List.replicate 56 0), crcRun_append _ (List.replicate 56 0), crc_head5, crc_y0, crc_y1, crc_y2, crc_y3, crc_y4]
  decide +kernel

theorem record_rec5 : recordOk rec5 9 = some rec5 := by
  have h : pktField rec5 4 4 = 336 := by decide +kernel
  have ht : rec5.take 336 = rec5 := by decide +kernel
  unfold recordOk
  simp only [h, ht, crc_rec5]
  exact if_pos (by decide +kernel)

theorem slotRecord_of (d : List Byte) (n : Nat) (hr : recordOk d 9 = some d) (hm : max 256 (min n (2 ^ 19)) = n) (s t u : State)
    (b c : Bool) (h1 : s.memNat (s.slotBase 0 0 + 4) 4 = (n, b, t)) (h2 : t.memRead (t.slotBase 0 0) n 1 = (d, c, u)) :
    s.slotRecord 0 0 9 = (some d, u) := by
  unfold State.slotRecord
  simp only [h1, hm, h2, hr]

theorem findSlot_of (d : List Byte) (n : Nat) (hr : recordOk d 9 = some d) (hm : max 256 (min n (2 ^ 19)) = n) (s t u : State)
    (b c : Bool) (h0 : (s.newest 0).getD 0 = 0) (h1 : s.memNat (s.slotBase 0 0 + 4) 4 = (n, b, t))
    (h2 : t.memRead (t.slotBase 0 0) n 1 = (d, c, u)) : s.findSlot 0 9 = (some (0, d), u) := by
  unfold State.findSlot
  simp only [h0, slotRecord_of d n hr hm s t u b c h1 h2]
  rfl

theorem pair_eta3 {α β γ : Type} {o : α × β × γ} {a : α} (h : o.1 = a) : o = (a, o.2.1, o.2.2) := by
  subst h
  rfl

theorem eq_of_pair {α β : Type} {o : α × β} {a : α} {b : β} (h : o = (a, b)) : b = o.2 := by
  subst h
  rfl

/-- Found in the record's state, with the state that the search leaves. -/
theorem findSlot_some (d : List Byte) (n : Nat) (hr : recordOk d 9 = some d) (hm : max 256 (min n (2 ^ 19)) = n) (s : State)
    (h0 : (s.newest 0).getD 0 = 0) (h1 : (s.memNat (s.slotBase 0 0 + 4) 4).1 = n)
    (h2 : ((s.memNat (s.slotBase 0 0 + 4) 4).2.2.memRead ((s.memNat (s.slotBase 0 0 + 4) 4).2.2.slotBase 0 0) n 1).1 = d) :
    s.findSlot 0 9 = (some (0, d),
      ((s.memNat (s.slotBase 0 0 + 4) 4).2.2.memRead ((s.memNat (s.slotBase 0 0 + 4) 4).2.2.slotBase 0 0) n 1).2.2) :=
  findSlot_of d n hr hm s _ _ _ _ h0 (pair_eta3 h1) (pair_eta3 h2)

/-- The states of the restore's and of the replay's witness, and what their search finds. -/
def stRestore : State := hsR [] (hp 0x42 0 (9 * 2 ^ 128 + 64 * 2 ^ 256 + 64 * 2 ^ 320)) {}
def stReplay : State :=
  hsR [(aMpPartStatus 0, 0xC0000000)] (hp 0x43 0 (9 * 2 ^ 128 + 12 * 2 ^ 192 + 1 * 2 ^ 256)) { loads := [slk] }
def stFull : State :=
  { hsR [] (hp 0x42 0 (9 * 2 ^ 128 + 64 * 2 ^ 256 + 64 * 2 ^ 320)) {} with
    mem := { ddr := (rec5.zipIdx.map (fun x => (x.2, x.1))).filter (fun x => x.2 ≠ 0) } }
def stUnarmed : State := stReplay.wrN (aCeOpCount 0) 1
def afterSearch (s : State) (n : Nat := 256) : State :=
  ((s.memNat (s.slotBase 0 0 + 4) 4).2.2.memRead ((s.memNat (s.slotBase 0 0 + 4) 4).2.2.slotBase 0 0) n 1).2.2

theorem restore_found : (stRestore.takeAt 0).findSlot 0 9 = (some (0, rec9), afterSearch (stRestore.takeAt 0)) :=
  findSlot_some rec9 256 record_rec9 (by decide) _ (by decide +kernel) (by decide +kernel) (by decide +kernel)

theorem replay_found : (stReplay.takeAt 0).findSlot 0 9 = (some (0, rec9), afterSearch (stReplay.takeAt 0)) :=
  findSlot_some rec9 256 record_rec9 (by decide) _ (by decide +kernel) (by decide +kernel) (by decide +kernel)

theorem full_found : (stFull.takeAt 0).findSlot 0 9 = (some (0, rec5), afterSearch (stFull.takeAt 0) 336) :=
  findSlot_some rec5 336 record_rec5 (by decide) _ (by decide +kernel) (by decide +kernel) (by decide +kernel)

theorem unarmed_found : (stUnarmed.takeAt 0).findSlot 0 9 = (some (0, rec9), afterSearch (stUnarmed.takeAt 0)) :=
  findSlot_some rec9 256 record_rec9 (by decide) _ (by decide +kernel) (by decide +kernel) (by decide +kernel)

theorem full_cursors :
    64 < (recCursors rec5 ++ ((afterSearch (stFull.takeAt 0) 336).mismatches rec5).flatMap (leBytes 2 ·)).length := by
  decide +kernel

theorem restore_cursors :
    (recCursors rec9 ++ ((afterSearch (stRestore.takeAt 0)).mismatches rec9).flatMap (leBytes 2 ·)).length ≤ 64 := by
  decide +kernel

/-- The state in which the restored partition's table is armed. -/
def rearmed (s : State) : State := (s.restoreFrom 0 9 0 rec9).blocksBack 0 []

theorem replay_arms :
    ((rearmed (afterSearch (stReplay.takeAt 0))).arm 0 ((rearmed (afterSearch (stReplay.takeAt 0))).rdN (aCeOpBase 0))
      ((rearmed (afterSearch (stReplay.takeAt 0))).rdN (aCeOpCount 0)) none).1 = true := by
  decide +kernel

theorem unarmed_fails :
    ((rearmed (afterSearch (stUnarmed.takeAt 0))).arm 0 ((rearmed (afterSearch (stUnarmed.takeAt 0))).rdN (aCeOpBase 0))
      ((rearmed (afterSearch (stUnarmed.takeAt 0))).rdN (aCeOpCount 0)) none).1 = false := by
  decide +kernel

/-- A run that ended in an error, and one that ended well. -/
theorem except_error {ε α β : Type} [DecidableEq ε] {x : Except ε α × β} {e : ε}
    (h : (match x.1 with | .error d => decide (d = e) | .ok _ => false) = true) : x = (.error e, x.2) := by
  obtain ⟨a, b⟩ := x
  cases a with
  | error d => exact congrArg (fun d => (Except.error d, b)) (of_decide_eq_true h)
  | ok _ => cases h

theorem except_ok {ε α β : Type} [DecidableEq α] {x : Except ε α × β} {a : α}
    (h : (match x.1 with | .ok d => decide (d = a) | .error _ => false) = true) : x = (.ok a, x.2) := by
  obtain ⟨y, b⟩ := x
  cases y with
  | error _ => cases h
  | ok d => exact congrArg (fun d => (Except.ok d, b)) (of_decide_eq_true h)

/-- Accepts, as a Boolean. -/
def acceptsB (s : State) (op : Nat) (limits : List Limit) (k : List Byte) (i : Nat) : Bool :=
  match hostRow op with
  | some r => decide ((s.serves op = true ∧ (∀ x ∈ s.host.fifo, (hostRow (pktOpcode x)).isSome = true) ∧ s.asleep = false ∧
      s.nextPacket op = some (k, i) ∧ ((op = 0x32 ∨ op = 0x33) → s.heldBack op = false)) ∧
      modeStatus (s.serveMode op) op = none ∧ s.packetFault r k limits = none)
  | none => false

theorem accepts_iff (s : State) (op : Nat) (limits : List Limit) (k : List Byte) (i : Nat) :
    s.accepts op limits k i ↔ acceptsB s op limits k i = true := by
  unfold State.accepts State.serving acceptsB
  cases hostRow op with
  | none => exact ⟨fun ⟨_, _, _, h, _⟩ => (nomatch h), fun h => (nomatch h)⟩
  | some r => exact ⟨fun ⟨a, b, _, h, c⟩ => decide_eq_true ⟨a, b, by cases h; exact c⟩,
      fun h => have ⟨a, b, c⟩ := of_decide_eq_true h; ⟨a, b, r, rfl, c⟩⟩

def s1 : State := hs [(aCntClear, 0)] []
def s2 : State := hs [(aCntClear, 2 ^ 31)] []
def s3 : State := hs [(aDbgFreezeCtrl, 4), (aLnkStatus 9, lkActive * 2 ^ 8)] []
def s4 : State := hs [(aDbgFreezeCtrl, 0)] []
def s5 : State := hs [(aDbgFreezeCtrl, 8), (aDbgFreezeStatus, 2 ^ 9), (aDbgFreezeAt, 200), (aLnkStatus 9, lkActive * 2 ^ 8)] []
def s6 : State := hs [(aDbgFreezeCtrl, 16), (aDbgFreezeStatus, 0), (aLnkStatus 15, 4 + lkActive * 2 ^ 8)] []
def s7 : State := hs [(aDbgFreezeStatus, 2 ^ 10 + 2 ^ 9), (aDbgFreezeAt, 200)] []
def s8 : State := { hs [(aDbgFreezeCtrl, 2 ^ 7)] [] with dbg := { breakDue := true } }
def s9 : State := { hs [] [] with pwr := {} }
def s10 : State := hs [(aHifStatus, 2 ^ 6 + 1)] []

set_option profiler true
set_option Elab.async false
set_option profiler.threshold 400
theorem w0 :
    (let clears (s : State) (req : Requester) (v : BitVec 32) : Prop := s.admits req aCntClear false ∧ s.holdsNone (reqKey req) ∧
      bit v.toNat 0 = true ∧ s.getF aCntClear 31 31 = 0;
     ∃ s : State, ∃ req : Requester, ∃ v : BitVec 32, clears s req v ∧ bits v.toNat 29 28 = 0) :=
  ⟨s1, .mp, 1 + 2 ^ 15 + 1023 * 2 ^ 18, by unfold State.admits State.holdsNone; (try dsimp only); decide +kernel⟩

theorem w1 :
    (let clears (s : State) (req : Requester) (v : BitVec 32) : Prop := s.admits req aCntClear false ∧ s.holdsNone (reqKey req) ∧
      bit v.toNat 0 = true ∧ s.getF aCntClear 31 31 = 0;
     ∃ s : State, ∃ req : Requester, ∃ v : BitVec 32, clears s req v ∧ bits v.toNat 29 28 ≠ 0 ∧
     ((if bits v.toNat 29 28 = 3 then 8 else 16) ≤ bits v.toNat 27 18)) :=
  ⟨s1, .mp, 1 + 2 ^ 15 + 1023 * 2 ^ 18 + 2 ^ 28, by unfold State.admits State.holdsNone; (try dsimp only); decide +kernel⟩

theorem w2 :
    (let clears (s : State) (req : Requester) (v : BitVec 32) : Prop := s.admits req aCntClear false ∧ s.holdsNone (reqKey req) ∧
      bit v.toNat 0 = true ∧ s.getF aCntClear 31 31 = 0;
     ∃ s : State, ∃ req : Requester, ∃ v : BitVec 32, ∃ p : PortId, clears s req v ∧ bits v.toNat 29 28 = 1 ∧
     bits v.toNat 27 18 = p.val) :=
  ⟨s1, .mp, 1 + 15 * 2 ^ 18 + 1 * 2 ^ 28, 15, by unfold State.admits State.holdsNone; (try dsimp only); decide +kernel⟩

theorem w3 :
    (let clears (s : State) (req : Requester) (v : BitVec 32) : Prop := s.admits req aCntClear false ∧ s.holdsNone (reqKey req) ∧
      bit v.toNat 0 = true ∧ s.getF aCntClear 31 31 = 0;
     ∃ s : State, ∃ req : Requester, ∃ v : BitVec 32, ∃ c : ChanId, clears s req v ∧ bits v.toNat 29 28 = 2 ∧
     bits v.toNat 27 18 = c.val) :=
  ⟨s1, .mp, 1 + 15 * 2 ^ 18 + 2 * 2 ^ 28, 15, by unfold State.admits State.holdsNone; (try dsimp only); decide +kernel⟩

theorem w4 :
    (let clears (s : State) (req : Requester) (v : BitVec 32) : Prop := s.admits req aCntClear false ∧ s.holdsNone (reqKey req) ∧
      bit v.toNat 0 = true ∧ s.getF aCntClear 31 31 = 0;
     ∃ s : State, ∃ req : Requester, ∃ v : BitVec 32, ∃ h : Fin 8, clears s req v ∧ bits v.toNat 29 28 = 3 ∧
     bits v.toNat 27 18 = h.val) :=
  ⟨s1, .mp, 1 + 7 * 2 ^ 18 + 3 * 2 ^ 28, 7, by unfold State.admits State.holdsNone; (try dsimp only); decide +kernel⟩

theorem w5 :
    (∃ s : State, ∃ req : Requester, ∃ v : BitVec 32, s.admits req aCntClear false ∧ s.holdsNone (reqKey req) ∧
     bit v.toNat 0 = false) :=
  ⟨s1, .mp, 7 * 2 ^ 18 + 3 * 2 ^ 28, by unfold State.admits State.holdsNone; decide +kernel⟩

theorem w6 :
    (∃ s : State, ∃ req : Requester, ∃ v : BitVec 32, s.admits req aCntClear false ∧ s.holdsNone (reqKey req) ∧
     bit v.toNat 0 = true ∧ s.getF aCntClear 31 31 = 1) :=
  ⟨s2, .mp, 1, by unfold State.admits State.holdsNone; decide +kernel⟩

theorem w7 :
    (∃ s : State, s.dbgEn 2 = true ∧ 8 ≤ s.pwr.released ∧ s.frozen = false) :=
  ⟨s3, by decide +kernel⟩

theorem w8 :
    (∃ s : State, ∃ on : Bool, (on = false ∨ s.dbgEn 2 = false ∨ s.pwr.released < 8 ∨ s.frozen = true)) :=
  ⟨s4, true, by decide +kernel⟩

theorem w9 :
    (∃ s : State, s.getF aDbgFreezeStatus 9 9 = 1 ∧ s.frozen = false) :=
  ⟨s5, by decide +kernel⟩

theorem w10 :
    (∃ s : State, ∃ p : PortId, s.dbgEn 4 = true ∧ s.getF aDbgFreezeStatus 9 9 = 0 ∧ s.getF (aLnkStatus p.val) 2 2 = 1 ∧
     s.frozen = false) :=
  ⟨s6, 15, by decide +kernel⟩

theorem w11 :
    (∃ s : State, s.getF aDbgFreezeStatus 9 9 = 0) :=
  ⟨s1, by decide +kernel⟩

theorem w12 :
    (∃ s : State, s.getF aDbgFreezeStatus 9 9 = 1 ∧ s.frozen = true) :=
  ⟨s7, by decide +kernel⟩

theorem w13 :
    (∃ s : State, (s.dbg.breakDue = false ∨ s.dbgEn 7 = false) ∧ s.live) :=
  ⟨s1, by unfold State.live; decide +kernel⟩

theorem w14 :
    (∃ s : State, ∃ p : PortId,
     (s.dbgEn 4 = false ∨ s.getF aDbgFreezeStatus 9 9 = 1 ∨ s.getF (aLnkStatus p.val) 2 2 = 0 ∨ s.frozen = true)) :=
  ⟨s4, 15, by decide +kernel⟩

theorem w15 :
    (∃ s : State, s.live ∧ s.dbg.breakDue = true ∧ s.dbgEn 7 = true) :=
  ⟨s8, by unfold State.live; decide +kernel⟩

theorem w16 :
    (∃ s : State, s.pwr.released ≠ 0 ∧ s.pwr.thermtrip = false) :=
  ⟨s1, by decide +kernel⟩

theorem w17 :
    (∃ s : State, s.pwr.deasserted = true) :=
  ⟨s1, by decide +kernel⟩

theorem w18 :
    (∃ s : State, s.pwr.deasserted = false) :=
  ⟨s9, by decide +kernel⟩

theorem w19 :
    (∃ s : State, s.getF aHifStatus 6 6 = 0) :=
  ⟨s1, by decide +kernel⟩

theorem w20 :
    (∃ s : State, s.getF aHifStatus 6 6 = 1) :=
  ⟨s10, by decide +kernel⟩

theorem w21 :
    (∃ s : State, (s.pwr.released = 0 ∨ s.pwr.thermtrip = true)) :=
  ⟨s9, by decide +kernel⟩

/-! ### Ill-formed commands: one for each check of `Instr.wf` -/

/-- A flit of 255 bytes, and a packet whose payload is shorter than its header says. -/
def badFlit : Flit := { bytes := List.replicate 255 0, words := [] }
def badPacket : Packet := { u0 := 2 ^ 16, u1 := 0, payload := [] }

theorem test_wf_aperture_empty : Instr.wf (.apertureWrite 0 []) = false := by decide
theorem test_wf_aperture_long : Instr.wf (.apertureWrite 0 (List.replicate 513 0)) = false := by decide +kernel
theorem test_wf_buffer (l : List Byte) (h : 2 ^ 24 < l.length) : Instr.wf (.loadImageData (some l)) = false := by
  simp only [Instr.wf, bufferOk, decide_eq_false_iff_not]
  omega
theorem test_wf_buffer_none : Instr.wf (.loadImageData none) = true := by decide
theorem test_wf_coalesce : Instr.wf (.interruptCoalTimeout 18) = false ∧ Instr.wf (.interruptCoalTimeout 17) = true := by decide
theorem test_wf_width : Instr.wf (.registerWrite .host 0 false (2 ^ 32)) = false ∧
    Instr.wf (.registerWrite .host 0 true (2 ^ 32)) = true := by decide +kernel
theorem test_wf_rng_width : Instr.wf (.veRngCtrWrite .mp 3 5 false (some true) (2 ^ 32)) = false ∧
    Instr.wf (.veRngCtrWrite .mp 3 5 false none (2 ^ 32)) = true := by decide +kernel
theorem test_wf_fetch_block : Instr.wf (.slathFetchReturn 3 65536 [] []) = false ∧
    Instr.wf (.slathFetchReturn 3 65535 [] []) = true := by decide
theorem test_wf_fetch_errors : Instr.wf (.slathFetchReturn 3 0 [[(1, 7), (1, 9)]] []) = false := by decide
theorem test_wf_write_back : Instr.wf (.correctedWriteBack 3 .spad 0 [(2, 0)]) = false := by decide
theorem test_wf_uncorrectable : Instr.wf (.uncorrectableRead 3 .ve .spad 0 [(2, 1), (2, 3)]) = false := by decide
theorem test_wf_l2 : Instr.wf (.l2Access 0 [[(0, 0)]] false) = false := by decide
theorem test_wf_scrub : Instr.wf (.patrolScrubRead 0 [[], [(4, 1), (4, 1)]]) = false := by decide
theorem test_wf_flit : Instr.wf (.dataFlitReceive 9 badFlit) = false := by decide +kernel
theorem test_wf_flit_lane : Instr.wf (.idleFlitReceive 9 { bytes := List.replicate 256 0, words := [(9, 1)] }) = false := by
  decide +kernel
theorem test_wf_message : Instr.wf (.hello 9 []) = false := by decide
theorem test_wf_packet : Instr.wf (.signal 9 badPacket) = false := by decide +kernel
theorem test_wf_context : Instr.wf (.tpTimeout 8192) = false := by decide
theorem test_wf_wake : Instr.wf (.wakeEvent 0) = false ∧ Instr.wf (.wakeEvent 5) = true ∧ Instr.wf (.wakeEvent 6) = false := by
  decide

/-! ### The queue of commands -/

theorem test_step_takes_the_front :
    step { State.reset with pending := [.identify, .unfreeze] } = exec .identify { State.reset with pending := [.unfreeze] } := rfl

theorem test_empty_queue_goes_on : (match step State.reset with | .next _ => true | _ => false) = true := by decide +kernel

/-! ### Worked examples of the spec -/

/-- FP32 to FP8-E4M3 with rnd = 0b10 (the example of R60–R62): lane 0 rounds up to 0x2B with r = 0xC9A1 and is inexact; with
r = 0x8000, or to nearest, it is 0x2A. -/
theorem test_convert_lane0 : Fmt.e4m3.convert (.stochastic 0xC9A1) 0 (Fmt.fp32.decode 0x3EA3D70A) = (0x2B, fInexact) ∧
    (Fmt.e4m3.convert (.stochastic 0x8000) 0 (Fmt.fp32.decode 0x3EA3D70A)).1 = 0x2A ∧
    (Fmt.e4m3.convert .nearest 0 (Fmt.fp32.decode 0x3EA3D70A)).1 = 0x2A := by decide +kernel

/-- Lane 1 overflows and saturates at 0x7E with saturated and inexact; ovf = 0b10 gives 0x7F; r = 0x1234 does not overflow. -/
theorem test_convert_lane1 : Fmt.e4m3.convert (.stochastic 0xB000) 0 (Fmt.fp32.decode 0x43E60000) = (0x7E, fSaturated + fInexact) ∧
    (Fmt.e4m3.convert (.stochastic 0xB000) 2 (Fmt.fp32.decode 0x43E60000)).1 = 0x7F ∧
    Fmt.e4m3.convert (.stochastic 0x1234) 0 (Fmt.fp32.decode 0x43E60000) = (0x7E, fInexact) := by decide +kernel

/-- Lane 2 lies above the greatest finite value for any r. -/
theorem test_convert_lane2 : (Fmt.e4m3.convert (.stochastic 0) 0 (Fmt.fp32.decode 0x44160000)).1 = 0x7E ∧
    (Fmt.e4m3.convert (.stochastic 0) 2 (Fmt.fp32.decode 0x44160000)).1 = 0x7F := by decide +kernel

/-- The ragged reduce-scatter (the example of R407, R312): BF16 on the wire gives 0x3B00, FP32 gives 0x3C20. -/
theorem test_ragged_bf16 :
    [0x3B80, 0x3B80, 0xBF80, 0x3B00].foldl (fun w x => narrow .bf16 (addCodes (widen .bf16 w) (widen .bf16 [x]))) [0x3F80] =
      [0x3B00] := by decide +kernel
theorem test_ragged_fp32 :
    narrow .bf16 ([0x3B80, 0x3B80, 0xBF80, 0x3B00].foldl (fun w x => addCodes w (widen .bf16 [x])) [0x3F800000]) = [0x3C20] := by
  decide +kernel
theorem test_ragged_lengths : evenLens 23 5 = [4, 4, 5, 5, 5] := by decide

/-- Offset 0x0003_5A7C_4E40 (the example of R328, R329): channel 13, local address 0x35A7_C440, rank 2, bank group 1, bank 1,
with four ranks. -/
theorem test_locate : chanOf 0x35A7C4E40 = 13 ∧ localOf 0x35A7C4E40 = 0x35A7C440 ∧ offOf 13 0x35A7C440 = 0x35A7C4E40 ∧
    State.bankOf (st [(aDdrStatus, 0xA0)]) 0x35A7C4E40 = 32 * 2 + 4 * 1 + 1 := by decide +kernel

/-- A compensated region (the example of R164, R165): entry 0 holds 1.0 and its compensation, entry 4, holds +0; 2^-25 is added
eight times. -/
def comp8 : State :=
  (List.range 8).foldl (fun s _ => s.gabAdd 3 0 0x33000000)
    (st3 [(aGabRegion 3 0, 2 ^ 63 + 2 ^ 62 + 4 * 2 ^ 32)] { gab := [(0, 0x3F800000)] })

theorem test_compensated : (comp8.tile 3).gabEntry 0 = 0x3F800000 ∧ (comp8.tile 3).gabEntry 4 = 0x34800000 ∧
    comp8.gabValue 3 0 = 0x3F800002 := by decide +kernel

/-- The object of R190's example: 0xFFFF_FFF0 and add 0x20 give 0x10, and a wait for 0xFFFF_FFF8 then holds. -/
theorem test_object_wraps : (((State.reset.setObj 7 0xFFFFFFF0).applyObj 7 false 0x20).obj 7) = 0x10 ∧
    waitHolds 0x10 0xFFFFFFF8 = true ∧ waitHolds 0xFFFFFFF0 0xFFFFFFF8 = false := by decide +kernel

/-- The reply to the rejected slath load (the example of R462–R468): a ring of 1,024 entries whose tail stands at 2,050. -/
def rejected : State :=
  (st [(aHifStatus, 1), (aHifRingBase, 0x10000), (aHifRingCtrl, 0x18A), (aHifRingHead, 2050), (aHifRingTail, 2050)]).reply
    ([0x30, 0, 0x17, 0x0A, 3, 0, 0, 0] ++ List.replicate 120 0) 7 0x000003FF00000412 0

theorem test_rejected_record : (List.range 8).map (fun i => mapGet 0 rejected.host.mem (0x10040 + i)) =
      [0x17, 0x0A, 0x30, 0x00, 0x07, 0x01, 0x03, 0x00] ∧
    (List.range 8).map (fun i => mapGet 0 rejected.host.mem (0x10048 + i)) = leBytes 8 0x000003FF00000412 ∧
    rejected.rdN aHifRingTail = 2051 := by decide +kernel

/-- The arbiter's example (R251): wait_limit 5, base 1, ceiling 4; A is requester 0 with priority 2, B and C, 1 and 2, with 1.
The winner in each cycle is served in the next. -/
def arbStep (x : State × List Nat) (live : List Nat) : State × List Nat :=
  match x.1.arbWinner 33792 live with
  | some w => (x.1.arbServe 33792 live w, x.2 ++ [w])
  | none => x

def arbState : State := st [(arbCtrl 33792, 5 + 1 * 2 ^ 16 + 4 * 2 ^ 20), (aL2cArbPrio 0, 0x112)]

theorem test_arbiter :
    ([[0, 1], [0, 1, 2], [0, 1, 2], [0, 1, 2], [0, 1, 2], [0, 1, 2], [0, 2], [0]].foldl arbStep (arbState, [])).2 =
      [0, 0, 0, 0, 0, 1, 2, 0] := by decide +kernel

/-! ### Published vectors of the algorithms that the spec names -/

/-- Philox-4x32-10 with key and counter zero (R126). -/
theorem test_philox : philox 0 0 = 0x9B00DBD8BC57AC4CE169C58D6627E8D5 := by decide +kernel

/-- SHAKE256 of the empty message (R528). -/
theorem test_shake : shake256 [] 8 = [0x46, 0xB9, 0xDD, 0x2B, 0x0B, 0xA8, 0x8D, 0x13] := by decide +kernel

/-- The CRC-64 of R348 over the digits 1 to 9: 0x62EC_59E3_F1A4_F00A. -/
theorem test_crc : crc64 ((List.range 9).map (fun i => BitVec.ofNat 8 (0x31 + i))) = 0x62EC59E3F1A4F00A := by decide +kernel

end Sys2Proof.Tests
end

section
/-! PROOFS. The route entries of R386 and R420: their rows in the register table, what a write by the MP stores in one, and
that an unloaded one gives no route. -/
namespace Sys2Proof.Machine

/-! ### Parts of a bit field -/

/-- A part of a field that was just written reads that part of the value. -/
theorem bits_setBits_inside {hi lo hi' lo' : Nat} (hlo : lo ≤ lo') (hm : lo' ≤ hi') (hhi : hi' ≤ hi) (v x : Nat) :
    bits (setBits v hi lo x) hi' lo' = bits x (hi' - lo) (lo' - lo) := by
  apply Nat.eq_of_testBit_eq
  intro i
  rw [testBit_bits, testBit_bits, testBit_setBits (by omega)]
  have hw : hi' - lo + 1 - (lo' - lo) = hi' + 1 - lo' := by omega
  rw [hw]
  by_cases q : i < hi' + 1 - lo'
  · have hin : lo ≤ lo' + i ∧ lo' + i ≤ hi := by omega
    have hp : lo' + i - lo = lo' - lo + i := by omega
    rw [if_pos hin, hp]
  · simp [q]

/-- A field within the low bits of a number is the number's field. -/
theorem bits_mod_two_pow {hi n : Nat} (h : hi < n) (v lo : Nat) : bits (v % 2 ^ n) hi lo = bits v hi lo := by
  apply Nat.eq_of_testBit_eq
  intro i
  rw [testBit_bits, testBit_bits, Nat.testBit_mod_two_pow]
  by_cases q : i < hi + 1 - lo
  · have : lo + i < n := by omega
    simp [this]
  · simp [q]

/-- Field [hi:lo] of the low field [n:0] is field [hi:lo] of the number. -/
theorem bits_bits_zero {hi n : Nat} (h : hi ≤ n) (v lo : Nat) : bits (bits v n 0) hi lo = bits v hi lo :=
  bits_mod_two_pow (Nat.lt_succ_of_le h) v lo

/-- What `keepF` gives the field it guards. -/
theorem bits_keepF_same {hi lo : Nat} (h : lo ≤ hi) (v old no : Nat) :
    bits (keepF v old hi lo no) hi lo = if bits v hi lo = no then bits old hi lo else bits v hi lo := by
  unfold keepF
  split
  · rw [bits_setBits_same h, Nat.mod_eq_of_lt (bits_lt old hi lo)]
  · rfl

/-- `keepF` leaves every field outside the one it guards as written. -/
theorem bits_keepF_disjoint {hi lo hi' lo' : Nat} (h : lo ≤ hi) (d : hi' < lo ∨ hi < lo') (v old no : Nat) :
    bits (keepF v old hi lo no) hi' lo' = bits v hi' lo' := by
  unfold keepF
  split
  · exact bits_setBits_disjoint h d _ _
  · rfl

/-! ### The search in the register table -/

/-- The first address past the last register of a row. -/
def RegSpec.stop (r : RegSpec) : Nat := r.base + r.s1 * (r.n1 - 1) + r.s2 * (r.n2 - 1) + r.bytes

/-- A row covers no address past its last register. -/
theorem RegSpec.hit_eq_none_of_stop_le {r : RegSpec} {a : Nat} (h : r.stop ≤ a) : r.hit a = none := by
  unfold RegSpec.hit
  split
  · rfl
  · rename_i hb
    apply if_neg
    rintro ⟨hi, hj, hx⟩
    have outer := Nat.div_add_mod (a - r.base) r.s1
    have inner := Nat.div_add_mod ((a - r.base) % r.s1) r.s2
    have houter := Nat.mul_le_mul_left r.s1 (Nat.le_sub_one_of_lt hi)
    have hinner := Nat.mul_le_mul_left r.s2 (Nat.le_sub_one_of_lt hj)
    unfold RegSpec.stop at h
    omega

/-- Rows that miss an address do not matter to the search for it. -/
theorem findIn_append_of_miss {l : List RegSpec} {a : Nat} (m : List RegSpec) (h : ∀ r ∈ l, r.hit a = none) :
    findIn (l ++ m) a = findIn m a := by
  induction l with
  | nil => rfl
  | cons r l ih =>
    rw [List.cons_append, findIn, h r List.mem_cons_self]
    exact ih fun q hq => h q (List.mem_cons_of_mem r hq)

/-- The search ends at a first row that covers the address. -/
theorem findIn_cons_of_hit {r : RegSpec} {a b : Nat} (l : List RegSpec) (h : r.hit a = some b) :
    findIn (r :: l) a = some (r, b) := by
  rw [findIn, h]

/-- Below the tile blocks the search is among the hub's rows. -/
theorem findReg_hub {a : Nat} (h : a < 0x2000000) : findReg a = findIn hubRegs a := if_neg (by omega)

/-! ### The rows of the route entries -/

/-- Address of route entry i: of a device of the own region (`l`), or of region i (R386). -/
def routeEntry (l : Bool) (i : Nat) : Nat := if l then aFabRouteLocal i else aFabRouteRegion i

/-- The table's row of the route entries (R420). -/
def routeRow (l : Bool) : RegSpec :=
  ⟨if l then 0x191400 else 0x191000, 256, 0x4, 1, 0x8000000, 4, [⟨21, 20, .rw, 0⟩, ⟨19, 0, .rw, 0⟩]⟩

/-- The hub's rows before those of the route entries. -/
def rowsBeforeRoutes : List RegSpec :=
  hubRegs1 ++ hubRegs2 ++ hubRegs3 ++ hubRegs4 ++ hubRegs5 ++ hubRegs6.take 1

/-- The hub's rows after those of the route entries. -/
def rowsAfterRoutes : List RegSpec := hubRegs6.drop 3 ++ hubRegs7 ++ hubRegs8

theorem hubRegs_eq_routes : hubRegs = rowsBeforeRoutes ++ routeRow false :: routeRow true :: rowsAfterRoutes := rfl

theorem stop_le_of_mem_rowsBeforeRoutes : ∀ r ∈ rowsBeforeRoutes, r.stop ≤ 0x191000 := by decide +kernel

theorem routeEntry_bounds (l : Bool) {i : Nat} (h : i < 256) :
    0x191000 ≤ routeEntry l i ∧ routeEntry l i < 0x191800 ∧ routeEntry l i % 4 = 0 := by
  cases l <;> simp only [routeEntry, aFabRouteLocal, aFabRouteRegion, if_true, if_false, Bool.false_eq_true] <;> omega

/-- A row of route entries covers its 256 entries. -/
theorem routeRow_hit (l : Bool) {i : Nat} (h : i < 256) : (routeRow l).hit (routeEntry l i) = some (routeEntry l i) := by
  have hit (base : Nat) : RegSpec.hit ⟨base, 256, 0x4, 1, 0x8000000, 4, (routeRow l).fields⟩ (base + 0x4 * i) =
      some (base + 0x4 * i) := by
    have hq : base + 0x4 * i - base = 0x4 * i := by omega
    simp only [RegSpec.hit, hq]
    rw [if_neg (by omega), if_pos (by omega)]
    congr 1
    omega
  cases l
  · exact hit 0x191000
  · exact hit 0x191400

/-- A route entry is the register of its own row. -/
theorem findReg_routeEntry (l : Bool) {i : Nat} (h : i < 256) :
    findReg (routeEntry l i) = some (routeRow l, routeEntry l i) := by
  obtain ⟨hlo, hhi, -⟩ := routeEntry_bounds l h
  rw [findReg_hub (by omega), hubRegs_eq_routes, findIn_append_of_miss]
  · cases l with
    | false => exact findIn_cons_of_hit _ (routeRow_hit false h)
    | true =>
      have hmiss : (routeRow false).hit (routeEntry true i) = none :=
        RegSpec.hit_eq_none_of_stop_le (Nat.le_add_right 0x191400 (0x4 * i))
      rw [findIn, hmiss]
      exact findIn_cons_of_hit _ (routeRow_hit true h)
  · exact fun r hr => RegSpec.hit_eq_none_of_stop_le (Nat.le_trans (stop_le_of_mem_rowsBeforeRoutes r hr) hlo)

/-- The reset value of a route entry is 0 (R420). -/
theorem regDefault_routeEntry (l : Bool) {i : Nat} (h : i < 256) : regDefault (routeEntry l i) = 0 := by
  obtain ⟨hlo, hhi, -⟩ := routeEntry_bounds l h
  unfold regDefault
  rw [if_neg (by omega), if_neg (by omega), findReg_routeEntry l h]
  rfl

/-! ### A write that nothing turns away -/

/-- An access that finds nothing held for its requester discards nothing (R13). -/
theorem State.discard_of_holdsNone {s : State} {k : Nat} (h : s.holdsNone k) (keep : Keeps) : s.discard k keep = s := by
  have stays (l : List HeldHalf) (hl : ∀ x ∈ l, x.req ≠ k) (o : Option Nat) :
      l.filter (fun x => decide (x.req ≠ k) || o == some x.addr) = l ∧
        l.filter (fun x => !(decide (x.req ≠ k) || o == some x.addr)) = [] := by
    constructor
    · exact List.filter_eq_self.mpr fun x hx => by simp [hl x hx]
    · exact List.filter_eq_nil_iff.mpr fun x hx => by simp [hl x hx]
  simp only [State.holdsNone, List.mem_append] at h
  have lows := stays s.host.lows fun x hx => h x (.inl (.inl (.inl hx)))
  have highs := stays s.host.highs fun x hx => h x (.inl (.inl (.inr hx)))
  have rngLows := stays s.host.rngLows fun x hx => h x (.inl (.inr hx))
  have rngCaps := stays s.host.rngCaps fun x hx => h x (.inr hx)
  simp only [State.discard, State.onHost, lows, highs, rngLows, rngCaps, List.foldl_nil]

/-- A write that nothing turns away is made. -/
theorem State.regWrite_of_admits {s : State} {req : Requester} {a : Nat} {wide : Bool} (h : s.admits req a wide) (v : Nat) :
    s.regWrite req a wide v = s.writeAs (reqKey req) a wide v := by
  obtain ⟨hup, halign, hfrozen, hreserved, haperture, hoff, hdrop, hmp⟩ := h
  have hhost : ¬(req = .host ∧ (!s.hostUp ∨ 1024 ≤ s.host.fifo.length)) := by
    rintro ⟨hr, hq⟩
    obtain ⟨up, room⟩ := hup hr
    rcases hq with hq | hq
    · simp [up] at hq
    · omega
  unfold State.regWrite
  rw [if_neg hhost, if_neg (by simp [hmp]), if_neg (fun ⟨h1, h2, _⟩ => haperture ⟨h1, h2⟩),
    if_neg (by simpa [halign] using hfrozen), if_neg (by simpa [hreserved] using haperture), if_neg (by simp [hoff]),
    if_neg (by simp [hdrop])]

/-- A 32-bit write of a 32-bit register by a requester that holds nothing is a whole write of it. -/
theorem State.writeAs_short {s : State} {k a b : Nat} {r : RegSpec} (hk : s.holdsNone k) (hr : findReg a = some (r, b))
    (h4 : r.bytes = 4) (v : Nat) : s.writeAs k a false v = s.regPut b (v % 2 ^ 32) := by
  simp only [State.writeAs, hr, h4, State.discard_of_holdsNone hk, if_true, Bool.not_false]

/-! ### A write of a route entry -/

/-- Nothing but a freeze turns a write of a route entry by the MP away. -/
theorem State.admits_routeEntry {s : State} (hf : s.frozen = false) (l : Bool) {i : Nat} (h : i < 256) :
    s.admits .mp (routeEntry l i) false := by
  obtain ⟨hlo, hhi, h4⟩ := routeEntry_bounds l h
  have hblock : routeEntry l i / 0x10000 = 0x19 := by omega
  have hlow : ¬ routeEntry l i < 0x100000 := by omega
  have hhigh : ¬ 0x1F0000 ≤ routeEntry l i := by omega
  have htile : ¬ 0x2000000 ≤ routeEntry l i := by omega
  refine ⟨by simp, ?_, by simp [hf], ?_, by omega, ?_, ?_, ?_⟩
  · simp [misaligned, h4]
  · simp [reservedRange, hlow, hhigh]
  · simp [State.regOff, hblock, htile]
  · simp [State.dropWrite]
  · simp [State.mpHolds, engineState, htile]

/-- What a route entry stores of a write of v over the value `old`. -/
def routeStore (v old : Nat) : Nat :=
  setBits (setBits old 21 20 (bits (keepF v old 21 20 3) 21 20)) 19 0 (bits (keepF v old 21 20 3) 19 0)

/-- The mode stored is the one written, or the old one where 0b11 is written (R420). -/
theorem bits_routeStore_mode (v old : Nat) :
    bits (routeStore v old) 21 20 = if bits v 21 20 = 3 then bits old 21 20 else bits v 21 20 := by
  unfold routeStore
  rw [bits_setBits_disjoint (by omega) (by omega), bits_setBits_same (by omega), Nat.mod_eq_of_lt (bits_lt _ 21 20),
    bits_keepF_same (by omega)]

/-- A part of the four port fields is stored as written. -/
theorem bits_routeStore_port {hi lo : Nat} (hm : lo ≤ hi) (h : hi ≤ 19) (v old : Nat) :
    bits (routeStore v old) hi lo = bits v hi lo := by
  unfold routeStore
  rw [bits_setBits_inside (Nat.zero_le lo) hm h, Nat.sub_zero, Nat.sub_zero, bits_bits_zero h,
    bits_keepF_disjoint (by omega) (by omega)]

theorem routeStore_lt {old : Nat} (h : old < 2 ^ 64) (v : Nat) : routeStore v old < 2 ^ 64 :=
  setBits_lt (by omega) (by omega) (setBits_lt (by omega) (by omega) h _) _

theorem limitWrite_routeEntry (l : Bool) {i : Nat} (h : i < 256) (old v : Nat) :
    limitWrite (routeEntry l i) old v = keepF v old 21 20 3 := by
  obtain ⟨hlo, hhi, -⟩ := routeEntry_bounds l h
  unfold limitWrite
  rw [if_neg (by omega)]
  iterate 5 rw [if_neg (by simp only [aClkThrottle, aL2cSlotCap, aL2cPinCtrl, aLnkCfg, aFabCfg]; omega)]
  rw [if_pos (by simp only [aFabRouteRegion, aFabRouteLocal]; omega)]

theorem State.storeFirst_routeEntry (s : State) (l : Bool) {i : Nat} (h : i < 256) :
    s.storeFirst (routeEntry l i) = true := by
  obtain ⟨hlo, hhi, -⟩ := routeEntry_bounds l h
  have hhead : routeEntry l i ≠ aHifRingHead := by unfold aHifRingHead; omega
  have hclear : routeEntry l i ≠ aCntClear := by unfold aCntClear; omega
  have hgroup : ¬ aCeGroupG0 0 ≤ routeEntry l i := by unfold aCeGroupG0; omega
  simp [State.storeFirst, hhead, hclear, hgroup]

/-- A write of a route entry does nothing beyond storing. -/
theorem State.hubEffect_routeEntry (s : State) (l : Bool) {i : Nat} (h : i < 256) (v old : Nat) :
    s.hubEffect (routeEntry l i) v old = s := by
  obtain ⟨hlo, hhi, -⟩ := routeEntry_bounds l h
  unfold State.hubEffect
  iterate 14 rw [if_neg (by
    simp only [aRstGroup, aRstPort, aSeXlateInv, aL2cSlotCap, aL2cPinRelease, aDdrCtrl, aDdrRetireCtrl, aLnkCfg, aFabId,
      aCntClear, aDbgBreak, aHifRingHead, aCeGroupG0]
    omega)]

/-- A whole write of a route entry. -/
theorem State.regPut_routeEntry (s : State) (l : Bool) {i : Nat} (h : i < 256) (v : Nat) :
    s.regPut (routeEntry l i) v = s.wrN (routeEntry l i) (routeStore v (s.rdN (routeEntry l i))) := by
  obtain ⟨-, hhi, -⟩ := routeEntry_bounds l h
  simp only [State.regPut, findReg_routeEntry l h, State.storeFirst_routeEntry s l h, State.hubEffect_routeEntry _ l h,
    limitWrite_routeEntry l h, if_true]
  rw [if_neg (by omega)]
  rfl

/-- A 32-bit write of a route entry by the MP, outside a freeze and with nothing held for the MP. -/
theorem State.regWrite_routeEntry {s : State} (hf : s.frozen = false) (hk : s.holdsNone (reqKey .mp)) (l : Bool) {i : Nat}
    (h : i < 256) (v : Nat) :
    s.regWrite .mp (routeEntry l i) false v =
      s.wrN (routeEntry l i) (routeStore (v % 2 ^ 32) (s.rdN (routeEntry l i))) := by
  rw [State.regWrite_of_admits (State.admits_routeEntry hf l h), State.writeAs_short hk (findReg_routeEntry l h) rfl,
    State.regPut_routeEntry s l h]

/-- A field of a route entry reads what `routeStore` put there. -/
theorem State.getF_wrN_routeStore (s : State) (a v hi lo : Nat) :
    (s.wrN a (routeStore v (s.rdN a))).getF a hi lo = bits (routeStore v (s.rdN a)) hi lo := by
  have hlt : s.rdN a < 2 ^ 64 := (s.rd a).isLt
  rw [State.getF_wrN, if_pos rfl, Nat.mod_eq_of_lt (routeStore_lt hlt v)]

/-! ### No route -/

/-- An entry that reads zero names no valid port, so it gives no route (R386, R420). -/
theorem State.usable_zero (s : State) : s.usable 0 = [] := by
  have hports : [bits 0 4 0, bits 0 9 5, bits 0 14 10, bits 0 19 15].filter (fun x => decide (16 ≤ x)) = [] := by decide
  rw [State.usable, hports]
  rfl

/-- The entry that serves a destination (R386). -/
def State.routeEntryFor (s : State) (dst : Nat) : Nat :=
  if dst / 256 = s.devId / 256 then routeEntry true (dst % 256) else routeEntry false (dst / 256)

theorem State.route_eq_none_of_usable {s : State} {dst : Nat} (h : s.usable (s.rdN (s.routeEntryFor dst)) = [])
    (src ctx vc : Nat) : s.route dst src ctx vc = none := by
  have he : (if dst / 256 = s.devId / 256 then s.rdN (aFabRouteLocal (dst % 256)) else s.rdN (aFabRouteRegion (dst / 256))) =
      s.rdN (s.routeEntryFor dst) := by
    unfold State.routeEntryFor
    split <;> rfl
  simp only [State.route, he, h]

/-! ### The statement -/

/-- The state after reset meets the hypotheses on a write by the MP. -/
theorem State.reset_admits_routeEntry_write : State.reset.frozen = false ∧ State.reset.holdsNone (reqKey .mp) :=
  ⟨by decide, by simp [State.holdsNone, State.reset]⟩

/-- Settles O51: a route entry's row gives it reset value 0, a zero entry names no valid port, and a write by the MP is
one register update, whose fields are those of `routeStore`. -/
theorem routeEntriesKeepReservedModes : Obligations.RouteEntriesKeepReservedModes := by
  refine ⟨fun l i hi => ?_, fun s dst src ctx vc h0 => ?_, fun s l i data hi hf hk => ?_⟩
  · exact congrArg BitVec.toNat (regDefault_routeEntry l hi)
  · have hz : s.rdN (s.routeEntryFor dst) = 0 := h0
    exact State.route_eq_none_of_usable (by rw [hz, State.usable_zero]) src ctx vc
  · change Answers (.registerWrite .mp (BitVec.ofNat 26 (routeEntry l i)) false data) s _
    obtain ⟨-, hhi, -⟩ := routeEntry_bounds l hi
    have haddr : (BitVec.ofNat 26 (routeEntry l i)).toNat = routeEntry l i := by
      rw [BitVec.toNat_ofNat, Nat.mod_eq_of_lt (by omega)]
    refine ⟨s.wrN (routeEntry l i) (routeStore (data.toNat % 2 ^ 32) (s.rdN (routeEntry l i))), ?_, fun j hj => ?_, ?_,
      fun a ha => ?_, rfl⟩
    · change Host.Outcome.next (s.regWrite .mp _ false data.toNat) = _
      rw [haddr, State.regWrite_routeEntry hf hk l hi]
    · change State.getF _ (routeEntry l i) _ _ = _
      rw [State.getF_wrN_routeStore, bits_routeStore_port (by omega) (by omega), bits_mod_two_pow (by omega)]
    · change State.getF _ (routeEntry l i) _ _ = ite _ (State.getF s (routeEntry l i) _ _) _
      rw [State.getF_wrN_routeStore, bits_routeStore_mode, bits_mod_two_pow (by omega)]
      rfl
    · exact (State.rd_wr ..).trans (if_neg ha)

end Sys2Proof.Machine
end

section
/-! PROOFS. GET_CERT (R535): what a packet that passes every check gets served, what a DMA write puts into host memory, and the
order of the certificates there. -/
namespace Sys2Proof.Machine

/-! ### Bytes written one after the other -/

/-- Stores at places other than an address leave it alone. -/
theorem Memory.get_foldl_of_ne {f : Nat → Nat} {data : List Byte} {m : List Host.Cell} {n a : Nat}
    (h : ∀ j < data.length, a ≠ f (n + j)) :
    mapGet 0 ((data.zip (List.range' n data.length)).foldl (fun m x => mapPut 0 m (f x.2) x.1) m) a = mapGet 0 m a := by
  induction data generalizing m n with
  | nil => rfl
  | cons x r ih =>
    have hrest : ∀ j < r.length, a ≠ f (n + 1 + j) := fun j hj => by
      rw [Nat.add_assoc, Nat.add_comm 1 j]
      exact h (j + 1) (Nat.succ_lt_succ hj)
    simp only [List.length_cons, List.range'_succ, List.zip_cons_cons, List.foldl_cons, ih hrest]
    exact mapGet_mapPut_ne 0 0 m x (h 0 (Nat.succ_pos _))

/-- Stores at places that all differ: each place reads the byte stored there. -/
theorem Memory.get_foldl_same {f : Nat → Nat} {data : List Byte} {m : List Host.Cell} {n j : Nat}
    (hf : ∀ i k, i < k → k < data.length → f (n + i) ≠ f (n + k)) (hj : j < data.length) :
    mapGet 0 ((data.zip (List.range' n data.length)).foldl (fun m x => mapPut 0 m (f x.2) x.1) m) (f (n + j)) =
      data.getD j 0 := by
  induction data generalizing m n j with
  | nil => cases hj
  | cons x r ih =>
    have hshift (i : Nat) : n + 1 + i = n + (i + 1) := by omega
    simp only [List.length_cons, List.range'_succ, List.zip_cons_cons, List.foldl_cons]
    cases j with
    | zero =>
      rw [Memory.get_foldl_of_ne fun k hk => by
        rw [hshift]
        exact hf 0 (k + 1) (Nat.succ_pos k) (Nat.succ_lt_succ hk)]
      exact mapGet_mapPut_same 0 m (f n) x
    | succ j =>
      rw [← hshift j, List.getD_cons_succ]
      exact ih (fun i k hik hk => by
        rw [hshift, hshift]
        exact hf (i + 1) (k + 1) (Nat.succ_lt_succ hik) (Nat.succ_lt_succ hk)) (Nat.lt_of_succ_lt_succ hj)

/-- A DMA write of at most 2^64 bytes overwrites none of its own: each of its places reads its byte. -/
theorem HostIf.get_put_same (h : HostIf) (addr : Nat) {data : List Byte} {j : Nat} (hlen : data.length ≤ 2 ^ 64)
    (hj : j < data.length) : mapGet 0 (h.put addr data).mem ((addr + j) % 2 ^ 64) = data.getD j 0 := by
  have hf : ∀ i k, i < k → k < data.length → (addr + (0 + i)) % 2 ^ 64 ≠ (addr + (0 + k)) % 2 ^ 64 := by omega
  have hput := Memory.get_foldl_same (f := fun x => (addr + x) % 2 ^ 64) (m := h.mem) hf hj
  simpa only [HostIf.put, List.range_eq_range', Nat.zero_add] using hput

/-- A DMA write leaves every other byte of host memory alone. -/
theorem HostIf.get_put_of_ne (h : HostIf) {addr a : Nat} {data : List Byte}
    (ha : ∀ j < data.length, a ≠ (addr + j) % 2 ^ 64) : mapGet 0 (h.put addr data).mem a = mapGet 0 h.mem a := by
  have hne : ∀ j < data.length, a ≠ (addr + (0 + j)) % 2 ^ 64 := by simpa only [Nat.zero_add] using ha
  have hput := Memory.get_foldl_of_ne (f := fun x => (addr + x) % 2 ^ 64) (m := h.mem) hne
  simpa only [HostIf.put, List.range_eq_range'] using hput

/-! ### Serving a packet that passes every check -/

/-- While every waiting packet has a known opcode, none is answered BAD_OPCODE. -/
theorem State.badOpcodes_of_known {s : State} (h : ∀ x ∈ s.host.fifo, (hostRow (pktOpcode x)).isSome = true) (n : Nat) :
    s.badOpcodes n = s := by
  cases n with
  | zero => rfl
  | succ n =>
    have hnone : (s.host.fifo.zipIdx).find? (fun x => (hostRow (pktOpcode x.1)).isNone && !s.classBusy 0 (pktPart x.1) &&
        (s.host.fifo.take x.2).all (fun k => pktPart k != pktPart x.1)) = none := by
      refine List.find?_eq_none.mpr fun x hx => ?_
      have hknown := h x.1 (List.fst_mem_of_mem_zipIdx hx)
      simp [Option.isNone_eq_false_iff.mpr hknown]
    simp only [State.badOpcodes, hnone]

/-- A packet that passes every check is taken out of the FIFO and its body is carried out (R458, R459). -/
theorem State.hostCommandAt_of_accepts {s : State} {op i : Nat} {k : List Byte} {limits : State → List Byte → List Limit}
    (h : s.accepts op (limits s k) k i) (body : State → List Byte → Nat → State) :
    s.hostCommandAt op limits body = body (s.takeAt i) k i := by
  obtain ⟨⟨hserves, hknown, hawake, hnext, -⟩, hmode, r, hrow, hfault⟩ := h
  have hbad : (if s.mode = 4 then s else s.badOpcodes s.host.fifo.length) = s := by
    rw [State.badOpcodes_of_known hknown, ite_self]
  simp [State.hostCommandAt, hserves, hbad, hrow, hnext, hawake, hmode, hfault]

/-- The same for a body that is not told the packet's place. -/
theorem State.hostCommand_of_accepts {s : State} {op i : Nat} {k : List Byte} {limits : State → List Byte → List Limit}
    (h : s.accepts op (limits s k) k i) (body : State → List Byte → State) :
    s.hostCommand op limits body = body (s.takeAt i) k :=
  State.hostCommandAt_of_accepts h fun s k _ => body s k

/-- Where a check that can only name a fault names none, the checks after it name none. -/
theorem eq_none_of_ite_some_eq_none {α : Type} {c : Prop} [Decidable c] {a : α} {x : Option α}
    (h : (if c then some a else x) = none) : x = none := by
  by_cases hc : c
  · rw [if_pos hc] at h
    cases h
  · rwa [if_neg hc] at h

/-- A packet that passes check 4 keeps every limit (R458). -/
theorem State.limit_of_packetFault_none {s : State} {r : HostRow} {k : List Byte} {limits : List Limit}
    (h : s.packetFault r k limits = none) {l : Limit} (hl : l ∈ limits) : l.2 = true := by
  unfold State.packetFault at h
  have hparam := eq_none_of_ite_some_eq_none (eq_none_of_ite_some_eq_none h)
  have hnone := List.min?_eq_none_iff.mp (Option.map_eq_none_iff.mp hparam)
  have hkept := List.map_eq_nil_iff.mp (List.append_eq_nil_iff.mp hnone).2
  simpa using List.filter_eq_nil_iff.mp hkept l hl

/-- The buffer of a packet that passes every check holds at most 16 MiB (R458). -/
theorem State.bufLen_le_of_accepts {s : State} {op i o : Nat} {k : List Byte} (h : s.accepts op (bufLimits k o) k i) :
    bufLen k o ≤ 2 ^ 24 := by
  obtain ⟨-, -, r, -, hfault⟩ := h
  have hlen := State.limit_of_packetFault_none hfault (List.mem_cons_of_mem _ List.mem_cons_self)
  exact (of_decide_eq_true hlen).2.1

/-- Taking a packet changes of the host interface its FIFO only (R455). -/
theorem State.host_takeAt (s : State) (i : Nat) : (s.takeAt i).host = { s.host with fifo := s.host.fifo.eraseIdx i } := by
  simp [State.takeAt, State.hifShow]

/-- What a command answers that writes data into its buffer by a good DMA (R462). -/
theorem State.fillBuffer_dmaOk (s : State) (k : List Byte) (o : Nat) (data : List Byte) :
    s.fillBuffer k o true data =
      if data.length ≤ bufLen k o then (s.onHost (·.put (bufAddr k o) data)).reply k stOk data.length 0
      else s.reply k stBadParam data.length 0 := by
  unfold State.fillBuffer State.ok
  by_cases h : data.length ≤ bufLen k o
  · simp [h, Nat.not_lt.mpr h]
  · simp [h, Nat.lt_of_not_le h]

/-! ### The statement -/

/-- The count, and each certificate behind its length, the device's first (R535). -/
theorem certBlob_eq : certBlob = [2, 0, 0, 0] ++ leBytes 4 Config.deviceCert.length ++ Config.deviceCert ++
    leBytes 4 Config.caCert.length ++ Config.caCert := rfl

/-- A GET_CERT packet of the device, with a buffer of 64 bytes at bus address 64 (R457, R462). -/
def getCertPacket : List Byte := leBytes 64 (0x02 + 255 * 2 ^ 32 + 64 * 2 ^ 128 + 64 * 2 ^ 192)

/-- The device after reset, in a mode, with that packet in its FIFO. -/
def getCertState (mode : Nat) : State :=
  { State.reset.wrN aHifStatus mode with host := { fifo := [getCertPacket] } }

/-- The normal mode as recovery meets the hypotheses of the statement. -/
theorem getCertState_accepts {m : Nat} (h : m = 1 ∨ m = 2) :
    (getCertState m).mode = m ∧ (getCertState m).accepts 0x02 (bufLimits getCertPacket 16) getCertPacket 0 := by
  obtain rfl | rfl := h <;>
    exact ⟨by decide, ⟨by decide, by decide, by decide, by decide, by decide⟩, by decide, _, rfl, by decide⟩

/-- Settles O48: the packet that passes every check is taken and its buffer filled with `certBlob`, whose bytes the DMA write
puts at the buffer's address, and nowhere else. -/
theorem certificatesAreServedInOrder : Obligations.CertificatesAreServedInOrder := by
  intro s k i _ h
  rw [← certBlob_eq]
  have hrun : exec (.getCert true) s = .next ((s.takeAt i).fillBuffer k 16 true certBlob) :=
    congrArg Host.Outcome.next (State.hostCommand_of_accepts (limits := fun _ k => bufLimits k 16) h _)
  refine ⟨_, hrun, ?_⟩
  rw [State.fillBuffer_dmaOk]
  dsimp only
  by_cases hfit : certBlob.length ≤ bufLen k 16
  · have hlen : certBlob.length ≤ 2 ^ 64 := by
      have := State.bufLen_le_of_accepts h
      omega
    rw [if_pos hfit, if_pos hfit]
    refine ⟨(s.takeAt i).onHost (·.put (bufAddr k 16) certBlob), fun j hj => ?_, fun a ha => ?_, rfl, rfl⟩
    · exact HostIf.get_put_same _ _ hlen hj
    · rw [State.host_onHost, HostIf.get_put_of_ne _ ha, State.host_takeAt]
  · rw [if_neg hfit, if_neg hfit]

end Sys2Proof.Machine
end
